-- ==== Sys2Proof/Word.lean ====
section
/-!
DEFINITION. The index types of the part's blocks, bytes, and reading and replacing one place of a table.
-/

namespace Sys2Proof

/-- A byte of a frame (11_layouts.md R184). -/
abbrev Byte := BitVec 8

/-- A master port, P0 to P3 (R174). -/
abbrev PortId := Fin 4

/-- A cursor slot, 0 to 7 (R99). -/
abbrev Slot := Fin 8

/-- A watch slot of one cursor, 0 to 7 (R142). -/
abbrev WatchId := Fin 8

/-- A recorder slot, 0 to 63 (R27). -/
abbrev RecId := Fin 64

/-- A mapping block of one recorder, 0 to 7 (R28). -/
abbrev BlockId := Fin 8

/-- A switching point, 0 to 4,095 (R25). -/
abbrev PointId := Fin 4096

/-- A Checkpoint Table index, 0 to 63 (R83). -/
abbrev CkptId := Fin 64

/-- The table `v` with place `i` replaced by `x`. -/
def vput {α : Type} {n : Nat} (v : Vector α n) (i : Fin n) (x : α) : Vector α n :=
  v.set i.val x i.isLt

/-- The place `i` of a table of `n` that a number names, when it names one. -/
def asIndex (n i : Nat) : Option (Fin n) :=
  if h : i < n then some ⟨i, h⟩ else none

end Sys2Proof
end

