-- ==== Sys2Proof/Config.lean ====
section
/-!
DEFINITION. The capacities and limits the spec fixes, and the values it leaves open (free values: constants with no body).
-/

namespace Sys2Proof.Config

/-- Grid times run from 0 to 2^40 − 1 µs (00_scope.md, Conventions). -/
def maxGrid : Nat := 2 ^ 40 - 1

/-- Recorder times and tick counts run from 0 to 2^48 − 1 (R43). -/
def maxRecorderTime : Nat := 2 ^ 48 - 1

/-- The History Store holds up to 262,144 records (R1). -/
def storeCapacity : Nat := 262144

/-- The Gap List holds up to 512 entries (R62). -/
def gapCapacity : Nat := 512

/-- The Segment Queue holds at most 8 segments (R64). -/
def queueCapacity : Nat := 8

/-- A finished list holds the last 8 finished segments of its port (R72). -/
def finishedCapacity : Nat := 8

/-- A pending list holds at most 64 entries (R49). -/
def pendingCapacity : Nat := 64

/-- A record's source list holds at most 4 sources (R17). -/
def sourceCapacity : Nat := 4

/-- A segment carries at most 1,024 entries (R40). -/
def maxEntries : Nat := 1024

/-- A port's request queue holds 4 frames (R175). -/
def requestCapacity : Nat := 4

/-- A port's notice queue holds 32 notices (R178). -/
def noticeCapacity : Nat := 32

/-- A cursor's PUSH queue holds 16 items (R137). -/
def bufferSlots : Nat := 16

/-- A cursor's probe queue holds 4 probes (R154). -/
def probeCapacity : Nat := 4

/-- A trail holds the last 8 applied records (R151). -/
def trailCapacity : Nat := 8

/-- Counts of 16 bits that stop at 65,535 (R22, R145, R178). -/
def countLimit : Nat := 65535

/-- A gap entry's lost count stops at 4,294,967,295 (R60). -/
def lostLimit : Nat := 4294967295

/-- The greatest value of the checkpoint use counter (R84). -/
def stampLimit : Nat := 4294967295

/-- A frame's body has at most 16,392 bytes (R184). -/
def maxBody : Nat := 16392

/-- The family code DESCRIBE reports (R181 gives no number). Free value, log 6. -/
opaque familyCode : Nat

/-- The revision number DESCRIBE reports (R181 gives no number). Free value, log 6. -/
opaque revision : Nat

/-- The tag in the header of the n-th NOTICE or DELIVERY frame: the spec gives a tag to requests and
responses alone (R176, R184). Free value, log 6. -/
opaque frameTag : Nat → Nat

/-- The body of the n-th frame sent whose body the spec does not lay out (R190): its length, taken up to the limit of
R184, and its bytes. Free values, log 40. -/
opaque bodyLength : Nat → Nat

/-- The bytes of that body. Free value, log 40. -/
opaque bodyByte : Nat → Nat → BitVec 8

/-- The code of the n-th order among cursors that one event reaches, where no order is given (R120, R171,
R173). Free value, log 5. -/
opaque orderCode : Nat → Nat

end Sys2Proof.Config
end

