-- ==== Sys2Proof/Syntax.lean ====
section
/-!
DEFINITION. The commands of the part: one constructor of `Instr` for each row of spec/opcode_table.json, with the
values their operands carry. Requests name the port whose frame is taken; a number that a rule checks against a
range is a plain Nat, so that an argument out of range can be carried and refused.
-/

namespace Sys2Proof

/-- A state a recorder reports a point entering (Table 1-1): OPEN, CLOSED, INTERMEDIATE, FAULTY. -/
inductive SwState
  | opened | closed | intermediate | faulty
  deriving DecidableEq, Repr

/-- A state of a point in an image (Table 2-1): one a record can carry, or UNKNOWN. -/
inductive PtState
  | known (s : SwState)
  | unknown
  deriving DecidableEq, Repr

/-- How a record's time was obtained, best first (Table 1-1). -/
inductive Quality
  | locked | free | estimated
  deriving DecidableEq, Repr

/-- The kind of a switching device (Table 2-1). -/
inductive DeviceKind
  | breaker | disconnector | earthSwitch
  deriving DecidableEq, Repr

/-- A record's key (R2): time, then recorder slot, segment sequence and entry index of its timing source. -/
structure Key where
  time : Nat
  slot : Nat
  seq : Nat
  idx : Nat
  deriving DecidableEq, Repr

/-- Where READ_RECORDS starts (R23). -/
inductive ReadStart
  | instant (t : Nat)
  | key (k : Key)
  deriving DecidableEq, Repr

/-- One point setting of SET_POINT (R32); kind and state are the codes of Table 11-2. -/
structure PointSetting where
  enabled : Bool
  station : Nat
  kindCode : Nat
  stateCode : Nat
  deriving DecidableEq, Repr

/-- The three fields of a mapping block as SET_MAP_BLOCK carries them (R28, R34). -/
structure BlockArgs where
  first : Nat
  count : Nat
  base : Nat
  deriving DecidableEq, Repr

/-- A watch as SET_WATCH carries it (R148): the kind with its parameters; states, point kinds and thresholds
are the codes of Table 11-2. -/
inductive WatchArgs
  | pointState (point stateCode : Nat)
  | stationCount (station kindCode stateCode threshold : Nat)
  | quality (thresholdCode : Nat)
  | instant (t : Nat)
  /-- `none` is ANY. -/
  | gap (recorder : Option Nat)
  /-- A kind whose code Layouts does not define. -/
  | undefinedKind (code : Nat)
  deriving DecidableEq, Repr

/-- The commands: the requests of Table 10-2, the frames, lines and links, and the part's own events. -/
inductive Instr
  /-- POWER_ON (R183). -/
  | powerOn
  /-- RESET_ASSERT: RESET_N goes low (R183). -/
  | resetAssert
  /-- RESET_RELEASE: RESET_N rises (R183). -/
  | resetRelease
  /-- LINK_UP (R174). -/
  | linkUp (p : PortId)
  /-- LINK_DOWN (R180). -/
  | linkDown (p : PortId)
  /-- MARK_IN_EDGE: a rising edge of MARK_IN (R182). -/
  | markInEdge
  /-- FRAME_RECEIVE: the bytes of one frame arrive (R175). -/
  | frameReceive (p : PortId) (bytes : List Byte)
  /-- FRAME_ERROR (R175). -/
  | frameError (p : PortId)
  /-- UNKNOWN_REQUEST (R176). -/
  | unknownRequest (p : PortId)
  /-- FRAME_TRANSMIT: the link can carry a frame (R177). -/
  | frameTransmit (p : PortId)
  /-- DESCRIBE (R181). -/
  | describe (p : PortId)
  /-- SUBSCRIBE with the subscription set of Table 11-2 (R179). -/
  | subscribe (p : PortId) (set : Byte)
  /-- BEGIN_COLLECTION (R6). -/
  | beginCollection (p : PortId)
  /-- SEAL_HISTORY (R7). -/
  | sealHistory (p : PortId)
  /-- CLEAR_HISTORY (R11). -/
  | clearHistory (p : PortId)
  /-- READ_RECORDS (R23). -/
  | readRecords (p : PortId) (start : ReadStart) (last : Option Nat) (count : Nat) (zeroRelative : Bool)
  /-- READ_GAPS (R63). -/
  | readGaps (p : PortId) (start count : Nat) (recorder : Option Nat)
  /-- SET_POINT (R32). -/
  | setPoint (p : PortId) (first : Nat) (settings : List PointSetting)
  /-- SET_RECORDER (R33). -/
  | setRecorder (p : PortId) (recorder : Nat) (enabled : Bool) (tickUnit : Nat) (offset drift : Int)
      (fallback : Option Nat)
  /-- SET_MAP_BLOCK (R34); `none` makes the block absent. -/
  | setMapBlock (p : PortId) (recorder block : Nat) (fields : Option BlockArgs)
  /-- SET_STUDY (R35). -/
  | setStudy (p : PortId) (epoch : Option (BitVec 64)) (window threshold interval : Option Nat)
  /-- SET_EVENT_ZERO (R36). -/
  | setEventZero (p : PortId) (t : Nat)
  /-- LOAD_SEGMENT; its body is the frame's (R65, R188). -/
  | loadSegment (p : PortId)
  /-- CANCEL_SEGMENT (R73). -/
  | cancelSegment (p : PortId) (recorder seq : Nat)
  /-- READ_RECORDER (R81). -/
  | readRecorder (p : PortId) (recorder : Nat)
  /-- SET_ATTENTION_MASK; its body is the frame's (R78, R187). -/
  | setAttentionMask (p : PortId)
  /-- CLEAR_CAUSES; its body is the frame's (R79, R187). -/
  | clearCauses (p : PortId)
  /-- OPEN_CURSOR (R103). -/
  | openCursor (p : PortId)
  /-- READ_CURSOR (R106). -/
  | readCursor (p : PortId) (slot : Nat)
  /-- SET_CURSOR; `payload` is the presence mask and the options block, which follow the slot in the frame's body (R104,
  R187, log 12). -/
  | setCursor (p : PortId) (slot : Nat) (payload : List Byte)
  /-- SEEK (R107). -/
  | seek (p : PortId) (slot target : Nat) (chain : Bool)
  /-- PLAY (R109). -/
  | play (p : PortId) (slot : Nat) (restart : Bool)
  /-- STEP (R110). -/
  | step (p : PortId) (slot count : Nat)
  /-- HOLD (R111). -/
  | hold (p : PortId) (slot : Nat)
  /-- STOP (R112). -/
  | stop (p : PortId) (slot : Nat)
  /-- ARM (R118). -/
  | arm (p : PortId) (slot : Nat)
  /-- SNAPSHOT (R123). -/
  | snapshot (p : PortId) (slot first last : Nat) (station : Option Nat)
  /-- CLOSE_CURSOR (R105). -/
  | closeCursor (p : PortId) (slot : Nat)
  /-- FETCH (R136). -/
  | fetch (p : PortId) (slot : Nat)
  /-- PROBE (R154). -/
  | probe (p : PortId) (slot tag point instant : Nat)
  /-- SET_WATCH; `actions` is the watch action set of Table 11-2 (R148). -/
  | setWatch (p : PortId) (slot watch : Nat) (args : WatchArgs) (actions : Byte)
  /-- CLEAR_WATCH (R149). -/
  | clearWatch (p : PortId) (slot watch : Nat)
  /-- READ_WATCHES with its clear set (R150). -/
  | readWatches (p : PortId) (slot : Nat) (clear : List Nat)
  /-- READ_TRAIL (R153). -/
  | readTrail (p : PortId) (slot : Nat)
  /-- TAKE_CLOCK (R162). -/
  | takeClock (p : PortId) (wait : Bool)
  /-- RELEASE_CLOCK (R163). -/
  | releaseClock (p : PortId)
  /-- READ_CLOCK (R168). -/
  | readClock (p : PortId)
  /-- CLOCK_RUN (R165). -/
  | clockRun (p : PortId)
  /-- CLOCK_PAUSE (R165). -/
  | clockPause (p : PortId)
  /-- CLOCK_SET (R166). -/
  | clockSet (p : PortId) (instant : Nat)
  /-- CLOCK_RATE (R165). -/
  | clockRate (p : PortId) (rate : Nat)
  /-- SET_LEASE (R165). -/
  | setLease (p : PortId) (seconds : Nat)
  /-- CLOCK_ADVANCE: the pacing timer completes its millisecond (R160). -/
  | clockAdvance
  /-- LEASE_EXPIRY: the lease timer reaches 0 (R164). -/
  | leaseExpiry
  /-- SEGMENT_COMMIT: the store takes the commit of the segment in progress (R68). -/
  | segmentCommit
  /-- SEGMENT_FAILURE: the processing of the segment in progress fails (R69). -/
  | segmentFailure
  /-- STEP_READ: the read of a RUNNING cursor's next record (R113). -/
  | stepRead (k : Slot)
  /-- REBUILD_READ: one read of a rebuild in flight (R92). -/
  | rebuildRead (k : Slot)
  /-- PROBE_READ: one read of a computing probe (R155). -/
  | probeRead (k : Slot)
  /-- ITEM_WRITTEN: the cursor writes its next item (R113). -/
  | itemWritten (k : Slot)
  deriving DecidableEq, Repr

end Sys2Proof
end

