-- ==== Sys2Proof/Machine/State.lean ====
section
/-!
DEFINITION. The state of the part as plain data: every piece the spec names (INVENTORY.md, State), the queue of
commands, and the values after reset.
-/

namespace Sys2Proof.Machine

open Sys2Proof

/-! ### History Store (01_the_switching_history.md) -/

/-- The three phases of the store (R5). -/
inductive Phase
  | setup | collecting | sealed
  deriving DecidableEq, Repr

/-- One report in a record's source list (Table 1-1). -/
structure Source where
  recorder : RecId
  seq : Nat
  idx : Nat
  /-- The recorder time at which the report was placed (R48). -/
  recorderTime : Nat
  deriving DecidableEq, Repr

/-- One record of the Switching History (Table 1-1). The source list is `timing :: others`, so it is never empty. -/
structure Record where
  time : Nat
  point : PointId
  state : SwState
  quality : Quality
  cause : Option Nat
  timing : Source
  others : List Source
  commit : Nat
  late : Bool
  repositioned : Bool
  deriving DecidableEq, Repr

/-- The History Store (R1 to R5). -/
structure History where
  phase : Phase
  /-- In ascending key order (R2). -/
  records : List Record
  commitCount : Nat
  greatest : Option Nat
  deriving DecidableEq, Repr

/-! ### Configuration Tables (02_points_recorders_and_channel_maps.md) -/

/-- A Point Table entry (Table 2-1). -/
structure PointEntry where
  enabled : Bool
  station : Nat
  kind : DeviceKind
  initial : PtState
  deriving DecidableEq, Repr

/-- A mapping block (R28). -/
structure MapBlock where
  first : Nat
  count : Nat
  base : Nat
  deriving DecidableEq, Repr

/-- A Recorder Table entry with its mapping blocks (Table 2-3, R28). -/
structure RecorderEntry where
  enabled : Bool
  tickUnit : Nat
  offset : Int
  drift : Int
  fallback : Option Nat
  blocks : Vector (Option MapBlock) 8
  deriving DecidableEq, Repr

/-- The study parameters (Table 2-4). -/
structure Study where
  epoch : BitVec 64
  eventZero : Nat
  window : Nat
  stepThreshold : Nat
  /-- The checkpoint interval in whole seconds. -/
  interval : Nat
  deriving DecidableEq, Repr

/-- The Configuration Tables. -/
structure Tables where
  points : Vector PointEntry 4096
  recorders : Vector RecorderEntry 64
  study : Study
  deriving DecidableEq, Repr

/-! ### Recorder Contexts and the Gap List (03_recorder_archives_and_time_recovery.md) -/

/-- How a recorder's entries are timed (R43). -/
inductive TimingState
  | unanchored | anchored | estimating
  deriving DecidableEq, Repr

/-- The quality of an anchor (Table 3-1). -/
inductive AnchorQuality
  | locked | free
  deriving DecidableEq, Repr

/-- A CHANGE entry waiting for a time base (R43). -/
structure PendingEntry where
  seq : Nat
  idx : Nat
  point : PointId
  state : SwState
  cause : Option Nat
  ticks : Nat
  deriving DecidableEq, Repr

/-- The timing fields of a recorder context: Table 3-2 without the flags, the mask and noted (R66). -/
structure Timing where
  state : TimingState
  running : Option Nat
  baseQuality : Option AnchorQuality
  driftBase : Option Nat
  lastKnown : Option Nat
  lastRecord : Option Nat
  lastAnchor : Option Nat
  pendingList : List PendingEntry
  tickCount : Nat
  /-- Gap List index of the open gap, of a staged opening too. -/
  openGap : Option Nat
  lastSeq : Option Nat
  deriving DecidableEq, Repr

/-- The eleven causes, in the order of Table 3-4, which is their bit order (Table 11-2). -/
inductive Cause
  | segmentGap | loss | pendingSpill | clockStep | backward | unmapped | timeRange | corrobFull | gapListFull
  | noTimeBase | segmentFailed
  deriving DecidableEq, Repr

/-- A set of causes: bit i is the i-th cause of Table 3-4. -/
abbrev CauseSet := BitVec 11

/-- A recorder's committed context (Table 3-2). -/
structure Context where
  timing : Timing
  flags : CauseSet
  mask : CauseSet
  noted : Bool
  deriving DecidableEq, Repr

/-- An entry of the Gap List (R62). -/
structure Gap where
  recorder : RecId
  start : Nat
  stop : Option Nat
  lost : Option Nat
  deriving DecidableEq, Repr

/-- A segment entry (Table 3-1), with its tick delta. -/
inductive SegEntry
  | anchor (delta time : Nat) (quality : AnchorQuality)
  | step (delta advance : Nat)
  | change (delta channel : Nat) (state : SwState) (cause : Option Nat)
  | loss (delta : Nat) (lost : Option Nat)
  deriving DecidableEq, Repr

/-! ### Merge Engine (04_the_merge_engine.md) -/

/-- A candidate record (section 1.5, R48). -/
structure Candidate where
  time : Nat
  point : PointId
  state : SwState
  quality : Quality
  cause : Option Nat
  source : Source
  deriving DecidableEq, Repr

/-- A staged change of the Gap List (R20, R59 to R61); entries are named by index. -/
inductive GapChange
  | opening (recorder : RecId) (start : Nat) (lost : Option Nat)
  | closing (index : Nat) (time : Nat)
  | addLost (index : Nat) (lost : Option Nat)
  deriving DecidableEq, Repr

/-- An entry of the Segment Queue (R64). -/
structure QueuedSegment where
  port : PortId
  recorder : RecId
  seq : Nat
  body : List Byte
  deriving DecidableEq, Repr

/-- How a segment finished (Table 4-1). -/
inductive SegOutcome
  | committed | cancelled | duplicate | malformed | storeFull | noTimeBase | cleared
  deriving DecidableEq, Repr

/-- What the engine holds for the segment in progress (R66). -/
structure Work where
  saved : Context
  working : Timing
  staged : List Candidate
  stagedGaps : List GapChange
  raised : CauseSet
  deriving DecidableEq, Repr

/-- What processing has built so far of a segment: the working timing, the staging area and the raised set; `opened`
counts the staged openings (R59, R66). -/
structure Proc where
  timing : Timing
  staged : List Candidate
  gapChanges : List GapChange
  opened : Nat
  raised : CauseSet
  deriving DecidableEq, Repr

/-- What the processing of a segment comes to (R67, R69): a commit to hand over, or a failure with the entry index
SEGMENT_DONE reports. -/
inductive Verdict
  | commit (p : Proc)
  | failed (outcome : SegOutcome) (entry : Option Nat)
  deriving DecidableEq, Repr

/-- A touched record of a commit (R22): its point, its touched times, and its key after the commit. -/
structure Touched where
  commit : Nat
  point : PointId
  times : List Nat
  key : Key
  deriving DecidableEq, Repr

/-- What a commit has made of the store so far (R16 to R19): the touched records, the counts SEGMENT_DONE reports, and
the recorders whose source met a full source list. -/
structure CommitAcc where
  history : History
  touched : List Touched
  committed : Nat
  corroborated : Nat
  full : List RecId
  deriving DecidableEq, Repr

/-- An entry of a finished list (R72). -/
structure FinishedSegment where
  recorder : RecId
  seq : Nat
  outcome : SegOutcome
  deriving DecidableEq, Repr

/-- The Merge Engine: the queue, oldest first and in progress first, and the four finished lists, oldest first. -/
structure MergeEngine where
  queue : List QueuedSegment
  work : Option Work
  finished : Vector (List FinishedSegment) 4
  deriving DecidableEq, Repr

/-! ### Checkpoints (05_checkpoints_and_seeking.md) -/

/-- What an image holds for a point that a record has set (Table 1-1, R26). -/
structure ImageCell where
  state : SwState
  time : Nat
  commit : Nat
  deriving DecidableEq, Repr

/-- An image of the 4,096 points: the cells that records have set, in ascending point order; every other point
stands as in the Initial Image (R26; log 9). -/
abbrev Image := List (PointId × ImageCell)

/-- A Checkpoint Table entry (Table 5-1); position `none` is "before first". -/
structure Checkpoint where
  instant : Nat
  valid : Bool
  image : Image
  position : Option Key
  stamp : Nat
  deriving DecidableEq, Repr

/-- The Checkpoint Table with its use counter (R83, R84). -/
structure CheckpointTable where
  entries : Vector Checkpoint 64
  counter : Nat
  deriving DecidableEq, Repr

/-! ### Cursors (06 to 08) -/

/-- The states of an open cursor (Table 6-3); a FREE slot holds no cursor. -/
inductive CursorState
  | idle | armed | seeking | held | running | ended | unsettled
  deriving DecidableEq, Repr

inductive Pacing
  | freeRun | bound
  deriving DecidableEq, Repr

inductive DeliveryMode
  | notice | push
  deriving DecidableEq, Repr

inductive ItemForm
  | full | compact
  deriving DecidableEq, Repr

/-- The four time presentations (R129). -/
inductive Presentation
  | absolute | zeroRelative | previousRelative | recorderLocal
  deriving DecidableEq, Repr

/-- Trigger sources (Table 6-2). -/
inductive TriggerSource
  | request | line | cursor (k : Slot) | clockMark
  deriving DecidableEq, Repr

inductive TriggerAction
  | play | seekPlay
  deriving DecidableEq, Repr

/-- A cursor's options (Table 6-2). -/
structure Options where
  pacing : Pacing
  windowStart : Nat
  windowEnd : Option Nat
  loop : Bool
  mode : DeliveryMode
  batchSize : Nat
  split : Bool
  form : ItemForm
  presentation : Presentation
  source : TriggerSource
  action : TriggerAction
  deriving DecidableEq, Repr

/-- An overtake record (R22). -/
structure Overtake where
  earliest : Nat
  count : Nat
  deriving DecidableEq, Repr

/-- Markers with their arguments (Table 7-2). -/
inductive Marker
  | seekDone (target : Nat)
  | wrap (start : Nat)
  | rebase (earliest count : Nat)
  | watch (slot : WatchId)
  | gapOpen (recorder : RecId) (index start : Nat)
  | gapClose (recorder : RecId) (index stop : Nat)
  | endPass (instant : Nat)
  | head (instant : Nat)
  deriving DecidableEq, Repr

/-- What a FULL item adds (Table 7-1). -/
structure FullPart where
  cause : Option Nat
  commit : Nat
  sources : List Source
  deriving DecidableEq, Repr

/-- A RECORD item (R127); its time is already presented (R129). -/
structure RecordItem where
  presentation : Presentation
  time : Int
  point : PointId
  state : SwState
  quality : Quality
  late : Bool
  repositioned : Bool
  corroborated : Bool
  noChange : Bool
  full : Option FullPart
  deriving DecidableEq, Repr

/-- The content of an item (R126 to R128). -/
inductive ItemBody
  | record (r : RecordItem)
  | snap (point : PointId) (state : PtState) (time commit : Option Nat)
  | marker (m : Marker)
  deriving DecidableEq, Repr

/-- An item in a buffer, with its item number (R126). -/
structure Item where
  number : Nat
  body : ItemBody
  deriving DecidableEq, Repr

/-- An item not yet written: its time is presented when it is written (R129, R131). -/
inductive ItemPlan
  | record (r : Record) (noChange : Bool)
  | snap (point : PointId)
  | marker (m : Marker)
  deriving DecidableEq, Repr

/-- A half of a split buffer (R133). -/
inductive Half
  | a | b
  deriving DecidableEq, Repr

/-- A completed batch not yet fetched; half `none` in unsplit mode (R135). -/
structure Batch where
  half : Option Half
  first : Nat
  items : List Item
  deriving DecidableEq, Repr

/-- A delivery buffer (Table 7-3). STALLED is that the waiting item is present (R131). -/
structure Buffer where
  writing : List Item
  completed : List Batch
  half : Option Half
  outgoing : List Item
  waiting : Option ItemPlan
  nextNumber : Nat
  refTime : Option Nat
  deriving DecidableEq, Repr

inductive QualityThreshold
  | atOrBelowFree | estimatedOnly
  deriving DecidableEq, Repr

/-- A watch's kind and parameters (Table 8-2). -/
inductive WatchCond
  | pointState (point : PointId) (state : SwState)
  | stationCount (station : Nat) (kind : Option DeviceKind) (state : SwState) (threshold : Nat)
  | quality (threshold : QualityThreshold)
  | instant (t : Nat)
  | gap (recorder : Option RecId)
  deriving DecidableEq, Repr

/-- A watch's action set (Table 8-1). -/
structure WatchActions where
  hold : Bool
  mark : Bool
  signal : Bool
  deriving DecidableEq, Repr

/-- A filled watch slot (Table 8-1). -/
structure Watch where
  cond : WatchCond
  actions : WatchActions
  fired : Bool
  hits : Nat
  deriving DecidableEq, Repr

/-- What a probe answers (R155). -/
structure ProbeAnswer where
  state : PtState
  time : Option Nat
  commit : Option Nat
  quality : Option Quality
  deriving DecidableEq, Repr

/-- A computing probe: the instant of the checkpoint it chose (absent for the Initial Image), the key of the last
record it read, and the answer so far (R97, R155). -/
structure ProbeWork where
  chosen : Option Nat
  lastRead : Option Key
  answer : ProbeAnswer
  deriving DecidableEq, Repr

/-- A queued probe; `work` is present once it computes (R154, R155). -/
structure Probe where
  tag : Nat
  point : PointId
  instant : Nat
  work : Option ProbeWork
  deriving DecidableEq, Repr

/-- A trail entry (R151); its time is the key's. -/
structure TrailEntry where
  key : Key
  point : PointId
  state : SwState
  quality : Quality
  commit : Nat
  late : Bool
  repositioned : Bool
  before : PtState
  deriving DecidableEq, Repr

inductive RebuildKind
  | seek | rebase | wrap
  deriving DecidableEq, Repr

inductive RebuildOutcome
  | inFlight | completed | abandoned | restarted
  deriving DecidableEq, Repr

/-- The rebuild record (R98). -/
structure RebuildRecord where
  kind : RebuildKind
  target : Nat
  start : Option Nat
  applied : Nat
  outcome : RebuildOutcome
  deriving DecidableEq, Repr

/-- A rebuild in flight (R85, R89): the kept overtake record is that of a rebase. -/
structure Rebuild where
  kind : RebuildKind
  target : Nat
  standing : Option Nat
  kept : Option Overtake
  deriving DecidableEq, Repr

/-- What the abort of a step restores (R157). -/
structure StepUndo where
  point : PointId
  cell : Option ImageCell
  position : Option Key
  instant : Option Nat
  stepBase : Option Nat
  trail : List TrailEntry
  stepsLeft : Nat
  applied : Bool
  refTime : Option Nat
  nextNumber : Nat
  deriving DecidableEq, Repr

/-- A step in flight (R113, R144): the items still to be written after the waiting one, how many are written, the
firing watches, the applied record's commit number and time, and what an abort restores. -/
structure StepFlight where
  todo : List ItemPlan
  written : Nat
  fired : List WatchId
  commit : Nat
  time : Nat
  undo : StepUndo
  deriving DecidableEq, Repr

/-- The causes of a CURSOR_STATE notice (Table 6-5). -/
inductive StateCause
  | trigger | windowEnd | sealTaken | clockSet
  deriving DecidableEq, Repr

/-- What a cursor has in flight besides a snapshot and its probes. -/
inductive Op
  /-- Nothing: a RUNNING cursor is at a step boundary (R114). -/
  | none
  /-- A rebuild whose reads go on (R92). -/
  | rebuild (r : Rebuild)
  /-- A completed seek whose SEEK_DONE waits (R131). -/
  | seekDone
  /-- A completed rebase whose REBASE waits (R131). -/
  | rebaseDone
  /-- A seek whose SEEK_DONE is written and whose waiting probes are served (R108). -/
  | serving
  /-- A step (R113). -/
  | step (f : StepFlight)
  /-- A window end whose END waits (R115, R131). -/
  | ending (cause : StateCause)
  /-- A wrap whose WRAP waits (R116, R131). -/
  | wrapping
  /-- A head of the store whose HEAD waits (R117, R131). -/
  | heading
  deriving DecidableEq, Repr

/-- What a step's read comes to (R113). -/
inductive StepAnswer
  | apply (r : Record)
  | windowEnd
  | head
  | clock
  deriving DecidableEq, Repr

/-- A gap marker of a step, with what orders it (R113). -/
structure GapMark where
  time : Nat
  index : Nat
  closing : Bool
  recorder : RecId
  deriving DecidableEq, Repr

/-- A snapshot in flight: the points not yet written, and whether a rebase opens it and no SNAP item is written
yet (R122, R123). -/
structure SnapWork where
  todo : List PointId
  opening : Bool
  deriving DecidableEq, Repr

inductive ArmedFrom
  | idle | held
  deriving DecidableEq, Repr

inductive PendingHold
  | hold | stop
  deriving DecidableEq, Repr

/-- An open cursor (Table 6-1). STALLED, PROBING, REBASING and SNAPSHOT are derived (Machine/Flags.lean). -/
structure Cursor where
  owner : PortId
  state : CursorState
  options : Options
  image : Option Image
  position : Option Key
  instant : Option Nat
  stepBase : Option Nat
  overtaken : Option Overtake
  chain : Bool
  armedFrom : Option ArmedFrom
  stepsLeft : Nat
  /-- It runs under a STEP (R110, R114). -/
  underStep : Bool
  pendingHold : Option PendingHold
  lagging : Bool
  atHead : Bool
  waiting : Bool
  /-- It waits at the head or for the clock and no read is due (R114, R169). -/
  parked : Bool
  /-- An aborted step is to be executed again (R157). -/
  redo : Bool
  /-- This pass has applied a record (R116). -/
  applied : Bool
  /-- A seal reached this bound cursor at the head (R117). -/
  sealEnd : Bool
  op : Op
  snap : Option SnapWork
  buffer : Buffer
  watches : Vector (Option Watch) 8
  probes : List Probe
  trail : List TrailEntry
  trailFrozen : Bool
  rebuildRecord : Option RebuildRecord
  deriving DecidableEq, Repr

/-! ### Common Clock (09_the_common_clock.md) -/

inductive RunState
  | stopped | running
  deriving DecidableEq, Repr

/-- The Common Clock (Table 9-1). The timers hold wall time left in milliseconds, `none` when stopped. -/
structure Clock where
  instant : Nat
  run : RunState
  rate : Nat
  controller : Option PortId
  waitList : List PortId
  leasePeriod : Nat
  leaseLeft : Option Nat
  pacing : Option Nat
  deriving DecidableEq, Repr

/-- The causes of a CLOCK notice (R167). -/
inductive ClockCause
  | run | pause | set | rate | control | limit
  deriving DecidableEq, Repr

/-! ### Port Interface (10_master_ports.md) -/

/-- A subscription set (R179). -/
structure Subs where
  attention : Bool
  segmentsAll : Bool
  clock : Bool
  store : Bool
  deriving DecidableEq, Repr

/-- A frame in a request queue: a faulty frame keeps its place, its contents are discarded (R175). -/
inductive QueuedFrame
  | faulty
  | sound (code tag : Nat) (body : List Byte)
  deriving DecidableEq, Repr

/-- Response codes, in the order of Table 10-3, which numbers them from 0 (R185). -/
inductive RespCode
  | done | accepted | queued | nothingReady | wrongPhase | tableFault | notOwner | noCursor | badCursor | cursorBusy
  | notSettled | atEnd | badArgument | queueFull | tooLate | notFound | probeFull | clockBusy | notController
  | ingestActive | cursorsOpen | frameError | unknownRequest
  deriving DecidableEq, Repr

/-- Notice kinds, in the order of Table 10-4, which numbers them from 1 (R185). -/
inductive NoticeKind
  | batchReady | cursorState | watchFired | probeResult | segmentDone | recorderAttention | clock | clockGranted
  | clockLost | store | resync
  deriving DecidableEq, Repr

/-- The notices (Table 10-4). -/
inductive Notice
  | batchReady (k : Slot) (half : Option Half) (count first : Nat)
  | cursorState (k : Slot) (state : CursorState) (cause : StateCause) (instant : Option Nat)
  | watchFired (k : Slot) (fired : List WatchId) (commit time : Nat) (instant : Option Nat)
  | probeResult (k : Slot) (tag : Nat) (point : PointId) (instant : Nat) (answer : ProbeAnswer)
  | segmentDone (port : PortId) (recorder : RecId) (seq : Nat) (outcome : SegOutcome) (committed corroborations : Nat)
      (entry : Option Nat)
  | recorderAttention (recorder : RecId) (flags mask : CauseSet) (noted : Bool)
  | clock (cause : ClockCause) (instant : Nat) (run : RunState) (rate : Nat) (controller : Option PortId) (waiting : Nat)
  | clockGranted (instant : Nat) (run : RunState) (rate leasePeriod : Nat)
  | clockLost (instant : Nat) (controller : Option PortId)
  | store (phase : Phase) (commitCount : Nat)
  | resync (count : Nat) (kinds : List NoticeKind)
  deriving DecidableEq, Repr

/-- The kinds of table fault (Table 2-5). -/
inductive FaultKind
  | noRecorder | noPoint | blockChannelRange | blockPointRange | blockOverlap
  deriving DecidableEq, Repr

/-- The fault record of TABLE_FAULT (Table 2-6). -/
structure FaultRecord where
  kind : FaultKind
  recorder : Option RecId
  block : Option BlockId
  otherBlock : Option BlockId
  point : Option Nat
  deriving DecidableEq, Repr

/-- What DESCRIBE reports (R181). -/
structure Description where
  family : Nat
  revision : Nat
  ports : Nat
  points : Nat
  recorders : Nat
  store : Nat
  cursors : Nat
  checkpoints : Nat
  gapList : Nat
  epoch : BitVec 64
  eventZero : Nat
  phase : Phase
  commitCount : Nat
  port : PortId
  deriving DecidableEq, Repr

/-- One record of a READ_RECORDS response: the record with its time as presented and CORROBORATED (R23). -/
structure ReadRecord where
  record : Record
  presentation : Presentation
  time : Int
  corroborated : Bool
  deriving DecidableEq, Repr

/-- The buffer summary READ_CURSOR carries (R130). -/
structure BufferSummary where
  half : Option Half
  writing : Nat
  completed : List (Option Half × Nat × Nat)
  outgoing : Nat
  nextNumber : Nat
  deriving DecidableEq, Repr

/-- The activity flags of Table 6-1, in the bit order of Table 11-2. -/
structure Activity where
  stalled : Bool
  lagging : Bool
  atHead : Bool
  waiting : Bool
  probing : Bool
  rebasing : Bool
  snapshot : Bool
  deriving DecidableEq, Repr

/-- What READ_CURSOR carries for an open slot (R106). -/
structure CursorReport where
  owner : PortId
  state : CursorState
  armedFrom : Option ArmedFrom
  options : Options
  position : Option Key
  stepsLeft : Nat
  instant : Option Nat
  overtaken : Option Overtake
  chain : Bool
  trailFrozen : Bool
  pendingHold : Option PendingHold
  activity : Activity
  buffer : BufferSummary
  watchesFilled : Nat
  probes : Nat
  rebuildRecord : Option RebuildRecord
  deriving DecidableEq, Repr

/-- The requester's role at the clock (R168). -/
inductive ClockRole
  | controlling | waiting (place : Nat) | none
  deriving DecidableEq, Repr

/-- What READ_CLOCK carries (R168): the parts of Table 9-1 it lists, and the requester's role. -/
structure ClockReport where
  instant : Nat
  run : RunState
  rate : Nat
  controller : Option PortId
  waitList : List PortId
  leasePeriod : Nat
  leaseLeft : Option Nat
  role : ClockRole
  deriving DecidableEq, Repr

/-- The bodies responses carry. -/
inductive RespBody
  | empty
  | description (d : Description)
  | subscriptions (set : Subs)
  | tableFault (f : FaultRecord)
  | sealCounts (committed corroborated discarded : Nat)
  | records (rs : List ReadRecord) (more : Bool) (phase : Phase) (commitCount : Nat)
  | gaps (gs : List (Nat × Gap)) (more : Bool) (held : Nat)
  | pointsWritten (n : Nat)
  | queuePosition (n : Nat)
  | outcome (o : SegOutcome)
  | recorder (r : RecId) (c : Context) (attention : Bool) (queued : Nat) (inProgress : Bool)
  | causes (flags : CauseSet) (noted : Bool)
  | slot (k : Slot)
  | freeSlot (k : Slot)
  | cursor (k : Slot) (r : CursorReport)
  | snapCount (n : Nat)
  | batch (b : Batch)
  | watches (ws : Vector (Option Watch) 8)
  | trail (frozen : Bool) (entries : List TrailEntry)
  | granted
  | renewed
  | place (n : Nat)
  | clock (r : ClockReport)
  deriving DecidableEq, Repr

/-- A response code with its body. -/
structure Response where
  code : RespCode
  body : RespBody
  deriving DecidableEq, Repr

/-- The response holder's content: `ahead` is the number of queued notices formed before it (R177). -/
structure HeldResponse where
  tag : Nat
  response : Response
  ahead : Nat
  deriving DecidableEq, Repr

/-- A frame the part sends (R177). -/
inductive OutFrame
  | response (tag : Nat) (r : Response)
  | notice (n : Notice)
  | delivery (k : Slot) (it : Item)
  deriving DecidableEq, Repr

/-- The frame the link carried last, with its bytes (R184 to R190). -/
structure SentFrame where
  frame : OutFrame
  bytes : List Byte
  deriving DecidableEq, Repr

/-- A port (Table 10-1), with the frame it sent last (the model's view of the output, log 28). -/
structure Port where
  up : Bool
  requests : List QueuedFrame
  response : Option HeldResponse
  notices : List Notice
  lost : Bool
  droppedCount : Nat
  droppedKinds : List NoticeKind
  subs : Subs
  turn : Option Slot
  sent : Option SentFrame
  deriving DecidableEq, Repr

/-! ### The whole part -/

/-- What cursor events change: the cursors, the checkpoints, the ports, and the model's counter of free
orders (log 5). -/
structure Live where
  cursors : Vector (Option Cursor) 8
  checkpoints : CheckpointTable
  ports : Vector Port 4
  draws : Nat
  deriving DecidableEq, Repr

/-- What cursor events read and never change. -/
structure Env where
  history : History
  tables : Tables
  gaps : List Gap
  clock : Clock
  deriving DecidableEq, Repr

/-- No event of the part stops it: there is no fault (INVENTORY.md, Faults). -/
inductive Fault
  deriving DecidableEq, Repr

/-- The only refusal is the interface's own; no arm of `exec` raises it (safe). -/
inductive Refusal
  /-- Raised by an arm of `exec` whose command had no meaning yet; none is left. Safe. -/
  | notModelled (mnemonic : String)
  deriving DecidableEq, Repr

/-- The whole part, with the queue of commands waiting to be taken, oldest first. -/
structure State where
  /-- RESET_N is low (R183). -/
  resetLow : Bool
  history : History
  tables : Tables
  contexts : Vector Context 64
  gaps : List Gap
  merge : MergeEngine
  clock : Clock
  live : Live
  pending : List Instr
  deriving DecidableEq, Repr

/-! ### Values after reset -/

/-- Table 1-7. -/
def History.reset : History :=
  { phase := .setup, records := [], commitCount := 0, greatest := none }

/-- Table 2-1, power-on values. -/
def PointEntry.reset : PointEntry :=
  { enabled := false, station := 0, kind := .breaker, initial := .unknown }

/-- Table 2-3, power-on values, all blocks absent. -/
def RecorderEntry.reset : RecorderEntry :=
  { enabled := false, tickUnit := 1000, offset := 0, drift := 0, fallback := none, blocks := Vector.replicate 8 none }

/-- Table 2-4, defaults. -/
def Study.reset : Study :=
  { epoch := 0, eventZero := 0, window := 2000, stepThreshold := 1000, interval := 10 }

/-- Table 2-9. -/
def Tables.reset : Tables :=
  { points := Vector.replicate 4096 PointEntry.reset
    recorders := Vector.replicate 64 RecorderEntry.reset
    study := Study.reset }

/-- Table 3-2, reset values. -/
def Timing.reset : Timing :=
  { state := .unanchored, running := none, baseQuality := none, driftBase := none, lastKnown := none
    lastRecord := none, lastAnchor := none, pendingList := [], tickCount := 0, openGap := none, lastSeq := none }

/-- Table 4-2: flags clear, mask empty, noted clear. -/
def Context.reset : Context :=
  { timing := Timing.reset, flags := 0, mask := 0, noted := false }

/-- Table 4-2. -/
def MergeEngine.reset : MergeEngine :=
  { queue := [], work := none, finished := Vector.replicate 4 [] }

/-- R83: invalid; DESIGN CHOICE for the other fields, log 10. -/
def Checkpoint.reset : Checkpoint :=
  { instant := 0, valid := false, image := [], position := none, stamp := 0 }

/-- R83. -/
def CheckpointTable.reset : CheckpointTable :=
  { entries := Vector.replicate 64 Checkpoint.reset, counter := 0 }

/-- Table 9-1. -/
def Clock.reset : Clock :=
  { instant := 0, run := .stopped, rate := 1000, controller := none, waitList := [], leasePeriod := 60
    leaseLeft := none, pacing := none }

/-- An empty subscription set. -/
def Subs.empty : Subs := { attention := false, segmentsAll := false, clock := false, store := false }

/-- Table 10-1, with the link DOWN. -/
def Port.reset : Port :=
  { up := false, requests := [], response := none, notices := [], lost := false, droppedCount := 0
    droppedKinds := [], subs := Subs.empty, turn := none, sent := none }

/-- Every cursor slot FREE (R125), the checkpoints and the ports at their reset values. -/
def Live.reset : Live :=
  { cursors := Vector.replicate 8 none, checkpoints := CheckpointTable.reset
    ports := Vector.replicate 4 Port.reset, draws := 0 }

/-- The part right after power-on or a rising edge of RESET_N (R183). -/
def State.reset : State :=
  { resetLow := false, history := History.reset, tables := Tables.reset
    contexts := Vector.replicate 64 Context.reset, gaps := [], merge := MergeEngine.reset, clock := Clock.reset
    live := Live.reset, pending := [] }

end Sys2Proof.Machine
end

