-- ==== Sys2Proof/Machine/Ops.lean ====
section
/-!
DEFINITION. The shared operations: keys and the record list, images, notices and responses at the ports, cursor
slots, free orders, and the taking of a request at the front of a port's queue.
-/

namespace Sys2Proof.Machine

open Sys2Proof

/-! ### Keys and the record list (R2) -/

/-- R2: keys are compared field by field, each as an unsigned number. -/
def keyBefore (a b : Key) : Bool :=
  decide (a.time < b.time) ||
    (a.time == b.time &&
      (decide (a.slot < b.slot) ||
        (a.slot == b.slot &&
          (decide (a.seq < b.seq) || (a.seq == b.seq && decide (a.idx < b.idx))))))

/-- `k` lies strictly after a position; `none` is "before first". -/
def keyAfter (k : Key) (pos : Option Key) : Bool :=
  match pos with
  | none => true
  | some q => keyBefore q k

/-- R2: the key of a record is its time with its timing source. -/
def Record.key (r : Record) : Key :=
  { time := r.time, slot := r.timing.recorder.val, seq := r.timing.seq, idx := r.timing.idx }

/-- R1: the source list, timing source first. -/
def Record.sources (r : Record) : List Source := r.timing :: r.others

/-- R1: a record is CORROBORATED when its source list holds two or more sources. -/
def Record.corroborated (r : Record) : Bool := !r.others.isEmpty

/-- R2: a record takes its place in key order. -/
def insertRecord (r : Record) : List Record → List Record
  | [] => [r]
  | x :: xs => if keyBefore r.key x.key then r :: x :: xs else x :: insertRecord r xs

/-- The first record in key order after a position (R113). -/
def nextAfter (pos : Option Key) : List Record → Option Record
  | [] => none
  | r :: rs => if keyAfter r.key pos then some r else nextAfter pos rs

/-- The first record in key order after a position with time at or below `t` (R92). -/
def nextUpTo (pos : Option Key) (t : Nat) (rs : List Record) : Option Record :=
  match nextAfter pos rs with
  | none => none
  | some r => if r.time ≤ t then some r else none

/-- The greatest time of any record, absent for an empty store (R4). -/
def greatestTime : List Record → Option Nat
  | [] => none
  | r :: rs => some ((greatestTime rs).elim r.time (max r.time))

/-! ### Images (R26) -/

/-- The cell that a record has set for a point, absent where the point stands as in the Initial Image. -/
def Image.cell (img : Image) (p : PointId) : Option ImageCell :=
  match img with
  | [] => none
  | (q, c) :: rest => if q = p then some c else Image.cell rest p

/-- R92, R113: the point's entry takes a cell. -/
def Image.put (img : Image) (p : PointId) (c : ImageCell) : Image :=
  match img with
  | [] => [(p, c)]
  | (q, d) :: rest =>
      if q = p then (p, c) :: rest
      else if p.val < q.val then (p, c) :: (q, d) :: rest
      else (q, d) :: Image.put rest p c

/-- The point's entry goes back to the Initial Image. -/
def Image.erase (img : Image) (p : PointId) : Image :=
  match img with
  | [] => []
  | (q, d) :: rest => if q = p then rest else (q, d) :: Image.erase rest p

/-- R157: the entry a point held before a step. -/
def Image.restore (img : Image) (p : PointId) (c : Option ImageCell) : Image :=
  match c with
  | none => Image.erase img p
  | some d => Image.put img p d

/-- The state an image holds for a point: the cell's, or the initial state of the Point Table (R26). -/
def Image.stateOf (t : Tables) (img : Image) (p : PointId) : PtState :=
  match Image.cell img p with
  | none => (t.points.get p).initial
  | some c => .known c.state

/-- The cell a record leaves in an image. -/
def Record.cell (r : Record) : ImageCell := { state := r.state, time := r.time, commit := r.commit }

/-! ### Free orders (log 5) -/

/-- `x` put into a list at place `i`, at its end when the list is shorter. -/
def insertAt {α : Type} (i : Nat) (x : α) : List α → List α
  | [] => [x]
  | y :: ys => if i = 0 then x :: y :: ys else y :: insertAt (i - 1) x ys

/-- The order of a list that a code names: every order of the list is named by some code. -/
def reorder {α : Type} : List α → Nat → List α
  | [], _ => []
  | [x], _ => [x]
  | x :: y :: ys, code =>
      insertAt (code % (ys.length + 2)) x (reorder (y :: ys) (code / (ys.length + 2)))

/-- All slots, ascending. -/
def allSlots : List Slot := [0, 1, 2, 3, 4, 5, 6, 7]

/-- Takes each of several cursors in an order the spec leaves free (R120, R171, R173). -/
def inFreeOrder (ks : List Slot) (f : Slot → Live → Live) (l : Live) : Live :=
  match ks with
  | [] => l
  | [k] => f k l
  | _ => (reorder ks (Config.orderCode l.draws)).foldl (fun m k => f k m) { l with draws := l.draws + 1 }

/-! ### Cursor slots -/

/-- The cursor a slot holds; `none` is FREE (R99). -/
def Live.cursor (l : Live) (k : Slot) : Option Cursor := l.cursors.get k

/-- The slot `k` holds `c`. -/
def Live.setCursor (l : Live) (k : Slot) (c : Cursor) : Live :=
  { l with cursors := vput l.cursors k (some c) }

/-- The slot `k` becomes FREE (R99). -/
def Live.freeCursor (l : Live) (k : Slot) : Live :=
  { l with cursors := vput l.cursors k none }

/-- An operation on the cursor of an open slot; a FREE slot is left as it is. -/
def Live.withCursor (l : Live) (k : Slot) (f : Cursor → Live) : Live :=
  match l.cursor k with
  | none => l
  | some c => f c

/-- A change of the cursor of an open slot. -/
def Live.modify (l : Live) (k : Slot) (f : Cursor → Cursor) : Live :=
  l.withCursor k fun c => l.setCursor k (f c)

/-- The slots whose open cursor meets a condition, ascending. -/
def Live.slotsWhere (l : Live) (test : Cursor → Bool) : List Slot :=
  allSlots.filter fun k => (l.cursor k).elim false test

/-! ### Notices and responses (R177, R178) -/

/-- The kind of a notice (Table 10-4). -/
def Notice.kind : Notice → NoticeKind
  | .batchReady .. => .batchReady
  | .cursorState .. => .cursorState
  | .watchFired .. => .watchFired
  | .probeResult .. => .probeResult
  | .segmentDone .. => .segmentDone
  | .recorderAttention .. => .recorderAttention
  | .clock .. => .clock
  | .clockGranted .. => .clockGranted
  | .clockLost .. => .clockLost
  | .store .. => .store
  | .resync .. => .resync

/-- A set of notice kinds with one more kind. -/
def addKind (n : NoticeKind) (ks : List NoticeKind) : List NoticeKind :=
  if n ∈ ks then ks else ks ++ [n]

/-- R174, R178: a notice formed for a port joins its queue, is dropped and recorded when the queue is full, and is
dropped without trace when the link is DOWN. -/
def Port.push (p : Port) (n : Notice) : Port :=
  if !p.up then p
  else if p.notices.length < Config.noticeCapacity then { p with notices := p.notices ++ [n] }
  else
    { p with
      lost := true
      droppedCount := min (p.droppedCount + 1) Config.countLimit
      droppedKinds := addKind n.kind p.droppedKinds }

/-- R178: the oldest notice leaves; a RESYNC takes the freed place when notices were dropped. -/
def Port.popNotice (p : Port) : Port :=
  let rest := p.notices.drop 1
  if p.lost then
    { p with
      notices := rest ++ [.resync p.droppedCount p.droppedKinds]
      lost := false
      droppedCount := 0
      droppedKinds := [] }
  else { p with notices := rest }

/-- A port of the part. -/
def Live.port (l : Live) (p : PortId) : Port := l.ports.get p

/-- The port `p` becomes `x`. -/
def Live.setPort (l : Live) (p : PortId) (x : Port) : Live := { l with ports := vput l.ports p x }

/-- A notice to one port. -/
def Live.notify (l : Live) (p : PortId) (n : Notice) : Live := l.setPort p ((l.port p).push n)

/-- A notice to every port a condition selects. -/
def Live.notifyWhere (l : Live) (sel : PortId → Port → Bool) (n : Notice) : Live :=
  { l with ports := Vector.ofFn fun i => if sel i (l.port i) then (l.port i).push n else l.port i }

/-! ### The whole state -/

/-- What cursor events read. -/
def State.env (s : State) : Env :=
  { history := s.history, tables := s.tables, gaps := s.gaps, clock := s.clock }

/-- The state with its cursors, checkpoints and ports changed. -/
def State.withLive (s : State) (l : Live) : State := { s with live := l }

/-- A response that carries no body. -/
def Response.plain (c : RespCode) : Response := { code := c, body := .empty }

/-- DONE with no body. -/
def Response.done : Response := Response.plain .done

/-- R176: the request at the front of a port's queue, when the port can take it and its code is `code`: its tag and
body. A port takes a request when its response holder is empty; nothing is taken while RESET_N is low (R183). -/
def State.frontRequest (s : State) (p : PortId) (code : Nat) : Option (Nat × List Byte) :=
  let pt := s.live.port p
  if s.resetLow || !pt.up || pt.response.isSome then none
  else
    match pt.requests with
    | .sound c tag body :: _ => if c = code then some (tag, body) else none
    | _ => none

/-- R176: taking a request removes it from the queue. -/
def State.popRequest (s : State) (p : PortId) : State :=
  let pt := s.live.port p
  s.withLive (s.live.setPort p { pt with requests := pt.requests.drop 1 })

/-- R176, R177: a response is placed in the holder, formed before the notices of its event: `ahead` notices stood in
the queue when the event began. -/
def State.respond (s : State) (p : PortId) (tag ahead : Nat) (r : Response) : State :=
  let pt := s.live.port p
  s.withLive (s.live.setPort p { pt with response := some { tag := tag, response := r, ahead := ahead } })

/-- R176: a port takes the request at its front: the owning block's rule gives the response and the state it leaves,
in one event. Where the port cannot take such a request, nothing happens (log 1). -/
def takeRequest (p : PortId) (code : Nat) (rule : List Byte → State → Response × State) (s : State) : State :=
  match s.frontRequest p code with
  | none => s
  | some (tag, body) =>
      let ahead := (s.live.port p).notices.length
      let out := rule body (s.popRequest p)
      out.2.respond p tag ahead out.1

/-- R100 steps 1 and 2, R176: a request on a cursor names its slot. A body too short to carry the slot is
BAD_ARGUMENT, a slot above 7 or FREE is BAD_CURSOR, a controlling request from another port is NOT_OWNER. -/
def cursorRequest (p : PortId) (slot : Nat) (rule : Slot → Cursor → State → Response × State) (body : List Byte)
    (s : State) : Response × State :=
  if body.isEmpty then (Response.plain .badArgument, s)
  else
    match asIndex 8 slot with
    | none => (Response.plain .badCursor, s)
    | some k =>
        match s.live.cursor k with
        | none => (Response.plain .badCursor, s)
        | some c => if c.owner = p then rule k c s else (Response.plain .notOwner, s)

end Sys2Proof.Machine
end

