-- ==== Sys2Proof/Machine/Flags.lean ====
section
/-!
DEFINITION. Flags and summaries: cause sets, attention, noted and their notices, the activity flags of a cursor, the
LAGGING test.
-/

namespace Sys2Proof.Machine

open Sys2Proof

/-! ### Cause flags (R75 to R79) -/

/-- The bit of a cause in a cause flag set (Table 11-2). -/
def Cause.bit : Cause → Nat
  | .segmentGap => 0
  | .loss => 1
  | .pendingSpill => 2
  | .clockStep => 3
  | .backward => 4
  | .unmapped => 5
  | .timeRange => 6
  | .corrobFull => 7
  | .gapListFull => 8
  | .noTimeBase => 9
  | .segmentFailed => 10

/-- The set of one cause. -/
def Cause.set (c : Cause) : CauseSet := BitVec.twoPow 11 c.bit

/-- Whether a set holds a cause. -/
def CauseSet.holds (f : CauseSet) (c : Cause) : Bool := BitVec.getLsbD f c.bit

/-- R77: attention is true when some enabled flag is set. -/
def Context.attention (c : Context) : Bool := decide (c.flags &&& c.mask ≠ 0)

/-- R75, R76: a merge sets the flags of the merged set, and noted when some flag goes from clear to set. -/
def Context.merge (c : Context) (raised : CauseSet) : Context :=
  { c with
    flags := c.flags ||| raised
    noted := c.noted || decide (raised &&& ~~~c.flags ≠ 0) }

/-- R77: the notice of a rising edge of attention. -/
def attentionNotice (r : RecId) (c : Context) : Notice := .recorderAttention r c.flags c.mask c.noted

/-- R77: when a change turned a recorder's attention from false to true, every UP port subscribed to ATTENTION is
told. (A DOWN port's notice is dropped by the push.) -/
def notifyAttention (r : RecId) (before after : Context) (l : Live) : Live :=
  if !before.attention && after.attention then
    l.notifyWhere (fun _ p => p.subs.attention) (attentionNotice r after)
  else l

/-- R75 to R77: merges causes into a recorder's committed context, with the notice that follows. -/
def mergeCauses (r : RecId) (raised : CauseSet) (s : State) : State :=
  let before := s.contexts.get r
  let after := before.merge raised
  { s with
    contexts := vput s.contexts r after
    live := notifyAttention r before after s.live }

/-! ### Activity flags (Table 6-1) -/

/-- R131: STALLED is set while an item waits to be written. -/
def Cursor.stalled (c : Cursor) : Bool := c.buffer.waiting.isSome

/-- R154: PROBING is set while the probe queue is not empty. -/
def Cursor.probing (c : Cursor) : Bool := !c.probes.isEmpty

/-- R122, R131: REBASING is set from a rebase's start until its REBASE is written. -/
def Cursor.rebasing (c : Cursor) : Bool :=
  match c.op with
  | .rebuild r => r.kind == .rebase
  | .rebaseDone => true
  | _ => false

/-- R123: SNAPSHOT is set while a snapshot is in flight. -/
def Cursor.snapshotting (c : Cursor) : Bool := c.snap.isSome

/-- The activity flag set of READ_CURSOR. -/
def Cursor.activity (c : Cursor) : Activity :=
  { stalled := c.stalled, lagging := c.lagging, atHead := c.atHead, waiting := c.waiting, probing := c.probing
    rebasing := c.rebasing, snapshot := c.snapshotting }

/-- The pacing of a cursor is BOUND. -/
def Cursor.bound (c : Cursor) : Bool := c.options.pacing == .bound

/-- The target of the rebase a cursor is REBASING toward: the rebuild's, or the cursor instant once it is complete. -/
def Cursor.rebaseTarget (c : Cursor) : Nat :=
  match c.op with
  | .rebuild r => r.target
  | _ => c.instant.getD 0

/-- R170: the question the LAGGING test asks of the store. -/
def Cursor.behind (e : Env) (c : Cursor) : Bool :=
  e.history.records.any fun r =>
    decide (r.time ≤ e.clock.instant) &&
      (if c.rebasing then decide (c.rebaseTarget < r.time) else keyAfter r.key c.position)

/-- R170: the LAGGING test; LAGGING is only set here. -/
def Cursor.lagTest (e : Env) (c : Cursor) : Cursor :=
  if c.state = .running ∧ c.bound ∧ (c.stalled || c.probing || c.rebasing) ∧ c.behind e then { c with lagging := true }
  else c

/-- The LAGGING test of a slot. -/
def lagTest (e : Env) (k : Slot) (l : Live) : Live := l.modify k (Cursor.lagTest e)

end Sys2Proof.Machine
end

