-- ==== Sys2Proof/Machine/Operands.lean ====
section
/-!
DEFINITION. Reading arguments: the value codes of Layouts, the bodies whose layout the spec gives, and the ranges that
the request rules check before they act (BAD_ARGUMENT).
-/

namespace Sys2Proof.Machine

open Sys2Proof

/-! ### Bytes (R185: least significant byte first) -/

/-- The byte at an offset, as a number. -/
def byteAt (bs : List Byte) (i : Nat) : Nat := (bs.getD i 0).toNat

/-- The number of a list of bytes, least significant first. -/
def leValue : List Byte → Nat
  | [] => 0
  | b :: bs => b.toNat + 256 * leValue bs

/-- The `n`-byte field at an offset. -/
def leAt (bs : List Byte) (off n : Nat) : Nat := leValue ((bs.drop off).take n)

/-! ### Value codes (Table 11-2) -/

/-- States a record can carry: OPEN 1, CLOSED 2, INTERMEDIATE 3, FAULTY 4. -/
def swStateOf : Nat → Option SwState
  | 1 => some .opened
  | 2 => some .closed
  | 3 => some .intermediate
  | 4 => some .faulty
  | _ => none

/-- States of a point: the four, and UNKNOWN 5. -/
def ptStateOf (n : Nat) : Option PtState :=
  if n = 5 then some .unknown else (swStateOf n).map .known

/-- Point kinds: BREAKER 1, DISCONNECTOR 2, EARTH_SWITCH 3. -/
def deviceKindOf : Nat → Option DeviceKind
  | 1 => some .breaker
  | 2 => some .disconnector
  | 3 => some .earthSwitch
  | _ => none

/-- QUALITY watch thresholds. -/
def thresholdOf : Nat → Option QualityThreshold
  | 1 => some .atOrBelowFree
  | 2 => some .estimatedOnly
  | _ => none

/-- Time presentations. -/
def presentationOf : Nat → Option Presentation
  | 0 => some .absolute
  | 1 => some .zeroRelative
  | 2 => some .previousRelative
  | 3 => some .recorderLocal
  | _ => none

/-- A field of two codes, 0 and 1 (Table 11-9). -/
def binaryOf {α : Type} (zero one : α) : Nat → Option α
  | 0 => some zero
  | 1 => some one
  | _ => none

/-- Trigger sources (Table 11-9): REQUEST 0, LINE 1, CLOCK_MARK 2, CURSOR k 16 + k. -/
def triggerSourceOf (n : Nat) : Option TriggerSource :=
  match n with
  | 0 => some .request
  | 1 => some .line
  | 2 => some .clockMark
  | _ => if 16 ≤ n then (asIndex 8 (n - 16)).map .cursor else none

/-- A subscription set; bits 4 to 7 are reserved. -/
def subsOf (b : Byte) : Option Subs :=
  if b.toNat < 16 then
    some { attention := b.getLsbD 0, segmentsAll := b.getLsbD 1, clock := b.getLsbD 2, store := b.getLsbD 3 }
  else none

/-- A watch action set; bits 3 to 7 are reserved. -/
def actionsOf (b : Byte) : Option WatchActions :=
  if b.toNat < 8 then some { hold := b.getLsbD 0, mark := b.getLsbD 1, signal := b.getLsbD 2 } else none

/-- A cause flag set; bits 11 to 15 are reserved. -/
def causeSetOf (n : Nat) : Option CauseSet :=
  if n < 2048 then some (BitVec.ofNat 11 n) else none

/-! ### Tables and study parameters (R32 to R36) -/

/-- R32: one point setting, refused for a station above 255 or an undefined code. -/
def pointEntryOf (s : PointSetting) : Option PointEntry :=
  match deviceKindOf s.kindCode, ptStateOf s.stateCode with
  | some k, some st =>
      if s.station ≤ 255 then some { enabled := s.enabled, station := s.station, kind := k, initial := st } else none
  | _, _ => none

/-- Every value of a list read, or none when one cannot be. -/
def readAll {α β : Type} (f : α → Option β) : List α → Option (List β)
  | [] => some []
  | x :: xs =>
      match f x, readAll f xs with
      | some y, some ys => some (y :: ys)
      | _, _ => none

/-- R32: the run of entries a SET_POINT writes. -/
def pointRunOf (first : Nat) (settings : List PointSetting) : Option (List PointEntry) :=
  if settings.isEmpty || decide (1024 < settings.length) || decide (4095 < first + settings.length - 1) then none
  else readAll pointEntryOf settings

/-- R33: the tick units. -/
def tickUnitOk (n : Nat) : Bool := n == 1 || n == 10 || n == 100 || n == 1000

/-- R33: the arguments of SET_RECORDER, the blocks apart. -/
def recorderArgsOk (unit : Nat) (offset drift : Int) (fallback : Option Nat) : Bool :=
  tickUnitOk unit && decide (-(Config.maxGrid : Int) ≤ offset) && decide (offset ≤ (Config.maxGrid : Int)) &&
    decide (-500 ≤ drift) && decide (drift ≤ 500) &&
    fallback.elim true fun b => decide (b ≤ Config.maxRecorderTime)

/-- R28, R34: a mapping block, each field against its own range. -/
def blockOf (b : BlockArgs) : Option MapBlock :=
  if b.first ≤ 65535 ∧ 1 ≤ b.count ∧ b.count ≤ 4096 ∧ b.base ≤ 4095 then
    some { first := b.first, count := b.count, base := b.base }
  else none

/-- R35: the arguments of SET_STUDY. -/
def studyArgsOk (epoch : Option (BitVec 64)) (window threshold interval : Option Nat) : Bool :=
  (epoch.isSome || window.isSome || threshold.isSome || interval.isSome) &&
    (window.elim true fun w => decide (w ≤ 65535)) &&
    (threshold.elim true fun t => decide (1 ≤ t) && decide (t ≤ 1000000)) &&
    (interval.elim true fun i => decide (1 ≤ i) && decide (i ≤ 3600))

/-! ### Watches (R148) -/

/-- R148: a watch's condition, refused for a parameter out of range or an undefined code. -/
def watchCondOf : WatchArgs → Option WatchCond
  | .pointState p st =>
      match asIndex 4096 p, swStateOf st with
      | some p, some st => some (.pointState p st)
      | _, _ => none
  | .stationCount station kind st k =>
      match (if kind = 0 then some none else (deviceKindOf kind).map some), swStateOf st with
      | some kind, some st =>
          if station ≤ 255 ∧ 1 ≤ k ∧ k ≤ 4096 then some (.stationCount station kind st k) else none
      | _, _ => none
  | .quality th => (thresholdOf th).map .quality
  | .instant t => if t ≤ Config.maxGrid then some (.instant t) else none
  | .gap none => some (.gap none)
  | .gap (some r) => (asIndex 64 r).map fun r => .gap (some r)
  | .undefinedKind _ => none

/-! ### Cursor options (R104, R187, Table 11-9) -/

/-- A present option takes the value written, an absent one keeps its value (R104). -/
def pick {α : Type} (present : Bool) (now written : α) : α := if present then written else now

/-- A window start of 8 bytes. -/
def windowStartOf (n : Nat) : Option Nat := if n ≤ Config.maxGrid then some n else none

/-- A window end of 8 bytes; all bytes 0xFF is absence (R187). -/
def windowEndOf (n : Nat) : Option (Option Nat) :=
  if n = 2 ^ 64 - 1 then some none else if n ≤ Config.maxGrid then some (some n) else none

/-- R104: how the options would stand together. -/
def optionsOk (own : Slot) (o : Options) : Bool :=
  (o.windowEnd.elim true fun e => decide (o.windowStart ≤ e)) &&
    !(o.loop && o.windowEnd.isNone) && !(o.loop && o.pacing == .bound) &&
    decide (1 ≤ o.batchSize) && decide (o.batchSize ≤ if o.split then 8 else 16) &&
    !(o.source == .cursor own)

/-- R187, Table 11-9: the code fields of an options block, none of them undefined, with the batch size as it stands;
the windows are those of `now`. Loop and split are 1 for yes and 0 for no (DESIGN CHOICE, log 53). -/
def codedOptions (now : Options) (block : List Byte) : Option Options :=
  match binaryOf .freeRun .bound (byteAt block 0), binaryOf false true (byteAt block 1),
    binaryOf .notice .push (byteAt block 2), binaryOf false true (byteAt block 4),
    binaryOf .full .compact (byteAt block 5), presentationOf (byteAt block 6), triggerSourceOf (byteAt block 7),
    binaryOf .play .seekPlay (byteAt block 8) with
  | some pacing, some loop, some mode, some split, some form, some pres, some source, some action =>
      some
        { pacing := pacing, windowStart := now.windowStart, windowEnd := now.windowEnd, loop := loop, mode := mode
          batchSize := byteAt block 3, split := split, form := form, presentation := pres, source := source
          action := action }
  | _, _, _, _, _, _, _, _ => none

/-- R104: the windows written: a present one takes its field, which lies in its range, an absent one keeps its value. -/
def writtenWindows (mask : Nat) (now : Options) (block : List Byte) : Option (Nat × Option Nat) :=
  match (if mask.testBit 1 then windowStartOf (leAt block 16 8) else some now.windowStart),
    (if mask.testBit 2 then windowEndOf (leAt block 24 8) else some now.windowEnd) with
  | some start, some stop => some (start, stop)
  | _, _ => none

/-- R104, Table 6-2: the present options written over those that stand; bit i of the mask is the i-th option. -/
def mergeOptions (mask : Nat) (now coded : Options) (windows : Nat × Option Nat) : Options :=
  { pacing := pick (mask.testBit 0) now.pacing coded.pacing
    windowStart := windows.1
    windowEnd := windows.2
    loop := pick (mask.testBit 3) now.loop coded.loop
    mode := pick (mask.testBit 4) now.mode coded.mode
    batchSize := pick (mask.testBit 5) now.batchSize coded.batchSize
    split := pick (mask.testBit 6) now.split coded.split
    form := pick (mask.testBit 7) now.form coded.form
    presentation := pick (mask.testBit 8) now.presentation coded.presentation
    source := pick (mask.testBit 9) now.source coded.source
    action := pick (mask.testBit 10) now.action coded.action }

/-- R187: the body of a SET_CURSOR frame is the slot named, then the payload (log 12). -/
def setCursorCarries (slot : Slot) (payload body : List Byte) : Bool := body == BitVec.ofNat 8 slot.val :: payload

/-- R187: the payload's length, with no reserved bit of the mask and no reserved byte of the block set. -/
def payloadFits (payload : List Byte) : Bool :=
  decide (payload.length = 34) && decide (leAt payload 0 2 < 2048) && leAt payload 11 7 == 0

/-- R104, R187: the options as they would stand with the present ones written; none where SET_CURSOR is refused
BAD_ARGUMENT. The payload is the 2-byte presence mask and the 32-byte options block. -/
def optionsOf (own : Slot) (now : Options) (payload : List Byte) : Option Options :=
  let mask := leAt payload 0 2
  let block := payload.drop 2
  if !payloadFits payload || mask == 0 then none
  else
    match codedOptions now block, writtenWindows mask now block with
    | some coded, some windows =>
        let o := mergeOptions mask now coded windows
        if optionsOk own o then some o else none
    | _, _ => none

/-! ### Laid-out bodies of the recorder context requests (R187) -/

/-- SET_ATTENTION_MASK: recorder slot, reserved byte, cause flag set. -/
def maskArgsOf (body : List Byte) : Option (RecId × CauseSet) :=
  if body.length ≠ 4 ∨ byteAt body 1 ≠ 0 then none
  else
    match asIndex 64 (byteAt body 0), causeSetOf (leAt body 2 2) with
    | some r, some set => some (r, set)
    | _, _ => none

/-- CLEAR_CAUSES: as SET_ATTENTION_MASK, with the clear-noted choice in bit 0 of one more byte; its other bits are taken
as reserved (log 41). -/
def clearArgsOf (body : List Byte) : Option (RecId × CauseSet × Bool) :=
  if body.length ≠ 5 ∨ 2 ≤ byteAt body 4 then none
  else (maskArgsOf (body.take 4)).map fun a => (a.1, a.2, byteAt body 4 == 1)

/-! ### The LOAD_SEGMENT body (R41, R188, Tables 11-3 and 11-4) -/

/-- The body cut into units of 8 bytes; the last may be shorter. `fuel` bounds the number of units. -/
def unitsOf : Nat → List Byte → List (List Byte)
  | 0, _ => []
  | _, [] => []
  | n + 1, b :: bs => (b :: bs).take 8 :: unitsOf n ((b :: bs).drop 8)

/-- Table 11-4: LOCKED 1, FREE 2. -/
def anchorQualityOf : Nat → Option AnchorQuality
  | 1 => some .locked
  | 2 => some .free
  | _ => none

/-- Table 11-4: an ANCHOR's two units; none where a code or a reserved field is at fault. -/
def anchorOf (u v : List Byte) : Option SegEntry :=
  if leAt u 4 4 ≠ 0 ∨ leAt v 6 2 ≠ 0 then none
  else (anchorQualityOf (byteAt u 1)).map fun q => .anchor (leAt u 2 2) (leAt v 0 6) q

/-- A cause code or a lost count of 0 is absence (Table 11-4, R187). -/
def nonzero (n : Nat) : Option Nat := if n = 0 then none else some n

/-- Table 11-4: an entry of one unit; none where its kind, a code or a reserved field is at fault. -/
def singleOf (u : List Byte) : Option SegEntry :=
  match byteAt u 0 with
  | 2 => if byteAt u 1 = 0 then some (.step (leAt u 2 2) (leAt u 4 4)) else none
  | 3 =>
      if byteAt u 7 = 0 then
        (swStateOf (byteAt u 1)).map fun st => .change (leAt u 2 2) (leAt u 4 2) st (nonzero (byteAt u 6))
      else none
  | 4 =>
      if byteAt u 1 = 0 ∧ leAt u 6 2 = 0 then some (.loss (leAt u 2 2) (nonzero (leAt u 4 2))) else none
  | _ => none

/-- R188: the body read unit by unit: the entries (none for one at fault), and whether they exhaust the units
exactly. -/
def readUnits : List (List Byte) → List (Option SegEntry) × Bool
  | [] => ([], true)
  | [u] =>
      if u.length ≠ 8 ∨ byteAt u 0 = 1 then ([none], false) else ([singleOf u], true)
  | u :: v :: rest =>
      if byteAt u 0 = 1 then
        if v.length ≠ 8 then ([none], false)
        else (anchorOf u v :: (readUnits rest).1, (readUnits rest).2)
      else (singleOf u :: (readUnits (v :: rest)).1, (readUnits (v :: rest)).2)

/-- The index of the first entry at fault. -/
def firstFault : Nat → List (Option SegEntry) → Option Nat
  | _, [] => none
  | i, none :: _ => some i
  | i, some _ :: es => firstFault (i + 1) es

/-- R41, R71: the form check of a whole segment body: its entries, or the entry index MALFORMED reports (absent when
the count is out of range or disagrees, or the segment header is at fault). -/
def formCheck (body : List Byte) : Except (Option Nat) (List SegEntry) :=
  let count := leAt body 4 2
  let read := readUnits (unitsOf body.length (body.drop 8))
  if body.length < 8 ∨ byteAt body 1 ≠ 0 ∨ leAt body 6 2 ≠ 0 ∨ count = 0 ∨ Config.maxEntries < count ∨
      read.2 = false ∨ read.1.length ≠ count then .error none
  else
    match firstFault 0 read.1 with
    | some i => .error (some i)
    | none => .ok (read.1.filterMap id)

/-- R176, R188: the segment header as acceptance reads it: recorder slot and sequence; none where the body does not
carry a header or the header's reserved fields are not zero (log 13). -/
def segmentHeaderOf (body : List Byte) : Option (Nat × Nat) :=
  if body.length < 8 ∨ byteAt body 1 ≠ 0 ∨ leAt body 6 2 ≠ 0 then none
  else some (byteAt body 0, leAt body 2 2)

end Sys2Proof.Machine
end

