-- ==== Sys2Proof/Machine/Recovery.lean ====
section
/-!
DEFINITION. Time recovery (03_recorder_archives_and_time_recovery.md): what each segment entry does to the working
copy of a recorder's context, the candidates and gap changes it stages, the causes it raises.
-/

namespace Sys2Proof.Machine

open Sys2Proof

/-- What processing reads and never changes: the recorder's slot and table entry, the tables, and the number of
entries the Gap List holds (R59). -/
structure ProcEnv where
  slot : RecId
  entry : RecorderEntry
  tables : Tables
  gapsHeld : Nat
  deriving DecidableEq, Repr

/-- A cause raised twice is held once (R67). -/
def Proc.raise (p : Proc) (c : Cause) : Proc := { p with raised := p.raised ||| c.set }

/-- R28: the point number a mapping block gives a channel. -/
def MapBlock.pointOf (b : MapBlock) (channel : Nat) : Option Nat :=
  if b.first ≤ channel ∧ channel < b.first + b.count then some (b.base + (channel - b.first)) else none

/-- R28: the lookup of a channel among the present blocks; among several covering blocks the lowest-numbered (DESIGN
CHOICE, log 57). -/
def RecorderEntry.lookup (r : RecorderEntry) (channel : Nat) : Option Nat :=
  r.blocks.toList.findSome? fun b => b.bind fun b => b.pointOf channel

/-- R45: the enabled point a channel maps to; none above 4,095 (DESIGN CHOICE, log 57). -/
def ProcEnv.pointOf (v : ProcEnv) (channel : Nat) : Option PointId :=
  match (v.entry.lookup channel).bind (asIndex 4096) with
  | none => none
  | some p => if (v.tables.points.get p).enabled then some p else none

/-- R46: the correction of a recorder time; division rounds toward zero. -/
def correct (r : RecorderEntry) (driftBase : Option Nat) (t : Nat) : Int :=
  (t : Int) + r.offset +
    match driftBase with
    | none => 0
    | some b => (r.drift * ((t : Int) - (b : Int))).tdiv 1000000

/-- R46: the corrected time lies in the grid range. -/
def inGrid (t : Int) : Bool := decide (0 ≤ t) && decide (t ≤ (Config.maxGrid : Int))

/-- R46: an anchor's corrected time, taken at the nearer bound when it lies out of range. -/
def clampGrid (t : Int) : Nat := min t.toNat Config.maxGrid

/-- R44: the context advances by ticks. -/
def Proc.advance (v : ProcEnv) (p : Proc) (ticks : Nat) : Proc :=
  let tm := p.timing
  match tm.state with
  | .unanchored =>
      if tm.pendingList.isEmpty then p
      else { p with timing := { tm with tickCount := min (tm.tickCount + ticks) Config.maxRecorderTime } }
  | _ =>
      { p with
        timing :=
          { tm with running := tm.running.map fun r => min (r + ticks * v.entry.tickUnit) Config.maxRecorderTime } }

/-- R48: places an entry at a recorder time with a quality. -/
def Proc.place (v : ProcEnv) (p : Proc) (x : PendingEntry) (r : Nat) (q : Quality) : Proc :=
  let g := correct v.entry p.timing.driftBase r
  let known := { p with timing := { p.timing with lastKnown := some r } }
  if !inGrid g then known.raise .timeRange
  else
    let t := g.toNat
    let judged := if p.timing.lastRecord.elim false fun l => decide (t < l) then known.raise .backward else known
    { judged with
      timing := { judged.timing with lastRecord := some t }
      staged := judged.staged ++
        [{ time := t, point := x.point, state := x.state, quality := q, cause := x.cause
           source := { recorder := v.slot, seq := x.seq, idx := x.idx, recorderTime := r } }] }

/-- The quality an anchor gives (R48). -/
def AnchorQuality.quality : AnchorQuality → Quality
  | .locked => .locked
  | .free => .free

/-- R56: the estimate base. -/
def spillBase (v : ProcEnv) (tm : Timing) : Option Nat :=
  match tm.lastKnown with
  | some t => some t
  | none => v.entry.fallback

/-- R56: one pending entry of a spill from an estimate base. -/
def Proc.spillEntry (v : ProcEnv) (base : Nat) (p : Proc) (x : PendingEntry) : Proc :=
  let r := base + x.ticks * v.entry.tickUnit
  if Config.maxRecorderTime < r then p.raise .timeRange else p.place v x r .estimated

/-- R56: a spill from an estimate base. -/
def Proc.spillFrom (v : ProcEnv) (base : Nat) (p : Proc) : Proc :=
  let placed := p.timing.pendingList.foldl (Proc.spillEntry v base) p
  Proc.raise
    { placed with
      timing :=
        { placed.timing with
          running := some (min (base + p.timing.tickCount * v.entry.tickUnit) Config.maxRecorderTime)
          pendingList := []
          tickCount := 0
          state := .estimating } }
    .pendingSpill

/-- R56, R57: a spill; none when it finds no base. -/
def Proc.spill (v : ProcEnv) (p : Proc) : Option Proc :=
  (spillBase v p.timing).map fun base => p.spillFrom v base

/-- The later of two instants that may be absent. -/
def laterOf : Option Nat → Option Nat → Option Nat
  | none, b => b
  | some a, none => some a
  | some a, some b => some (max a b)

/-- R59: the start of a gap. -/
def gapStart (tm : Timing) : Nat := (laterOf tm.lastRecord tm.lastAnchor).getD 0

/-- R59: opens a gap, or raises GAP_LIST_FULL. -/
def Proc.openGap (v : ProcEnv) (lost : Option Nat) (p : Proc) : Proc :=
  if v.gapsHeld + p.opened < Config.gapCapacity then
    { p with
      gapChanges := p.gapChanges ++ [.opening v.slot (gapStart p.timing) lost]
      opened := p.opened + 1
      timing := { p.timing with openGap := some (v.gapsHeld + p.opened) } }
  else Proc.raise { p with timing := { p.timing with openGap := none } } .gapListFull

/-- R51, R55: the lost count goes to the open gap, or a gap is opened. -/
def Proc.recordLoss (v : ProcEnv) (cause : Cause) (lost : Option Nat) (p : Proc) : Proc :=
  let q := p.raise cause
  match q.timing.openGap with
  | some i => { q with gapChanges := q.gapChanges ++ [.addLost i lost] }
  | none => q.openGap v lost

/-- The running time and base quality become absent and the recorder UNANCHORED (R54, R55). -/
def Proc.unanchor (p : Proc) : Proc :=
  { p with timing := { p.timing with state := .unanchored, running := none, baseQuality := none } }

/-- R51, R54, R55, and R58 with its own cause: a LOSS; none when a spill finds no base. -/
def Proc.loss (v : ProcEnv) (cause : Cause) (lost : Option Nat) (p : Proc) : Option Proc :=
  match p.timing.state with
  | .unanchored =>
      if p.timing.pendingList.isEmpty then some (p.recordLoss v cause lost)
      else (p.spill v).map fun q => (q.recordLoss v cause lost).unanchor
  | .anchored => some ((p.raise cause).openGap v lost).unanchor
  | .estimating => some (p.recordLoss v cause lost).unanchor

/-- R61: closes the open gap at an anchor's corrected time. -/
def Proc.closeGap (time : Nat) (p : Proc) : Proc :=
  match p.timing.openGap with
  | none => p
  | some i =>
      { p with gapChanges := p.gapChanges ++ [.closing i time], timing := { p.timing with openGap := none } }

/-- R47: the drift base an anchor leaves. -/
def driftBaseAfter (a : Nat) (q : AnchorQuality) (now : Option Nat) : Option Nat :=
  match q, now with
  | .locked, _ => some a
  | .free, none => some a
  | .free, some b => some b

/-- R47, R50 step 1, R53: running time, base quality and drift base come from the anchor. -/
def Proc.setBase (a : Nat) (q : AnchorQuality) (p : Proc) : Proc :=
  { p with
    timing :=
      { p.timing with
        running := some a
        baseQuality := some q
        driftBase := driftBaseAfter a q p.timing.driftBase } }

/-- R46, R50 step 4, R53: last known time and last anchor time come from the anchor. -/
def Proc.setAnchor (v : ProcEnv) (a : Nat) (p : Proc) : Proc :=
  let g := correct v.entry p.timing.driftBase a
  let q := if inGrid g then p else p.raise .timeRange
  { q with timing := { q.timing with lastKnown := some a, lastAnchor := some (clampGrid g) } }

/-- R50 step 2: back-places one pending entry. -/
def Proc.backPlaceEntry (v : ProcEnv) (a ticks : Nat) (q : AnchorQuality) (p : Proc) (x : PendingEntry) : Proc :=
  let back := (ticks - x.ticks) * v.entry.tickUnit
  if a < back then p.raise .timeRange else p.place v x (a - back) q.quality

/-- R53, R55: CLOCK_STEP is raised when the anchor differs from the running time beyond the threshold. -/
def Proc.judgeStep (v : ProcEnv) (a : Nat) (p : Proc) : Proc :=
  match p.timing.running with
  | none => p
  | some r =>
      if v.tables.study.stepThreshold < (a - r) + (r - a) then p.raise .clockStep else p

/-- R50, R53, R55: an ANCHOR after its tick delta. -/
def Proc.anchor (v : ProcEnv) (a : Nat) (q : AnchorQuality) (p : Proc) : Proc :=
  match p.timing.state with
  | .unanchored =>
      let based := p.setBase a q
      let placed := p.timing.pendingList.foldl (Proc.backPlaceEntry v a p.timing.tickCount q) based
      let emptied := { placed with timing := { placed.timing with pendingList := [], tickCount := 0 } }
      let anchored := emptied.setAnchor v a
      let closed := anchored.closeGap (anchored.timing.lastAnchor.getD 0)
      { closed with timing := { closed.timing with state := .anchored } }
  | .anchored => ((p.judgeStep v a).setBase a q).setAnchor v a
  | .estimating =>
      let anchored := ((p.judgeStep v a).setBase a q).setAnchor v a
      let closed := anchored.closeGap (anchored.timing.lastAnchor.getD 0)
      { closed with timing := { closed.timing with state := .anchored } }

/-- R49: a mapped CHANGE joins the pending list. -/
def Proc.join (p : Proc) (x : PendingEntry) : Proc :=
  let ticks := if p.timing.pendingList.isEmpty then 0 else p.timing.tickCount
  { p with
    timing :=
      { p.timing with tickCount := ticks, pendingList := p.timing.pendingList ++ [{ x with ticks := ticks }] } }

/-- R49, R52, R55: a mapped CHANGE after its tick delta; none when a spill finds no base. -/
def Proc.change (v : ProcEnv) (x : PendingEntry) (p : Proc) : Option Proc :=
  match p.timing.state with
  | .unanchored =>
      if p.timing.pendingList.length < Config.pendingCapacity then some (p.join x)
      else (p.spill v).map fun q => q.place v x (q.timing.running.getD 0) .estimated
  | .anchored =>
      some (p.place v x (p.timing.running.getD 0) ((p.timing.baseQuality.map AnchorQuality.quality).getD .free))
  | .estimating => some (p.place v x (p.timing.running.getD 0) .estimated)

/-- R40, R44, R45: one entry at its index: its tick delta is applied, then it acts by its kind. None when a spill
finds no base (R57). -/
def Proc.entry (v : ProcEnv) (seq idx : Nat) (p : Proc) : SegEntry → Option Proc
  | .anchor d a q => some ((p.advance v d).anchor v a q)
  | .step d n => some ((p.advance v d).advance v n)
  | .change d ch st cause =>
      let q := p.advance v d
      match v.pointOf ch with
      | none => some (q.raise .unmapped)
      | some pt => q.change v { seq := seq, idx := idx, point := pt, state := st, cause := cause, ticks := 0 }
  | .loss d lost => (p.advance v d).loss v .loss lost

/-- R67 stage 3: the entries in order; the index of the entry whose spill finds no base (R71). -/
def Proc.entries (v : ProcEnv) (seq : Nat) : Nat → Proc → List SegEntry → Except Nat Proc
  | _, p, [] => .ok p
  | i, p, x :: xs =>
      match p.entry v seq i x with
      | none => .error i
      | some q => Proc.entries v seq (i + 1) q xs

/-- The distance of the sequence check (R42). -/
def seqDistance (seq last : Nat) : Nat := (seq + 65536 - last) % 65536

/-- R66: the processing of a segment begins with the working copy and an empty staging area and raised set. -/
def Proc.begin (w : Work) : Proc :=
  { timing := w.working, staged := w.staged, gapChanges := w.stagedGaps, opened := 0, raised := w.raised }

/-- R67 stage 3 and its end: the entries, then the last sequence. -/
def runEntries (v : ProcEnv) (seq : Nat) (p : Proc) (es : List SegEntry) : Verdict :=
  match p.entries v seq 0 es with
  | .error i => .failed .noTimeBase (some i)
  | .ok q => .commit { q with timing := { q.timing with lastSeq := some seq } }

/-- R41, R42, R58, R67, R69: the processing of a segment. -/
def processSegment (v : ProcEnv) (w : Work) (g : QueuedSegment) : Verdict :=
  match formCheck g.body with
  | .error i => .failed .malformed i
  | .ok es =>
      match w.working.lastSeq with
      | none => runEntries v g.seq (Proc.begin w) es
      | some last =>
          let d := seqDistance g.seq last
          if d = 1 then runEntries v g.seq (Proc.begin w) es
          else if 2 ≤ d ∧ d ≤ 32767 then
            match (Proc.begin w).loss v .segmentGap none with
            | none => .failed .noTimeBase none
            | some p => runEntries v g.seq p es
          else .failed .duplicate none

/-- What processing of a recorder's segments reads. -/
def State.procEnv (s : State) (r : RecId) : ProcEnv :=
  { slot := r, entry := s.tables.recorders.get r, tables := s.tables, gapsHeld := s.gaps.length }

end Sys2Proof.Machine
end

