-- ==== Sys2Proof/Machine/Store.lean ====
section
/-!
DEFINITION. The commit as the History Store takes it (01_the_switching_history.md section 1.5): the checks, matching,
corroboration, repositioning, new records, gap changes and reach.
-/

namespace Sys2Proof.Machine

open Sys2Proof

/-- The rank of a quality, best first (R18). -/
def qualityRank : Quality → Nat
  | .locked => 0
  | .free => 1
  | .estimated => 2

/-- R18: strictly better quality. -/
def betterQuality (a b : Quality) : Bool := decide (qualityRank a < qualityRank b)

/-- The distance of two times. -/
def timeDistance (a b : Nat) : Nat := (a - b) + (b - a)

/-- Two sources name the same entry of the same segment (R14). -/
def Source.same (a b : Source) : Bool := a.recorder == b.recorder && a.seq == b.seq && a.idx == b.idx

/-- R14: a source already stands in some record's source list. -/
def sourceHeld (rs : List Record) (src : Source) : Bool := rs.any fun r => r.sources.any src.same

/-- R16: the record matches the candidate. -/
def Record.matches (window : Nat) (c : Candidate) (r : Record) : Bool :=
  r.point == c.point && r.state == c.state && decide (timeDistance r.time c.time ≤ window) &&
    r.sources.all fun x => x.recorder != c.source.recorder

/-- R16: of the match found so far and one more record, the nearer; on a tie the earlier in key order. -/
def nearerMatch (window : Nat) (c : Candidate) (best : Option Record) (r : Record) : Option Record :=
  if r.matches window c then
    match best with
    | none => some r
    | some b => if timeDistance r.time c.time < timeDistance b.time c.time then some r else some b
  else best

/-- R16: the matching record, if any. -/
def findMatch (window : Nat) (c : Candidate) (rs : List Record) : Option Record :=
  rs.foldl (nearerMatch window c) none

/-- R17: the record with the candidate's source appended, and its cause code where the record had none. -/
def Record.corroborate (c : Candidate) (r : Record) : Record :=
  { r with others := r.others ++ [c.source], cause := r.cause.orElse fun _ => c.cause }

/-- R18: the record repositioned by a candidate whose source is not yet in its list. -/
def Record.reposition (c : Candidate) (r : Record) : Record :=
  { r with
    time := c.time
    quality := c.quality
    timing := c.source
    others := r.sources
    cause := r.cause.orElse fun _ => c.cause
    repositioned := true }

/-- The record of a commit number replaced in its place. -/
def replaceRecord (r : Record) (rs : List Record) : List Record :=
  rs.map fun x => if x.commit = r.commit then r else x

/-- The record of a commit number taken out of its place. -/
def removeRecord (n : Nat) (rs : List Record) : List Record := rs.filter fun x => x.commit != n

/-- R19: the record a candidate becomes; `greatest` is the greatest committed time before the commit. -/
def newRecord (greatest : Option Nat) (number : Nat) (c : Candidate) : Record :=
  { time := c.time, point := c.point, state := c.state, quality := c.quality, cause := c.cause
    timing := c.source, others := [], commit := number
    late := greatest.elim false fun g => decide (c.time < g)
    repositioned := false }

/-- R16 to R19: one candidate. -/
def takeCandidate (window : Nat) (greatest : Option Nat) (a : CommitAcc) (c : Candidate) : CommitAcc :=
  let h := a.history
  match findMatch window c h.records with
  | none =>
      let r := newRecord greatest (h.commitCount + 1) c
      { a with
        history := { h with records := insertRecord r h.records, commitCount := h.commitCount + 1 }
        touched := a.touched ++ [{ commit := r.commit, point := r.point, times := [r.time], key := r.key }]
        committed := a.committed + 1 }
  | some m =>
      if m.sources.length < Config.sourceCapacity then
        if betterQuality c.quality m.quality then
          let r := m.reposition c
          { a with
            history := { h with records := insertRecord r (removeRecord m.commit h.records) }
            touched := a.touched ++ [{ commit := r.commit, point := r.point, times := [m.time, r.time], key := r.key }]
            corroborated := a.corroborated + 1 }
        else
          { a with
            history := { h with records := replaceRecord (m.corroborate c) h.records }
            corroborated := a.corroborated + 1 }
      else { a with full := a.full ++ [c.source.recorder] }

/-- R16 to R19: the candidates in staging order. -/
def takeCandidates (window : Nat) (h : History) (cs : List Candidate) : CommitAcc :=
  cs.foldl (takeCandidate window h.greatest)
    { history := h, touched := [], committed := 0, corroborated := 0, full := [] }

/-- R4: the greatest committed time is taken again at the end of a commit. -/
def History.settle (h : History) : History := { h with greatest := greatestTime h.records }

/-! ### Gap changes (R20, R60, R61) -/

/-- R60: a lost count added to one that may be unknown. -/
def addLost (now lost : Option Nat) : Option Nat :=
  match now, lost with
  | some a, some b => some (min (a + b) Config.lostLimit)
  | _, _ => none

/-- R20: one staged gap change applied. -/
def applyGap (gs : List Gap) : GapChange → List Gap
  | .opening r start lost => gs ++ [{ recorder := r, start := start, stop := none, lost := lost }]
  | .closing i t => gs.modify i fun g => { g with stop := some (max t g.start) }
  | .addLost i lost => gs.modify i fun g => { g with lost := addLost g.lost lost }

/-- R20: the staged gap changes in order. -/
def applyGaps (gs : List Gap) (cs : List GapChange) : List Gap := cs.foldl applyGap gs

/-- R20, R21: the starts that count toward the reach: of entries added, and of entries closed, as `after` holds
them. -/
def gapStarts (after : List Gap) : List GapChange → List Nat
  | [] => []
  | .opening _ start _ :: cs => start :: gapStarts after cs
  | .closing i _ :: cs => ((after[i]?).map Gap.start).toList ++ gapStarts after cs
  | .addLost _ _ :: cs => gapStarts after cs

/-- R21: the earliest of a list of times. -/
def earliestOf : List Nat → Option Nat
  | [] => none
  | t :: ts => some ((earliestOf ts).elim t (min t))

/-- R21: the reach of a commit. -/
def commitReach (touched : List Touched) (starts : List Nat) : Option Nat :=
  earliestOf (touched.flatMap Touched.times ++ starts)

/-! ### The checks (R14, R15) -/

/-- R14: some candidate's source already stands in the store, or stands twice among the candidates (log 15). -/
def identityFails (rs : List Record) : List Candidate → Bool
  | [] => false
  | c :: cs => sourceHeld rs c.source || (cs.any fun d => c.source.same d.source) || identityFails rs cs

/-- R15: the capacity check of a segment's commit. -/
def capacityFails (h : History) (cs : List Candidate) : Bool :=
  decide (Config.storeCapacity < h.commitCount + cs.length)

/-- R8: the candidates SEAL_HISTORY admits, in staging order, and those it discards for their source or for
capacity. `seen` holds the sources admitted so far. -/
def sealAdmit (rs : List Record) (room : Nat) (seen : List Source) :
    List Candidate → List Candidate × List Candidate
  | [] => ([], [])
  | c :: cs =>
      if sourceHeld rs c.source || seen.any c.source.same || room == 0 then
        let rest := sealAdmit rs room seen cs
        (rest.1, c :: rest.2)
      else
        let rest := sealAdmit rs (room - 1) (c.source :: seen) cs
        (c :: rest.1, rest.2)

/-! ### Overtaking (R22) -/

/-- R22: the touched times of a record that fell at or before a comparison time. -/
def Touched.behind (compare : Nat) (t : Touched) : List Nat := t.times.filter fun x => decide (x ≤ compare)

/-- R22: the overtake record after a commit whose touched records are given. -/
def overtakeAfter (compare : Nat) (touched : List Touched) (now : Option Overtake) : Option Overtake :=
  let hit := touched.filter fun t => !(t.behind compare).isEmpty
  match earliestOf (hit.flatMap (Touched.behind compare)) with
  | none => now
  | some t =>
      some
        { earliest := now.elim t fun o => min o.earliest t
          count := min ((now.elim 0 Overtake.count) + hit.length) Config.countLimit }

end Sys2Proof.Machine
end

