-- ==== Sys2Proof/Machine/Checkpoints.lean ====
section
/-!
DEFINITION. The Checkpoint Table (05_checkpoints_and_seeking.md): choice, creation, victim, use stamps, boundaries,
invalidation.
-/

namespace Sys2Proof.Machine

open Sys2Proof

/-- All indices of the table, ascending. -/
def allCheckpoints : List CkptId := List.finRange 64

/-- R84: how many valid entries stand before entry `i` by use stamp; equal stamps count by index (log 34). -/
def stampRank (t : CheckpointTable) (i : CkptId) : Nat :=
  let me := t.entries.get i
  (allCheckpoints.filter fun j =>
    let x := t.entries.get j
    x.valid && (decide (x.stamp < me.stamp) || (x.stamp == me.stamp && decide (j.val < i.val)))).length

/-- R84: the valid entries take the stamps 1 to k in the order of their stamps, the others 0, and the counter k. -/
def CheckpointTable.renumber (t : CheckpointTable) : CheckpointTable :=
  { entries := Vector.ofFn fun i =>
      let x := t.entries.get i
      { x with stamp := if x.valid then stampRank t i + 1 else 0 }
    counter := (allCheckpoints.filter fun i => (t.entries.get i).valid).length }

/-- R84: the table as an advance of the use counter finds it, renumbered first where the advance would overflow. -/
def CheckpointTable.ready (t : CheckpointTable) : CheckpointTable :=
  if t.counter < Config.stampLimit then t else t.renumber

/-- R91: of the entry chosen so far and one more, the valid one of greatest instant at or below `limit`. -/
def betterChoice (t : CheckpointTable) (limit : Nat) (best : Option CkptId) (i : CkptId) : Option CkptId :=
  let x := t.entries.get i
  if x.valid ∧ x.instant ≤ limit then
    match best with
    | none => some i
    | some b => if (t.entries.get b).instant < x.instant then some i else best
  else best

/-- R91, R97: the index of the best valid checkpoint at or below an instant. -/
def CheckpointTable.best (t : CheckpointTable) (limit : Nat) : Option CkptId :=
  allCheckpoints.foldl (betterChoice t limit) none

/-- R84: the entry chosen takes the advanced counter as its use stamp. -/
def CheckpointTable.use (t : CheckpointTable) (i : CkptId) : CheckpointTable :=
  let u := t.ready
  { entries := vput u.entries i { u.entries.get i with stamp := u.counter + 1 }, counter := u.counter + 1 }

/-- R91, R97: a choice: the checkpoint copied, absent for the Initial Image, and the table after it. -/
def CheckpointTable.choose (t : CheckpointTable) (limit : Nat) : Option Checkpoint × CheckpointTable :=
  match t.best limit with
  | none => (none, t)
  | some i => (some (t.entries.get i), t.use i)

/-- R86: some valid entry holds the instant. -/
def CheckpointTable.holds (t : CheckpointTable) (b : Nat) : Bool :=
  allCheckpoints.any fun i => (t.entries.get i).valid && (t.entries.get i).instant == b

/-- R87: of the victim so far and one more entry, the one of smaller use stamp. -/
def smallerStamp (t : CheckpointTable) (best : CkptId) (i : CkptId) : CkptId :=
  if (t.entries.get i).stamp < (t.entries.get best).stamp then i else best

/-- R87: the invalid entry of lowest index, else the entry of smallest use stamp. -/
def CheckpointTable.victim (t : CheckpointTable) : CkptId :=
  match allCheckpoints.find? fun i => !(t.entries.get i).valid with
  | some i => i
  | none => allCheckpoints.foldl (smallerStamp t) 0

/-- R86: a checkpoint is created in the victim, with the advanced counter as its use stamp. -/
def CheckpointTable.create (t : CheckpointTable) (b : Nat) (image : Image) (position : Option Key) :
    CheckpointTable :=
  let i := t.victim
  let u := t.ready
  { entries := vput u.entries i
      { instant := b, valid := true, image := image, position := position, stamp := u.counter + 1 }
    counter := u.counter + 1 }

/-- R88: every valid entry at or after the reach becomes invalid. -/
def CheckpointTable.invalidate (t : CheckpointTable) (reach : Option Nat) : CheckpointTable :=
  match reach with
  | none => t
  | some r =>
      { t with entries := t.entries.map fun x => { x with valid := x.valid && decide (x.instant < r) } }

/-- R11, R83: every entry becomes invalid and the counter 0. -/
def CheckpointTable.clear (t : CheckpointTable) : CheckpointTable :=
  { entries := t.entries.map fun x => { x with valid := false }, counter := 0 }

/-- The checkpoint interval in µs (R29). -/
def Study.intervalMicros (s : Study) : Nat := s.interval * 1000000

/-- R85: the least boundary at or after the standing instant; 0 when it is absent. -/
def leastBoundary (interval : Nat) (standing : Option Nat) : Nat :=
  match standing with
  | none => 0
  | some s => ((s + interval - 1) / interval) * interval

/-- R85: the eligible boundary of a read that brings a record of time `t`: strictly below it. It may lie below the
position of a cursor that stands past its instant (DESIGN CHOICE, log 58). -/
def boundaryBefore (interval : Nat) (standing : Option Nat) (t : Nat) : Option Nat :=
  let b := leastBoundary interval standing
  if b < t then some b else none

/-- R85: the eligible boundary of a rebuild's last read: at or below the target. -/
def boundaryUpTo (interval : Nat) (standing : Option Nat) (t : Nat) : Option Nat :=
  let b := leastBoundary interval standing
  if b ≤ t then some b else none

/-- R86: a creation at a read, when the cursor is not overtaken, the read gives an eligible boundary and no valid
entry holds it. -/
def checkpointAtRead (boundary : Option Nat) (c : Cursor) (l : Live) : Live :=
  match boundary with
  | none => l
  | some b =>
      if c.overtaken.isSome || l.checkpoints.holds b then l
      else { l with checkpoints := l.checkpoints.create b (c.image.getD []) c.position }

end Sys2Proof.Machine
end

