-- ==== Sys2Proof/Machine/Delivery.lean ====
section
/-!
DEFINITION. Delivery (07_delivery.md): rendering items, the delivery buffer in its modes, batches, flushes, and the
writing of a cursor's waiting item.
-/

namespace Sys2Proof.Machine

open Sys2Proof

/-! ### Items (R127 to R129) -/

/-- R129, R30: a record's time as the cursor presents it when the item is written. -/
def presentTime (e : Env) (c : Cursor) (r : Record) : Int :=
  match c.options.presentation with
  | .absolute => r.time
  | .zeroRelative => (r.time : Int) - e.tables.study.eventZero
  | .previousRelative => (r.time : Int) - (c.buffer.refTime.getD 0 : Nat)
  | .recorderLocal => r.timing.recorderTime

/-- R127 to R129: the content of an item, as it is when the item is written. -/
def renderItem (e : Env) (c : Cursor) : ItemPlan → ItemBody
  | .record r noChange =>
      .record
        { presentation := c.options.presentation, time := presentTime e c r, point := r.point, state := r.state
          quality := r.quality, late := r.late, repositioned := r.repositioned, corroborated := r.corroborated
          noChange := noChange
          full :=
            if c.options.form = .full then some { cause := r.cause, commit := r.commit, sources := r.sources }
            else none }
  | .snap p =>
      let img := c.image.getD []
      .snap p (Image.stateOf e.tables img p) ((Image.cell img p).map ImageCell.time)
        ((Image.cell img p).map ImageCell.commit)
  | .marker m => .marker m

/-! ### The buffer (R130 to R137) -/

/-- Table 7-3 at OPEN_CURSOR. -/
def Buffer.opened : Buffer :=
  { writing := [], completed := [], half := some .a, outgoing := [], waiting := none, nextNumber := 0, refTime := none }

/-- R131 to R133, R137: the mode gives a slot to the next item. -/
def Buffer.hasRoom (o : Options) (b : Buffer) : Bool :=
  match o.mode with
  | .push => decide (b.outgoing.length < Config.bufferSlots)
  | .notice => if o.split then b.half.isSome else b.completed.isEmpty

/-- R126: an item takes the next item number and its place. -/
def Buffer.add (o : Options) (b : Buffer) (body : ItemBody) : Buffer :=
  let it : Item := { number := b.nextNumber, body := body }
  let n := (b.nextNumber + 1) % 65536
  match o.mode with
  | .push => { b with outgoing := b.outgoing ++ [it], nextNumber := n }
  | .notice => { b with writing := b.writing ++ [it], nextNumber := n }

/-- The other half. -/
def Half.other : Half → Half
  | .a => .b
  | .b => .a

/-- R133: the writing half chosen after a batch completes in `h`. -/
def nextHalf (completed : List Batch) (h : Option Half) : Option Half :=
  match h with
  | none => none
  | some x => if completed.any fun b => b.half == some x.other then none else some x.other

/-- The batch being written, as it completes (R135). -/
def Buffer.batch (o : Options) (b : Buffer) : Batch :=
  { half := if o.split then b.half else none
    first := (b.writing.head?.map Item.number).getD b.nextNumber
    items := b.writing }

/-- R132, R133: the batch being written completes. -/
def Buffer.complete (o : Options) (b : Buffer) : Buffer :=
  { b with
    writing := []
    completed := b.completed ++ [b.batch o]
    half := if o.split then nextHalf b.completed b.half else b.half }

/-- R134, R135: a flush completes a non-empty batch being written, with its BATCH_READY; none in PUSH mode. -/
def flush (k : Slot) (l : Live) : Live :=
  l.withCursor k fun c =>
    if c.options.mode = .push ∨ c.buffer.writing = [] then l
    else
      let b := c.buffer.batch c.options
      (l.setCursor k { c with buffer := c.buffer.complete c.options }).notify c.owner
        (.batchReady k b.half b.items.length b.first)

/-- R134: the written item flushes: END, HEAD, a WATCH of a watch whose actions include HOLD. -/
def flushesOn (c : Cursor) : ItemPlan → Bool
  | .marker (.endPass _) => true
  | .marker (.head _) => true
  | .marker (.watch w) => (c.watches.get w).elim false fun x => x.actions.hold
  | _ => false

/-- R129: the reference time after an item is written. -/
def refTimeAfter (now : Option Nat) : ItemPlan → Option Nat
  | .record r _ => some r.time
  | _ => now

/-- A step counts its written items (R138). -/
def Op.wrote : Op → Op
  | .step f => .step { f with written := f.written + 1 }
  | op => op

/-- R132, R133: the batch being written is complete by count. -/
def batchFull (c : Cursor) : Bool :=
  c.options.mode == .notice && decide (c.options.batchSize ≤ c.buffer.writing.length)

/-- The cursor with an item placed and numbered, its waiting item gone (R126, R129, R131). -/
def Cursor.placeItem (e : Env) (plan : ItemPlan) (c : Cursor) : Cursor :=
  let b := c.buffer.add c.options (renderItem e c plan)
  { c with
    buffer := { b with waiting := none, refTime := refTimeAfter b.refTime plan }
    op := c.op.wrote }

/-- R131: the waiting item is written; the batch completes by count or by a flush, once. -/
def writeWaiting (e : Env) (k : Slot) (l : Live) : Live :=
  l.withCursor k fun c =>
    match c.buffer.waiting with
    | none => l
    | some plan =>
        let d := c.placeItem e plan
        let m := l.setCursor k d
        if batchFull d || flushesOn c plan then flush k m else m

/-- R131: an operation writes an item: with room it is written at once and `done` goes on; else it waits and STALLED
is set. -/
def emit (e : Env) (k : Slot) (op : Op) (plan : ItemPlan) (done : Live → Live) (l : Live) : Live :=
  l.withCursor k fun c =>
    let m := l.setCursor k { c with op := op, buffer := { c.buffer with waiting := some plan } }
    if c.buffer.hasRoom c.options then done (writeWaiting e k m) else lagTest e k m

/-- R136: the oldest completed batch is taken; its half is written next when no half was. -/
def Buffer.takeBatch (b : Buffer) (t : Batch) (rest : List Batch) : Buffer :=
  { b with completed := rest, half := if b.half.isSome then b.half else t.half }

/-- R139: a change of delivery setting empties the buffer. -/
def Buffer.emptied (b : Buffer) : Buffer :=
  { b with writing := [], completed := [], outgoing := [], waiting := none, half := some .a }

/-- R138: the last `n` items of the place items are written into are withdrawn. -/
def Buffer.withdraw (o : Options) (n : Nat) (b : Buffer) : Buffer :=
  match o.mode with
  | .push => { b with outgoing := b.outgoing.take (b.outgoing.length - n), waiting := none }
  | .notice => { b with writing := b.writing.take (b.writing.length - n), waiting := none }

/-- R138: none of the step's items has entered a completed batch or been sent. -/
def withdrawable (c : Cursor) (f : StepFlight) : Bool :=
  match c.options.mode with
  | .push => decide (f.written ≤ c.buffer.outgoing.length)
  | .notice => decide (f.written ≤ c.buffer.writing.length)

/-- R130: the buffer summary of READ_CURSOR; the writing half is shown as it stands in every mode (log 45). -/
def Buffer.summary (b : Buffer) : BufferSummary :=
  { half := b.half, writing := b.writing.length
    completed := b.completed.map fun x => (x.half, x.items.length, x.first)
    outgoing := b.outgoing.length, nextNumber := b.nextNumber }

/-- Table 7-3: what the 16 item slots hold: in unsplit NOTICE mode the unfetched batch and then the batch being
written from slot 0, in split mode each half from slots 0 and 8, in PUSH mode the outgoing queue. -/
def Buffer.slots (o : Options) (b : Buffer) : List (Option Item) :=
  let pad (n : Nat) (is : List Item) : List (Option Item) :=
    (is.map some ++ List.replicate n none).take n
  let half (h : Half) : List Item :=
    ((b.completed.filter fun x => x.half == some h).flatMap Batch.items) ++ (if b.half = some h then b.writing else [])
  match o.mode with
  | .push => pad 16 b.outgoing
  | .notice =>
      if o.split then pad 8 (half .a) ++ pad 8 (half .b)
      else pad 16 (b.completed.flatMap Batch.items ++ b.writing)

end Sys2Proof.Machine
end

