-- ==== Sys2Proof/Machine/CursorOps.lean ====
section
/-!
DEFINITION. The cursor engine (05 to 09): rebuilds, step boundaries, window ends, the head of the store, triggers and
signals, probes, steps and what follows each written item, and what commits and clock changes do to a cursor.
-/

namespace Sys2Proof.Machine

open Sys2Proof

/-! ### Rebuilds (R89 to R91) -/

/-- What leaving RUNNING clears (R110, R117, R169, R170). -/
def Cursor.leaveRunning (c : Cursor) : Cursor :=
  { c with
    stepsLeft := 0, underStep := false, lagging := false, atHead := false, waiting := false, parked := false
    redo := false, sealEnd := false }

/-- R89, R91, R98: the cursor as a rebuild's start leaves it, with the checkpoint chosen. A marker that waits is dropped
(R131; an END, WRAP or HEAD by log 43). -/
def Cursor.startRebuild (kind : RebuildKind) (target : Nat) (chosen : Option Checkpoint) (c : Cursor) : Cursor :=
  { c with
    image := some ((chosen.map Checkpoint.image).getD [])
    position := chosen.bind Checkpoint.position
    overtaken := none
    trail := []
    atHead := false
    parked := false
    redo := false
    sealEnd := false
    buffer := { c.buffer with waiting := none }
    op := .rebuild
      { kind := kind, target := target, standing := chosen.map Checkpoint.instant
        kept := if kind = .rebase then c.overtaken else none }
    rebuildRecord := some
      { kind := kind, target := target, start := chosen.map Checkpoint.instant, applied := 0, outcome := .inFlight } }

/-- R89: a rebuild starts: target fixed, overtaken cleared, trail emptied, the choice of R91 in the same event. -/
def startRebuild (e : Env) (k : Slot) (kind : RebuildKind) (target : Nat) (l : Live) : Live :=
  l.withCursor k fun c =>
    let choice := l.checkpoints.choose target
    let m := { l with checkpoints := choice.2 }
    m.setCursor k ((c.startRebuild kind target choice.1).lagTest e)

/-- R122: a rebase toward the cursor instant. -/
def startRebase (e : Env) (k : Slot) (l : Live) : Live :=
  l.withCursor k fun c => startRebuild e k .rebase (c.instant.getD 0) l

/-- R107, R109, R119, R171: a seek rebuild starts or replaces the one in flight; the change to SEEKING flushes
(R134). -/
def startSeek (e : Env) (k : Slot) (target : Nat) (chain : Bool) (l : Live) : Live :=
  l.withCursor k fun c =>
    let m := l.setCursor k { c.leaveRunning with state := .seeking, chain := chain, armedFrom := none }
    let n := startRebuild e k .seek target m
    if c.state = .seeking then n else flush k n

/-! ### Playing and triggers (R109, R119, R120) -/

/-- R109, R110: a HELD cursor begins to run, by a chained seek of a BOUND cursor that stands elsewhere, by a rebase
when overtaken, else by a step. -/
def beginPlay (e : Env) (k : Slot) (underStep : Bool) (steps : Nat) (l : Live) : Live :=
  l.withCursor k fun c =>
    let unfrozen := { c with trailFrozen := false, armedFrom := none }
    if c.bound ∧ c.instant ≠ some e.clock.instant then
      startSeek e k e.clock.instant true (l.setCursor k unfrozen)
    else
      let m := l.setCursor k
        { unfrozen with
          state := .running, op := .none, stepsLeft := steps, underStep := underStep, parked := false, redo := false }
      if c.overtaken.isSome then startRebase e k m else m

/-- R119: what a trigger makes an ARMED cursor do. -/
def triggerAction (e : Env) (k : Slot) (c : Cursor) (l : Live) : Live :=
  if c.armedFrom = some .held ∧ (c.bound ∨ c.options.action = .play) then beginPlay e k false 0 l
  else if c.bound then
    startSeek e k e.clock.instant true (l.setCursor k { c with trailFrozen := false })
  else startSeek e k c.options.windowStart true l

/-- R124: CURSOR_STATE to the owner, as the cursor stands. -/
def notifyState (k : Slot) (cause : StateCause) (l : Live) : Live :=
  l.withCursor k fun c => l.notify c.owner (.cursorState k c.state cause c.instant)

/-- R119: an ARMED cursor takes a trigger; any other is not affected. -/
def trigger (e : Env) (k : Slot) (l : Live) : Live :=
  l.withCursor k fun c => if c.state = .armed then notifyState k .trigger (triggerAction e k c l) else l

/-- R120: an ARMED cursor whose trigger source is the given one. -/
def armedFor (src : TriggerSource) (c : Cursor) : Bool := c.state == .armed && c.options.source == src

/-- R120, R182: a trigger event of one source. -/
def triggerEvent (e : Env) (src : TriggerSource) (l : Live) : Live :=
  inFreeOrder (l.slotsWhere (armedFor src)) (trigger e) l

/-- R120, R146: a cursor's signal. -/
def signalFrom (e : Env) (k : Slot) (l : Live) : Live := triggerEvent e (.cursor k) l

/-! ### Probes begin (R97, R155, R156) -/

/-- R97: what a probe copies at its choice. -/
def probeStart (e : Env) (p : PointId) (chosen : Option Checkpoint) : ProbeWork :=
  let img := (chosen.map Checkpoint.image).getD []
  { chosen := chosen.map Checkpoint.instant
    lastRead := none
    answer :=
      { state := Image.stateOf e.tables img p
        time := (Image.cell img p).map ImageCell.time
        commit := (Image.cell img p).map ImageCell.commit
        quality := none } }

/-- R97: the front probe makes its choice and begins, afresh after a restart (R158). -/
def beginProbe (e : Env) (k : Slot) (l : Live) : Live :=
  l.withCursor k fun c =>
    match c.probes with
    | [] => l
    | q :: rest =>
        let choice := l.checkpoints.choose q.instant
        let m := { l with checkpoints := choice.2 }
        m.setCursor k { c with probes := { q with work := some (probeStart e q.point choice.1) } :: rest }

/-- R156, R157: the cursor's state lets its front probe begin. -/
def probesMayBegin (c : Cursor) : Bool :=
  match c.state with
  | .idle | .armed | .held | .ended | .unsettled => true
  | .seeking => c.op == .serving
  | .running => c.op == .none

/-- R155, R156: the front probe begins computing when it may and has not begun. -/
def kickProbe (e : Env) (k : Slot) (l : Live) : Live :=
  l.withCursor k fun c =>
    match c.probes with
    | [] => l
    | q :: _ => if q.work.isNone && probesMayBegin c then beginProbe e k l else l

/-! ### Step boundaries (R114) -/

/-- The cursor becomes HELD by its owner's request: the change flushes (R134). -/
def becomeHeld (k : Slot) (l : Live) : Live :=
  flush k (l.modify k fun c => { c.leaveRunning with state := .held, op := .none, pendingHold := none, chain := false })

/-- R114, R157: the boundary actions of a RUNNING cursor with no step and no rebuild in flight. -/
def atBoundary (e : Env) (k : Slot) (l : Live) : Live :=
  l.withCursor k fun c =>
    if c.state ≠ .running ∨ c.op ≠ .none then l
    else if c.probes ≠ [] then kickProbe e k l
    else if c.redo then l
    else if c.pendingHold.isSome ∨ (c.underStep ∧ c.stepsLeft = 0) then becomeHeld k l
    else if c.overtaken.isSome then startRebase e k l
    else l

/-! ### Window end, wrap and head (R115 to R117, R169) -/

/-- R115: the instant a single pass's end sets. -/
def endInstant (e : Env) (c : Cursor) : Nat :=
  max (c.instant.getD 0) (c.options.windowEnd.getD (e.history.greatest.getD 0))

/-- R115 steps 3 and 4, R124: the cursor becomes ENDED once END is written, and signals; a waiting probe begins after
the signal (DESIGN CHOICE, log 49). -/
def becomeEnded (e : Env) (k : Slot) (cause : StateCause) (l : Live) : Live :=
  let m := l.modify k fun c =>
    { c.leaveRunning with state := .ended, op := .none, pendingHold := none, applied := false }
  kickProbe e k (signalFrom e k (notifyState k cause (flush k m)))

/-- R115: a single pass ends. -/
def endPass (e : Env) (k : Slot) (cause : StateCause) (l : Live) : Live :=
  l.withCursor k fun c =>
    let t := endInstant e c
    emit e k (.ending cause) (.marker (.endPass t)) (becomeEnded e k cause)
      (l.setCursor k { c with instant := some t, atHead := false, parked := false })

/-- R116: the wrap rebuild starts once WRAP is written. -/
def startWrap (e : Env) (k : Slot) (l : Live) : Live :=
  l.withCursor k fun c => startRebuild e k .wrap c.options.windowStart l

/-- R116: a looping cursor's window end. -/
def wrapPass (e : Env) (k : Slot) (l : Live) : Live :=
  l.withCursor k fun c =>
    emit e k .wrapping (.marker (.wrap c.options.windowStart)) (startWrap e k)
      (l.setCursor k { c with atHead := false, parked := false })

/-- R115, R116: a window end: a loop whose pass applied a record wraps, any other pass ends. -/
def reachEnd (e : Env) (k : Slot) (cause : StateCause) (l : Live) : Live :=
  l.withCursor k fun c =>
    if c.options.loop then if c.applied then wrapPass e k l else endPass e k .windowEnd l else endPass e k cause l

/-- R117, R169: a seal reaches a cursor that waits at the head: it ends at once, or waits for the clock at a step
boundary (R114). -/
def takeSeal (e : Env) (k : Slot) (l : Live) : Live :=
  l.withCursor k fun c =>
    if c.state ≠ .running ∨ !c.atHead ∨ c.op ≠ .none then l
    else if c.bound ∧ e.clock.instant < endInstant e c then
      atBoundary e k (l.setCursor k { c with atHead := false, waiting := true, parked := true, sealEnd := true })
    else reachEnd e k .sealTaken (l.setCursor k { c with atHead := false, parked := false })

/-- R117, R169: once HEAD is written the cursor waits at the head, unless records have followed meanwhile; a BOUND
cursor also sets WAITING and takes the clock instant. -/
def settleHead (e : Env) (k : Slot) (l : Live) : Live :=
  l.withCursor k fun c =>
    if (nextAfter c.position e.history.records).isSome then
      atBoundary e k (l.setCursor k { c with op := .none, parked := false, redo := false })
    else
      let m := l.setCursor k
        { c with
          op := .none, atHead := true, parked := true, redo := false
          waiting := c.bound || c.waiting
          lagging := if c.bound then false else c.lagging
          instant := if c.bound then some e.clock.instant else c.instant }
      if e.history.phase = .sealed then takeSeal e k m else atBoundary e k m

/-- R117: a read finds the head of the store. -/
def meetHead (e : Env) (k : Slot) (l : Live) : Live :=
  l.withCursor k fun c =>
    if c.atHead then settleHead e k l
    else emit e k .heading (.marker (.head (c.instant.getD 0))) (settleHead e k) l

/-- R169: a BOUND cursor has nothing at or below the clock instant: it sets WAITING, takes the clock instant and
stands at a step boundary; setting WAITING flushes. -/
def waitForClock (e : Env) (k : Slot) (l : Live) : Live :=
  let m := l.modify k fun c =>
    { c with waiting := true, parked := true, lagging := false, redo := false, instant := some e.clock.instant }
  atBoundary e k (flush k m)

/-! ### The end of a step (R144 to R147) -/

/-- R145: a firing watch's flag and count. -/
def Watch.hit (w : Watch) : Watch := { w with fired := true, hits := min (w.hits + 1) Config.countLimit }

/-- R145: the watches after a step's end. -/
def hitWatches (fired : List WatchId) (ws : Vector (Option Watch) 8) : Vector (Option Watch) 8 :=
  Vector.ofFn fun i => if i ∈ fired then (ws.get i).map Watch.hit else ws.get i

/-- Some firing watch has an action. -/
def firedWith (act : WatchActions → Bool) (fired : List WatchId) (ws : Vector (Option Watch) 8) : Bool :=
  fired.any fun i => (ws.get i).elim false fun w => act w.actions

/-- R147: a HOLD watch holds the cursor at the step's end; a waiting probe begins then, before the signal that stepEnd
gives (DESIGN CHOICE, log 49). -/
def holdByWatch (e : Env) (k : Slot) (f : StepFlight) (l : Live) : Live :=
  let m := flush k
    (l.modify k fun c => { c.leaveRunning with state := .held, op := .none, pendingHold := none, trailFrozen := true })
  kickProbe e k
    (m.withCursor k fun c => m.notify c.owner (.watchFired k f.fired f.commit f.time c.instant))

/-- R144 to R147: the step ends with its last item: flags and counts, then HELD by a watch or the step boundary, where a
waiting probe begins, then the signal (log 20; the probe's choice before the signal's is a DESIGN CHOICE, log 49). -/
def stepEnd (e : Env) (k : Slot) (f : StepFlight) (l : Live) : Live :=
  l.withCursor k fun c =>
    let m := l.setCursor k { c with watches := hitWatches f.fired c.watches, op := .none }
    let n :=
      if firedWith WatchActions.hold f.fired c.watches then holdByWatch e k f m else atBoundary e k m
    if firedWith WatchActions.signal f.fired c.watches then signalFrom e k n else n

/-! ### Rebuild completion (R93, R108, R122) -/

/-- R108: probes served, a seek leads to RUNNING or HELD. -/
def finishSeek (e : Env) (k : Slot) (l : Live) : Live :=
  l.withCursor k fun c =>
    if c.chain then
      atBoundary e k (l.setCursor k { c with state := .running, chain := false, op := .none })
    else becomeHeld k l

/-- R108: SEEK_DONE is written: waiting probes are served, then the seek is finished. -/
def seekWritten (e : Env) (k : Slot) (l : Live) : Live :=
  l.withCursor k fun c =>
    let m := l.setCursor k { c with op := .serving }
    if c.probes = [] then finishSeek e k m else kickProbe e k m

/-- R122: REBASE is written: the operation that called for the rebase goes on, probes first in RUNNING. -/
def rebaseWritten (e : Env) (k : Slot) (l : Live) : Live :=
  atBoundary e k (l.modify k fun c => { c with op := .none })

/-- R93, R98, R129: what a completed rebuild sets. -/
def Cursor.completeRebuild (r : Rebuild) (c : Cursor) : Cursor :=
  { c with
    instant := some r.target
    stepBase := some r.target
    applied := false
    buffer := { c.buffer with refTime := some r.target }
    rebuildRecord := c.rebuildRecord.map fun x => { x with outcome := .completed } }

/-- R93, R108, R116, R122: a rebuild completes, and its operation continues. -/
def completeRebuild (e : Env) (k : Slot) (r : Rebuild) (l : Live) : Live :=
  l.withCursor k fun c =>
    let m := l.setCursor k (c.completeRebuild r)
    match r.kind with
    | .seek => emit e k .seekDone (.marker (.seekDone r.target)) (seekWritten e k) m
    | .rebase =>
        emit e k .rebaseDone
          (.marker (.rebase ((r.kept.map Overtake.earliest).getD 0) ((r.kept.map Overtake.count).getD 0)))
          (rebaseWritten e k) m
    | .wrap => atBoundary e k (m.modify k fun d => { d with op := .none })

/-- R92, R98: the record a rebuild read is applied to the working image, and counted; a record applied again is counted
again, without bound (DESIGN CHOICE, log 48). -/
def Cursor.rebuildApply (r : Rebuild) (x : Record) (c : Cursor) : Cursor :=
  { c with
    image := some (Image.put (c.image.getD []) x.point x.cell)
    position := some x.key
    op := .rebuild { r with standing := some x.time }
    rebuildRecord := c.rebuildRecord.map fun y => { y with applied := y.applied + 1 } }

/-- R92, R93, R86: one read of a rebuild in flight. -/
def rebuildRead (e : Env) (k : Slot) (l : Live) : Live :=
  l.withCursor k fun c =>
    match c.op with
    | .rebuild r =>
        let iv := e.tables.study.intervalMicros
        match nextUpTo c.position r.target e.history.records with
        | some x =>
            (checkpointAtRead (boundaryBefore iv r.standing x.time) c l).setCursor k (c.rebuildApply r x)
        | none => completeRebuild e k r (checkpointAtRead (boundaryUpTo iv r.standing r.target) c l)
    | _ => l

/-! ### After an item is written (R131, R141) -/

/-- R123: the snapshot ends with its last item; the end flushes (R134). -/
def endSnapshot (k : Slot) (l : Live) : Live := flush k (l.modify k fun c => { c with snap := none })

/-- R131: what goes on once an item is written: the step, the window end, the wrap, the head, the completion of a
rebuild, or the snapshot. -/
def afterItem (e : Env) (k : Slot) (l : Live) : Live :=
  l.withCursor k fun c =>
    match c.op with
    | .step f => if f.todo = [] then stepEnd e k f l else l
    | .ending cause => becomeEnded e k cause l
    | .wrapping => startWrap e k l
    | .heading => settleHead e k l
    | .seekDone => seekWritten e k l
    | .rebaseDone => rebaseWritten e k l
    | .none =>
        match c.snap with
        | some w => if w.todo = [] then endSnapshot k l else l
        | none => l
    | .rebuild _ => l
    | .serving => l

/-- R131, R136, R137: a freed slot takes the waiting item, and its operation goes on. -/
def resumeWaiting (e : Env) (k : Slot) (l : Live) : Live :=
  l.withCursor k fun c =>
    if c.buffer.waiting.isSome && c.buffer.hasRoom c.options then afterItem e k (writeWaiting e k l) else l

/-- R113, R123: the cursor writes the next item of its step or snapshot. -/
def writeNext (e : Env) (k : Slot) (l : Live) : Live :=
  l.withCursor k fun c =>
    match c.op with
    | .step f =>
        match f.todo with
        | [] => l
        | x :: rest => emit e k (.step { f with todo := rest }) x (afterItem e k) l
    | .none =>
        match c.snap with
        | some w =>
            match w.todo with
            | [] => l
            | p :: rest =>
                emit e k .none (.snap p) (afterItem e k)
                  (l.setCursor k { c with snap := some { todo := rest, opening := false } })
        | none => l
    | _ => l

/-! ### Watches (R143) -/

/-- R142: points a STATION_COUNT watch counts in an image. -/
def stationCount (t : Tables) (img : Image) (station : Nat) (kind : Option DeviceKind) (st : SwState) : Nat :=
  ((List.finRange 4096).filter fun p =>
    let x := t.points.get p
    x.enabled && x.station == station && (kind.elim true fun y => x.kind == y) &&
      (Image.stateOf t img p == .known st)).length

/-- R143: a state kind's condition on an image and a cursor instant; step kinds are false before every step. An INSTANT
condition is judged on the instant as it stands, also where it has gone back (DESIGN CHOICE, log 55). -/
def stateHolds (t : Tables) (img : Image) (instant : Option Nat) : WatchCond → Bool
  | .pointState p st => Image.stateOf t img p == .known st
  | .stationCount station kind st k => decide (k ≤ stationCount t img station kind st)
  | .instant x => instant.elim false fun i => decide (x ≤ i)
  | .quality _ => false
  | .gap _ => false

/-- R143, Table 8-2: a step kind's condition on the step. -/
def stepHolds (r : Record) (opened : List RecId) : WatchCond → Bool
  | .quality .atOrBelowFree => r.quality != .locked
  | .quality .estimatedOnly => r.quality == .estimated
  | .gap none => !opened.isEmpty
  | .gap (some x) => opened.any (· == x)
  | .pointState _ _ => false
  | .stationCount _ _ _ _ => false
  | .instant _ => false

/-- R143: the watch fires on a step from `before` to `after` that applies `r` and opens the gaps of `opened`. -/
def watchFires (t : Tables) (before after : Cursor) (r : Record) (opened : List RecId) (w : Watch) : Bool :=
  (stateHolds t (after.image.getD []) after.instant w.cond && !stateHolds t (before.image.getD []) before.instant w.cond) ||
    stepHolds r opened w.cond

/-- R144: the decision of a step: the watch slots that fire, ascending. -/
def firedWatches (t : Tables) (before after : Cursor) (r : Record) (opened : List RecId) : List WatchId :=
  (List.finRange 8).filter fun i => ((before.watches.get i).elim false (watchFires t before after r opened))

/-! ### The step (R113) -/

/-- R113: a time lies in a step's interval: after the step base (from 0 when it is absent), up to the record's time. -/
def inInterval (base : Option Nat) (t x : Nat) : Bool := (base.elim true fun b => decide (b < x)) && decide (x ≤ t)

/-- R113: the order of gap markers: the time they mark, the Gap List index, GAP_OPEN before GAP_CLOSE. -/
def GapMark.before (a b : GapMark) : Bool :=
  decide (a.time < b.time) ||
    (a.time == b.time && (decide (a.index < b.index) || (a.index == b.index && (!a.closing && b.closing))))

/-- A gap marker put in its place. -/
def insertMark (m : GapMark) : List GapMark → List GapMark
  | [] => [m]
  | x :: xs => if m.before x then m :: x :: xs else x :: insertMark m xs

/-- R113: the gap markers of one entry. -/
def gapMarksOf (base : Option Nat) (t index : Nat) (g : Gap) : List GapMark :=
  (if inInterval base t g.start then
      [{ time := g.start, index := index, closing := false, recorder := g.recorder }] else []) ++
    (match g.stop with
     | some x =>
        if inInterval base t x then [{ time := x, index := index, closing := true, recorder := g.recorder }] else []
     | none => [])

/-- R113: the gap markers of a step, in order. -/
def gapMarks (gaps : List Gap) (base : Option Nat) (t : Nat) : List GapMark :=
  (gaps.zipIdx.flatMap fun g => gapMarksOf base t g.2 g.1).foldr insertMark []

/-- R128: the marker of a gap mark. -/
def GapMark.marker (m : GapMark) : Marker :=
  if m.closing then .gapClose m.recorder m.index m.time else .gapOpen m.recorder m.index m.time

/-- R151: the trail with one more applied record, the oldest removed beyond 8. -/
def pushTrail (x : TrailEntry) (trail : List TrailEntry) : List TrailEntry :=
  (trail ++ [x]).drop (trail.length + 1 - Config.trailCapacity)

/-- R151: the trail entry of a record applied over a state. -/
def trailEntryOf (r : Record) (before : PtState) : TrailEntry :=
  { key := r.key, point := r.point, state := r.state, quality := r.quality, commit := r.commit
    late := r.late, repositioned := r.repositioned, before := before }

/-- R113, R151: the cursor as the read that applies a record leaves it, its items apart; R110's steps remaining is
lowered in this event (DESIGN CHOICE, log 52). -/
def Cursor.applyRecord (t : Tables) (r : Record) (c : Cursor) : Cursor :=
  let img := c.image.getD []
  { c with
    image := some (Image.put img r.point r.cell)
    position := some r.key
    instant := some r.time
    stepBase := some r.time
    stepsLeft := c.stepsLeft - 1
    applied := true
    waiting := false
    parked := false
    redo := false
    trail := if c.trailFrozen then c.trail else pushTrail (trailEntryOf r (Image.stateOf t img r.point)) c.trail }

/-- R157: what an abort of a step from `c` restores. -/
def undoOf (r : Record) (c : Cursor) : StepUndo :=
  { point := r.point, cell := Image.cell (c.image.getD []) r.point, position := c.position, instant := c.instant
    stepBase := c.stepBase, trail := c.trail, stepsLeft := c.stepsLeft, applied := c.applied
    refTime := c.buffer.refTime, nextNumber := c.buffer.nextNumber }

/-- R144: the WATCH markers of the firing watches that include MARK, in slot order. -/
def watchMarkers (fired : List WatchId) (ws : Vector (Option Watch) 8) : List ItemPlan :=
  (fired.filter fun i => (ws.get i).elim false fun w => w.actions.mark).map fun i => .marker (.watch i)

/-- R113, R144: the step in flight from `before` to `after`, with its items in order. -/
def stepFlightOf (t : Tables) (gaps : List Gap) (before after : Cursor) (r : Record) : StepFlight :=
  let marks := gapMarks gaps before.stepBase r.time
  let opened := (marks.filter fun m => !m.closing).map GapMark.recorder
  let fired := firedWatches t before after r opened
  let noChange := Image.stateOf t (before.image.getD []) r.point == .known r.state
  { todo := marks.map (fun m => .marker m.marker) ++ [.record r noChange] ++ watchMarkers fired before.watches
    written := 0, fired := fired, commit := r.commit, time := r.time, undo := undoOf r before }

/-- R113: a step applies its record in the read event, and writes its first item. The eligible boundary of R85 is judged
from the cursor instant also where the cursor stands past it (log 39): the checkpoint then created holds records later
than its instant, against R83 (DESIGN CHOICE, log 58). -/
def applyStep (e : Env) (k : Slot) (r : Record) (l : Live) : Live :=
  l.withCursor k fun c =>
    let m := checkpointAtRead (boundaryBefore e.tables.study.intervalMicros c.instant r.time) c l
    let d := c.applyRecord e.tables r
    writeNext e k (m.setCursor k { d with op := .step (stepFlightOf e.tables e.gaps c d r) })

/-- R113, R115, R117, R169: what the read of a step comes to. -/
def stepAnswer (e : Env) (c : Cursor) : StepAnswer :=
  let endReady := !c.bound || decide (endInstant e c ≤ e.clock.instant)
  match nextAfter c.position e.history.records with
  | none =>
      if e.history.phase = .sealed then if endReady then .windowEnd else .clock
      else .head
  | some r =>
      if c.options.windowEnd.elim false fun w => decide (w < r.time) then if endReady then .windowEnd else .clock
      else if c.bound && decide (e.clock.instant < r.time) then .clock
      else .apply r

/-- R114, R157: a RUNNING cursor whose next step's read is due. -/
def readDue (c : Cursor) : Bool :=
  c.state == .running && c.op == .none && c.probes.isEmpty && !c.parked

/-- R113: the read of a step. -/
def stepRead (e : Env) (k : Slot) (l : Live) : Live :=
  l.withCursor k fun c =>
    if readDue c then
      match stepAnswer e c with
      | .apply r => applyStep e k r l
      | .windowEnd => reachEnd e k (if c.sealEnd then .sealTaken else .windowEnd) l
      | .head => meetHead e k l
      | .clock => waitForClock e k l
    else l

/-! ### Probes (R154 to R158) -/

/-- R157, R138: a withdrawable step is undone; WAITING, which its read cleared, stays clear (log 46). -/
def Cursor.abortStep (f : StepFlight) (c : Cursor) : Cursor :=
  let u := f.undo
  { c with
    image := some (Image.restore (c.image.getD []) u.point u.cell)
    position := u.position
    instant := u.instant
    stepBase := u.stepBase
    trail := u.trail
    stepsLeft := u.stepsLeft
    applied := u.applied
    buffer := { c.buffer.withdraw c.options f.written with refTime := u.refTime, nextNumber := u.nextNumber }
    op := .none
    parked := false
    redo := true }

/-- R154, R157: an accepted probe joins the queue; a withdrawable step is aborted. -/
def Cursor.takeProbe (q : Probe) (c : Cursor) : Cursor :=
  let d := { c with probes := c.probes ++ [q] }
  match c.state, c.op with
  | .running, .step f => if withdrawable c f then d.abortStep f else d
  | _, _ => d

/-- R97, R155: the record a computing probe reads next. -/
def probeNext (e : Env) (q : Probe) (w : ProbeWork) : Option Record :=
  e.history.records.find? fun r =>
    r.point == q.point && keyAfter r.key w.lastRead && (w.chosen.elim true fun t => decide (t < r.time)) &&
      decide (r.time ≤ q.instant)

/-- R155: the answer at completion; a copied entry takes the quality of the store's record of its commit number. -/
def probeAnswer (e : Env) (w : ProbeWork) : ProbeAnswer :=
  match w.answer.quality with
  | some _ => w.answer
  | none =>
      { w.answer with
        quality := w.answer.commit.bind fun n => (e.history.records.find? fun r => r.commit == n).map Record.quality }

/-- R156, R157: what a cursor does once its probe queue is empty. -/
def afterProbes (e : Env) (k : Slot) (l : Live) : Live :=
  l.withCursor k fun c =>
    match c.state, c.op with
    | .seeking, .serving => finishSeek e k l
    | .running, .none => atBoundary e k l
    | _, _ => l

/-- R155: one read of a computing probe, or its completion with PROBE_RESULT. -/
def probeRead (e : Env) (k : Slot) (l : Live) : Live :=
  l.withCursor k fun c =>
    match c.probes with
    | [] => l
    | q :: rest =>
        match q.work with
        | none => l
        | some w =>
            match probeNext e q w with
            | some r =>
                let a : ProbeAnswer :=
                  { state := .known r.state, time := some r.time, commit := some r.commit, quality := some r.quality }
                l.setCursor k { c with probes := { q with work := some { w with lastRead := some r.key, answer := a } } :: rest }
            | none =>
                let m := (l.setCursor k { c with probes := rest }).notify c.owner
                  (.probeResult k q.tag q.point q.instant (probeAnswer e w))
                if rest = [] then afterProbes e k m else kickProbe e k m

/-! ### Abandonment (R96, R131) -/

/-- R96, R129: the cursor whose rebuild STOP abandons. -/
def Cursor.abandonRebuild (c : Cursor) : Cursor :=
  match c.op with
  | .rebuild r =>
      let t := r.standing.getD 0
      { c with
        instant := some t
        buffer := { c.buffer with refTime := some t }
        rebuildRecord := c.rebuildRecord.map fun x => { x with outcome := .abandoned } }
  | _ => c

/-- R96, R112, R131: a rebuild in flight, or a completed one whose marker waits, is abandoned; the cursor becomes
UNSETTLED and its waiting probes begin; the chain flag is cleared (DESIGN CHOICE, log 51). -/
def abandon (e : Env) (k : Slot) (l : Live) : Live :=
  let m := l.modify k fun c =>
    { c.abandonRebuild.leaveRunning with
      state := .unsettled, op := .none, chain := false, pendingHold := none
      buffer := { c.abandonRebuild.buffer with waiting := none } }
  kickProbe e k (flush k m)

/-- R95, R107, R112, R131: a seek, rebase or wrap rebuild is in flight, or its completion marker waits. -/
def rebuilding (c : Cursor) : Bool :=
  match c.op with
  | .rebuild _ => true
  | .seekDone => true
  | .rebaseDone => true
  | _ => false

/-! ### Commits (R22, R94, R117, R158, R170) -/

/-- R22: the comparison time of a cursor. -/
def compareTime (c : Cursor) : Option Nat :=
  match c.op with
  | .rebuild r => some r.target
  | _ => c.instant

/-- R22: the mark a commit gives. -/
def Cursor.mark (touched : List Touched) (c : Cursor) : Cursor :=
  match compareTime c with
  | none => c
  | some t => { c with overtaken := overtakeAfter t touched c.overtaken }

/-- R117: a touched record after its position releases a cursor that waits at the head. -/
def Cursor.release (touched : List Touched) (c : Cursor) : Cursor :=
  if c.atHead && touched.any (fun t => keyAfter t.key c.position) then { c with atHead := false, parked := false } else c

/-- R158: a commit touches the computing probe's point at or before its instant. -/
def probeTouched (touched : List Touched) (c : Cursor) : Bool :=
  match c.probes with
  | [] => false
  | q :: _ => q.work.isSome && touched.any fun t => t.point == q.point && !(t.behind q.instant).isEmpty

/-- R22, R114, R117, R158, R170: what a commit does to one cursor. -/
def commitReaches (e : Env) (touched : List Touched) (k : Slot) (l : Live) : Live :=
  l.withCursor k fun c =>
    let m := l.setCursor k (((c.mark touched).release touched).lagTest e)
    let n := if probeTouched touched c then beginProbe e k m else m
    atBoundary e k n

/-- R22: what a commit does to the cursors, each of which has state of its own. -/
def commitReachesAll (e : Env) (touched : List Touched) (l : Live) : Live :=
  inFreeOrder (l.slotsWhere fun _ => true) (commitReaches e touched) l

/-! ### Clock changes (R169 to R173) -/

/-- R169, R170: an advance or a CLOCK_RUN reaches a cursor: a WAITING one takes the new instant and reads afresh, but
for one with a rebase in flight (log 37), a HEAD that waits (log 47) or an END that waits (DESIGN CHOICE, log 56). -/
def Cursor.followClock (e : Env) (c : Cursor) : Cursor :=
  if c.state = .running ∧ c.bound then
    (if c.waiting ∧ c.op = .none then { c with instant := some e.clock.instant, parked := false } else c).lagTest e
  else c

/-- R169, R170: an advance or a CLOCK_RUN reaches every cursor. -/
def followClockAll (e : Env) (l : Live) : Live :=
  { l with cursors := l.cursors.map fun c => c.map (Cursor.followClock e) }

/-- R173: a clock mark reaches this cursor: its window start was crossed. -/
def marked (before after : Nat) (c : Cursor) : Bool :=
  c.state == .armed && c.options.source == .clockMark && decide (before < c.options.windowStart) &&
    decide (c.options.windowStart ≤ after)

/-- R171: a CLOCK_SET makes this cursor seek. -/
def reseeks (c : Cursor) : Bool := c.bound && (c.state == .running || (c.state == .seeking && c.chain))

/-- R171: the re-seek of one bound cursor. -/
def reseek (e : Env) (k : Slot) (l : Live) : Live :=
  l.withCursor k fun c =>
    let m := startSeek e k e.clock.instant c.pendingHold.isNone (l.setCursor k { c with pendingHold := none })
    if c.state = .running then notifyState k .clockSet m else m

/-- R171, R172, R173: a cursor that a CLOCK_SET reaches re-seeks, or takes its clock mark. -/
def clockSetReaches (e : Env) (k : Slot) (l : Live) : Live :=
  l.withCursor k fun c => if reseeks c then reseek e k l else trigger e k l

end Sys2Proof.Machine
end

