-- ==== Sys2Proof/Machine/Layouts.lean ====
section
/-!
DEFINITION. Layouts (11_layouts.md): the frame header and the CRC-32, the value codes the part sends, and the bytes of
the bodies whose layout the spec gives.
-/

namespace Sys2Proof.Machine

open Sys2Proof

/-! ### Fields and the CRC-32 (R185, R187) -/

/-- A number in `n` bytes, least significant first. -/
def le : Nat → Nat → List Byte
  | 0, _ => []
  | n + 1, v => BitVec.ofNat 8 v :: le n (v / 256)

/-- A signed number in 8 bytes, two's complement. -/
def leInt (i : Int) : List Byte := le 8 (i % 2 ^ 64).toNat

/-- A time of 8 bytes; absence is all bytes 0xFF. -/
def leTime (t : Option Nat) : List Byte := le 8 (t.getD (2 ^ 64 - 1))

/-- A flag in its bit. -/
def bitAt (i : Nat) (b : Bool) : Nat := if b then 2 ^ i else 0

/-- One bit of the reflected CRC-32 of polynomial 0x04C11DB7. -/
def crcBit (c : BitVec 32) : BitVec 32 := if c.getLsbD 0 then (c >>> 1) ^^^ 0xEDB88320#32 else c >>> 1

/-- One byte of the CRC-32. -/
def crcByte (c : BitVec 32) (b : Byte) : BitVec 32 :=
  crcBit (crcBit (crcBit (crcBit (crcBit (crcBit (crcBit (crcBit (c ^^^ b.setWidth 32))))))))

/-- R185: the CRC-32 over header and body. -/
def crc32 (bs : List Byte) : BitVec 32 := ~~~ bs.foldl crcByte 0xFFFFFFFF#32

/-! ### Frames (R175, R184) -/

/-- R175: what the check of a received frame comes to; a frame too short for header and CRC-32 is faulty. -/
def receiveFrame (bytes : List Byte) : QueuedFrame :=
  let n := bytes.length
  let len := leAt bytes 6 2
  if n < 16 ∨ crc32 (bytes.take (n - 4)) ≠ BitVec.ofNat 32 (leAt bytes (n - 4) 4) ∨ Config.maxBody < len ∨
      len ≠ n - 16 ∨ byteAt bytes 0 ≠ 1 ∨ byteAt bytes 1 ≠ 0 ∨ leAt bytes 8 4 ≠ 0 then .faulty
  else .sound (leAt bytes 2 2) (leAt bytes 4 2) ((bytes.drop 12).take (n - 16))

/-- R184: a frame of a kind, a code, a tag and a body. -/
def frameBytes (kind code tag : Nat) (body : List Byte) : List Byte :=
  let head := le 1 kind ++ [0#8] ++ le 2 code ++ le 2 tag ++ le 2 body.length ++ le 4 0 ++ body
  head ++ le 4 (crc32 head).toNat

/-! ### Codes (R185, R186) -/

/-- Response codes, from 0 in the order of Table 10-3. -/
def RespCode.code : RespCode → Nat
  | .done => 0
  | .accepted => 1
  | .queued => 2
  | .nothingReady => 3
  | .wrongPhase => 4
  | .tableFault => 5
  | .notOwner => 6
  | .noCursor => 7
  | .badCursor => 8
  | .cursorBusy => 9
  | .notSettled => 10
  | .atEnd => 11
  | .badArgument => 12
  | .queueFull => 13
  | .tooLate => 14
  | .notFound => 15
  | .probeFull => 16
  | .clockBusy => 17
  | .notController => 18
  | .ingestActive => 19
  | .cursorsOpen => 20
  | .frameError => 21
  | .unknownRequest => 22

/-- Notice kinds, from 1 in the order of Table 10-4. -/
def NoticeKind.code : NoticeKind → Nat
  | .batchReady => 1
  | .cursorState => 2
  | .watchFired => 3
  | .probeResult => 4
  | .segmentDone => 5
  | .recorderAttention => 6
  | .clock => 7
  | .clockGranted => 8
  | .clockLost => 9
  | .store => 10
  | .resync => 11

def swStateCode : SwState → Nat
  | .opened => 1
  | .closed => 2
  | .intermediate => 3
  | .faulty => 4

def ptStateCode : PtState → Nat
  | .known s => swStateCode s
  | .unknown => 5

def qualityCode : Quality → Nat
  | .locked => 1
  | .free => 2
  | .estimated => 3

def AnchorQuality.code : AnchorQuality → Nat
  | .locked => 1
  | .free => 2

def Phase.code : Phase → Nat
  | .setup => 1
  | .collecting => 2
  | .sealed => 3

def TimingState.code : TimingState → Nat
  | .unanchored => 1
  | .anchored => 2
  | .estimating => 3

def CursorState.code : CursorState → Nat
  | .idle => 1
  | .armed => 2
  | .seeking => 3
  | .held => 4
  | .running => 5
  | .ended => 6
  | .unsettled => 7

def Presentation.code : Presentation → Nat
  | .absolute => 0
  | .zeroRelative => 1
  | .previousRelative => 2
  | .recorderLocal => 3

def TriggerSource.code : TriggerSource → Nat
  | .request => 0
  | .line => 1
  | .clockMark => 2
  | .cursor k => 16 + k.val

def TriggerAction.code : TriggerAction → Nat
  | .play => 0
  | .seekPlay => 1

def Pacing.code : Pacing → Nat
  | .freeRun => 0
  | .bound => 1

def DeliveryMode.code : DeliveryMode → Nat
  | .notice => 0
  | .push => 1

def ItemForm.code : ItemForm → Nat
  | .full => 0
  | .compact => 1

/-- Armed-from, Table 11-9. -/
def armedFromCode : Option ArmedFrom → Nat
  | none => 0
  | some .idle => 1
  | some .held => 4

/-- Pending hold, Table 11-9. -/
def pendingHoldCode : Option PendingHold → Nat
  | none => 0
  | some .hold => 1
  | some .stop => 2

/-- A half, R185. -/
def halfCode : Option Half → Nat
  | none => 0
  | some .a => 1
  | some .b => 2

def RebuildKind.code : RebuildKind → Nat
  | .seek => 1
  | .rebase => 2
  | .wrap => 3

def RebuildOutcome.code : RebuildOutcome → Nat
  | .inFlight => 1
  | .completed => 2
  | .abandoned => 3
  | .restarted => 4

def FaultKind.code : FaultKind → Nat
  | .noRecorder => 1
  | .noPoint => 2
  | .blockChannelRange => 3
  | .blockPointRange => 4
  | .blockOverlap => 5

def SegOutcome.code : SegOutcome → Nat
  | .committed => 1
  | .cancelled => 2
  | .duplicate => 3
  | .malformed => 4
  | .storeFull => 5
  | .noTimeBase => 6
  | .cleared => 7

def ClockCause.code : ClockCause → Nat
  | .run => 1
  | .pause => 2
  | .set => 3
  | .rate => 4
  | .control => 5
  | .limit => 6

def StateCause.code : StateCause → Nat
  | .trigger => 1
  | .windowEnd => 2
  | .sealTaken => 3
  | .clockSet => 4

def DeviceKind.code : DeviceKind → Nat
  | .breaker => 1
  | .disconnector => 2
  | .earthSwitch => 3

/-- The kind of a STATION_COUNT watch: ANY is 0. -/
def watchPointKindCode (k : Option DeviceKind) : Nat := (k.map DeviceKind.code).getD 0

def QualityThreshold.code : QualityThreshold → Nat
  | .atOrBelowFree => 1
  | .estimatedOnly => 2

/-- The watch kind of a watch. -/
def WatchCond.code : WatchCond → Nat
  | .pointState _ _ => 1
  | .stationCount _ _ _ _ => 2
  | .quality _ => 3
  | .instant _ => 4
  | .gap _ => 5

/-- The watch action set of a watch. -/
def WatchActions.code (a : WatchActions) : Nat := bitAt 0 a.hold + bitAt 1 a.mark + bitAt 2 a.signal

/-- The subscription set of a port. -/
def Subs.code (x : Subs) : Nat := bitAt 0 x.attention + bitAt 1 x.segmentsAll + bitAt 2 x.clock + bitAt 3 x.store

/-- The activity flag set of Table 11-2. -/
def Activity.code (a : Activity) : Nat :=
  bitAt 0 a.stalled + bitAt 1 a.lagging + bitAt 2 a.atHead + bitAt 3 a.waiting + bitAt 4 a.probing +
    bitAt 5 a.rebasing + bitAt 6 a.snapshot

/-! ### Items (R189, Tables 11-5 to 11-7) -/

/-- Table 11-6: a source of a FULL item. -/
def Source.bytes (x : Source) : List Byte :=
  le 1 x.recorder.val ++ [0#8] ++ le 2 x.seq ++ le 2 x.idx ++ le 2 0 ++ le 8 x.recorderTime

/-- Table 11-6: the FULL continuation. -/
def FullPart.bytes (f : FullPart) : List Byte :=
  le 1 (f.cause.getD 0) ++ le 1 f.sources.length ++ le 2 0 ++ le 4 f.commit ++ f.sources.flatMap Source.bytes

/-- Table 11-5: the flags of a RECORD item. -/
def RecordItem.flags (r : RecordItem) : Nat :=
  bitAt 0 r.late + bitAt 1 r.repositioned + bitAt 2 r.corroborated + bitAt 3 r.noChange + 16 * r.presentation.code

/-- The item kind of a RECORD item. -/
def RecordItem.kind (r : RecordItem) : Nat := if r.full.isSome then 1 else 2

/-- Tables 11-5 and 11-6. -/
def RecordItem.bytes (number : Nat) (r : RecordItem) : List Byte :=
  le 1 r.kind ++ le 1 r.flags ++ le 2 number ++ leInt r.time ++ le 2 r.point.val ++ le 1 (swStateCode r.state) ++
    le 1 (qualityCode r.quality) ++ (r.full.map FullPart.bytes).getD []

/-- The marker type of Table 11-2. -/
def Marker.code : Marker → Nat
  | .seekDone _ => 1
  | .wrap _ => 2
  | .rebase _ _ => 3
  | .watch _ => 4
  | .gapOpen _ _ _ => 5
  | .gapClose _ _ _ => 6
  | .endPass _ => 7
  | .head _ => 8

/-- Table 11-7: a marker's argument time, absent for WATCH. -/
def Marker.time : Marker → Option Nat
  | .seekDone t => some t
  | .wrap t => some t
  | .rebase t _ => some t
  | .watch _ => none
  | .gapOpen _ _ t => some t
  | .gapClose _ _ t => some t
  | .endPass t => some t
  | .head t => some t

/-- Section 11.4: a marker's argument word; the bytes it does not name are sent as 0 (DESIGN CHOICE, log 50). -/
def Marker.word : Marker → List Byte
  | .rebase _ n => le 2 n ++ le 2 0
  | .watch w => le 1 w.val ++ le 3 0
  | .gapOpen r i _ => le 1 r.val ++ [0#8] ++ le 2 i
  | .gapClose r i _ => le 1 r.val ++ [0#8] ++ le 2 i
  | _ => le 4 0

/-- The item kind of Table 11-2. -/
def Item.kind (it : Item) : Nat :=
  match it.body with
  | .record r => r.kind
  | .snap _ _ _ _ => 3
  | .marker _ => 4

/-- R189: the bytes of an item. -/
def Item.bytes (it : Item) : List Byte :=
  match it.body with
  | .record r => r.bytes it.number
  | .snap p st t n =>
      le 1 3 ++ le 1 (ptStateCode st) ++ le 2 it.number ++ le 2 p.val ++ le 2 0 ++ leTime t ++ le 4 (n.getD 0) ++ le 4 0
  | .marker m => le 1 4 ++ le 1 m.code ++ le 2 it.number ++ leTime m.time ++ m.word

/-! ### Response and notice bodies (R185, R190) -/

/-- R185: the FETCH response. -/
def Batch.bytes (b : Batch) : List Byte :=
  le 1 (halfCode b.half) ++ le 1 b.items.length ++ le 2 b.first ++ b.items.flatMap Item.bytes

/-- R190: a record of READ_RECORDS as a FULL RECORD item with item number 0 and NO_CHANGE clear. -/
def ReadRecord.bytes (x : ReadRecord) : List Byte :=
  RecordItem.bytes 0
    { presentation := x.presentation, time := x.time, point := x.record.point, state := x.record.state
      quality := x.record.quality, late := x.record.late, repositioned := x.record.repositioned
      corroborated := x.corroborated, noChange := false
      full := some { cause := x.record.cause, commit := x.record.commit, sources := x.record.sources } }

/-- Table 11-8: the READ_RECORDS response; the more flag is 1 when set (log 38). -/
def recordsBody (rs : List ReadRecord) (more : Bool) (phase : Phase) (commitCount : Nat) : List Byte :=
  le 1 rs.length ++ le 1 (bitAt 0 more) ++ le 1 phase.code ++ [0#8] ++ le 4 commitCount ++ rs.flatMap ReadRecord.bytes

/-- Table 11-8: an entry of READ_GAPS; an absent lost count is sent as 0 with its presence bit clear (log 38), and
presence bits 2 to 7, which the table does not name, as 0 (DESIGN CHOICE, log 50). -/
def gapEntryBytes (x : Nat × Gap) : List Byte :=
  le 2 x.1 ++ le 1 x.2.recorder.val ++ le 1 (bitAt 0 x.2.stop.isSome + bitAt 1 x.2.lost.isSome) ++
    le 4 (x.2.lost.getD 0) ++ le 8 x.2.start ++ leTime x.2.stop

/-- Table 11-8: the READ_GAPS response; the more flag is 1 when set (log 38). -/
def gapsBody (gs : List (Nat × Gap)) (more : Bool) (held : Nat) : List Byte :=
  le 1 gs.length ++ le 1 (bitAt 0 more) ++ le 2 held ++ le 4 0 ++ gs.flatMap gapEntryBytes

/-- Table 11-9: the options block of 32 bytes; loop and split are 1 for yes and 0 for no (DESIGN CHOICE, log 53). -/
def Options.bytes (o : Options) : List Byte :=
  le 1 o.pacing.code ++ le 1 (bitAt 0 o.loop) ++ le 1 o.mode.code ++ le 1 o.batchSize ++ le 1 (bitAt 0 o.split) ++
    le 1 o.form.code ++ le 1 o.presentation.code ++ le 1 o.source.code ++ le 1 o.action.code ++ le 7 0 ++
    le 8 o.windowStart ++ leTime o.windowEnd

/-- Table 11-9: a position; "before first" is all bytes 0xFF, the reserved byte apart (log 38). -/
def positionBytes : Option Key → List Byte
  | none => leTime none ++ [0xFF#8, 0#8] ++ le 2 0xFFFF ++ le 2 0xFFFF
  | some k => le 8 k.time ++ le 1 k.slot ++ [0#8] ++ le 2 k.seq ++ le 2 k.idx

/-- Table 11-9: the rebuild record; kind 0 when there is none (log 38 for its other bytes). -/
def rebuildBytes : Option RebuildRecord → List Byte
  | none => le 8 0 ++ leTime none ++ leTime none
  | some r => le 1 r.kind.code ++ le 1 r.outcome.code ++ le 2 0 ++ le 4 r.applied ++ le 8 r.target ++ leTime r.start

/-- Table 11-9: a completed batch in READ_CURSOR. -/
def batchSummaryBytes (b : Option Half × Nat × Nat) : List Byte :=
  le 1 (halfCode b.1) ++ le 1 b.2.1 ++ le 2 b.2.2

/-- Table 11-9: the READ_CURSOR response of an open slot; bits 5 to 7 of offset 70, which the table does not name, are
sent as 0 (DESIGN CHOICE, log 50). -/
def CursorReport.bytes (k : Slot) (r : CursorReport) : List Byte :=
  le 1 k.val ++ le 1 r.state.code ++ le 1 r.owner.val ++ le 1 (armedFromCode r.armedFrom) ++ r.options.bytes ++
    positionBytes r.position ++ le 2 r.stepsLeft ++ leTime r.instant ++ leTime (r.overtaken.map Overtake.earliest) ++
    le 2 ((r.overtaken.map Overtake.count).getD 0) ++
    le 1 (bitAt 0 r.overtaken.isSome + bitAt 1 r.chain + bitAt 2 r.trailFrozen + 8 * pendingHoldCode r.pendingHold) ++
    le 1 r.activity.code ++
    le 1 (halfCode r.buffer.half) ++ le 1 r.buffer.writing ++ le 1 r.buffer.completed.length ++
    le 1 r.buffer.outgoing ++ le 2 r.buffer.nextNumber ++ le 1 r.watchesFilled ++ le 1 r.probes ++
    rebuildBytes r.rebuildRecord ++ r.buffer.completed.flatMap batchSummaryBytes

/-- Table 11-10: a pending entry. -/
def PendingEntry.bytes (x : PendingEntry) : List Byte :=
  le 2 x.seq ++ le 2 x.idx ++ le 2 x.point.val ++ le 1 (swStateCode x.state) ++ le 1 (x.cause.getD 0) ++ le 8 x.ticks

/-- Table 11-10: the READ_RECORDER response; bits 4 to 7 of offset 12, which the table does not name, are sent as 0
(DESIGN CHOICE, log 50). -/
def recorderBody (r : RecId) (c : Context) (attention : Bool) (queued : Nat) (inProgress : Bool) : List Byte :=
  let t := c.timing
  le 1 r.val ++ le 1 t.state.code ++ le 1 ((t.baseQuality.map AnchorQuality.code).getD 0) ++
    le 1 t.pendingList.length ++ le 2 (t.openGap.getD 0xFFFF) ++ le 2 (t.lastSeq.getD 0) ++ le 2 c.flags.toNat ++
    le 2 c.mask.toNat ++
    le 1 (bitAt 0 attention + bitAt 1 c.noted + bitAt 2 inProgress + bitAt 3 t.lastSeq.isSome) ++ le 1 queued ++
    le 2 0 ++ leTime t.running ++ leTime t.driftBase ++ leTime t.lastKnown ++ leTime t.lastRecord ++
    leTime t.lastAnchor ++ le 8 t.tickCount ++ t.pendingList.flatMap PendingEntry.bytes

/-- Table 11-8: PROBE_RESULT. -/
def probeResultBody (k : Slot) (tag : Nat) (point : PointId) (instant : Nat) (a : ProbeAnswer) : List Byte :=
  le 1 k.val ++ [0#8] ++ le 2 tag ++ le 2 point.val ++ le 1 (ptStateCode a.state) ++
    le 1 ((a.quality.map qualityCode).getD 0) ++ le 8 instant ++ leTime a.time ++ le 4 (a.commit.getD 0) ++ le 4 0

/-- The bytes of a response body, for the bodies Layouts gives; a response that carries nothing has no body. -/
def RespBody.bytes : RespBody → Option (List Byte)
  | .empty => some []
  | .records rs more phase n => some (recordsBody rs more phase n)
  | .gaps gs more held => some (gapsBody gs more held)
  | .recorder r c attention queued inProgress => some (recorderBody r c attention queued inProgress)
  | .freeSlot k => some (le 1 k.val ++ [0#8])
  | .cursor k r => some (r.bytes k)
  | .batch b => some b.bytes
  | .description _ | .subscriptions _ | .tableFault _ | .sealCounts _ _ _ | .pointsWritten _ | .queuePosition _
  | .outcome _ | .causes _ _ | .slot _ | .snapCount _ | .watches _ | .trail _ _ | .granted | .renewed | .place _
  | .clock _ => none

/-- The bytes of a notice body, for the one Layouts gives. -/
def Notice.bytes : Notice → Option (List Byte)
  | .probeResult k tag point instant a => some (probeResultBody k tag point instant a)
  | .batchReady _ _ _ _ | .cursorState _ _ _ _ | .watchFired _ _ _ _ _ | .segmentDone _ _ _ _ _ _ _
  | .recorderAttention _ _ _ _ | .clock _ _ _ _ _ _ | .clockGranted _ _ _ _ | .clockLost _ _ | .store _ _
  | .resync _ _ => none

/-- R184: the body of the n-th frame where no table lays it out: free bytes of a free length within the limit
(log 40). -/
def freeBody (n : Nat) : List Byte :=
  (List.range (Config.bodyLength n % (Config.maxBody + 1))).map (Config.bodyByte n)

/-- R184, R185: the bytes of the n-th frame the part sends. The tag of a NOTICE or DELIVERY frame is free (log 6), and
so is a body that Layouts does not lay out (log 40). -/
def OutFrame.bytes (n : Nat) : OutFrame → List Byte
  | .response tag r => frameBytes 2 r.code.code tag (r.body.bytes.getD (freeBody n))
  | .notice x => frameBytes 3 x.kind.code (Config.frameTag n) (x.bytes.getD (freeBody n))
  | .delivery k it => frameBytes 4 it.kind (Config.frameTag n) (le 1 k.val ++ [0#8] ++ it.bytes)

end Sys2Proof.Machine
end

