-- ==== Sys2Proof/Machine/Commit.lean ====
section
/-!
DEFINITION. The Merge Engine's shared operations (04_the_merge_engine.md): taking a segment into processing, finishing
it, its commit at the store, and the spill of SEAL_HISTORY (R7, R8).
-/

namespace Sys2Proof.Machine

open Sys2Proof

/-- R5: the STORE notice to every UP port subscribed to STORE. -/
def notifyStore (s : State) : State :=
  s.withLive (s.live.notifyWhere (fun _ p => p.subs.store) (.store s.history.phase s.history.commitCount))

/-! ### Segments (R66, R70 to R72) -/

/-- R66: what the engine holds when it takes a segment of a recorder into processing. -/
def workOf (c : Context) : Work :=
  { saved := c, working := c.timing, staged := [], stagedGaps := [], raised := 0 }

/-- R66: the oldest queued segment, if any, is taken into processing. -/
def State.takeNext (s : State) : State :=
  { s with merge := { s.merge with work := s.merge.queue.head?.map fun g => workOf (s.contexts.get g.recorder) } }

/-- R71: SEGMENT_DONE to the submitting port and to every other port subscribed to SEGMENTS_ALL. -/
def notifySegmentDone (g : QueuedSegment) (o : SegOutcome) (committed corroborations : Nat) (entry : Option Nat)
    (s : State) : State :=
  s.withLive
    (s.live.notifyWhere (fun i p => i == g.port || p.subs.segmentsAll)
      (.segmentDone g.port g.recorder g.seq o committed corroborations entry))

/-- R72: a finished list with one more entry, the oldest removed beyond 8. -/
def pushFinished (x : FinishedSegment) (l : List FinishedSegment) : List FinishedSegment :=
  (l ++ [x]).drop (l.length + 1 - Config.finishedCapacity)

/-- R72: the finished segment is recorded for its submitting port. -/
def recordFinished (g : QueuedSegment) (o : SegOutcome) (s : State) : State :=
  { s with
    merge :=
      { s.merge with
        finished := vput s.merge.finished g.port
          (pushFinished { recorder := g.recorder, seq := g.seq, outcome := o } (s.merge.finished.get g.port)) } }

/-- R70: the failure set of an outcome. -/
def failureSet : SegOutcome → CauseSet
  | .noTimeBase => Cause.segmentFailed.set ||| Cause.noTimeBase.set
  | .duplicate => Cause.segmentFailed.set
  | .malformed => Cause.segmentFailed.set
  | .storeFull => Cause.segmentFailed.set
  | .committed => 0
  | .cancelled => 0
  | .cleared => 0

/-- R68, R69, R71: the segment in progress leaves the queue, is recorded and reported; SEGMENT_DONE stands before the
RECORDER_ATTENTION of the causes merged; the next segment is taken into processing. -/
def finishInProgress (g : QueuedSegment) (o : SegOutcome) (committed corroborations : Nat) (entry : Option Nat)
    (raised : CauseSet) (s : State) : State :=
  let left := { s with merge := { s.merge with queue := s.merge.queue.drop 1 } }
  (mergeCauses g.recorder raised
    (notifySegmentDone g o committed corroborations entry (recordFinished g o left))).takeNext

/-- R69, R70: the segment in progress fails. -/
def failSegment (g : QueuedSegment) (o : SegOutcome) (entry : Option Nat) (s : State) : State :=
  finishInProgress g o 0 0 entry (failureSet o) s

/-! ### The commit (R12, R68) -/

/-- R12, R16 to R20: the store, the Gap List and the recorder's timing as a commit leaves them. -/
def installCommit (r : RecId) (p : Proc) (acc : CommitAcc) (s : State) : State :=
  { s with
    history := acc.history.settle
    gaps := applyGaps s.gaps p.gapChanges
    contexts := vput s.contexts r { s.contexts.get r with timing := p.timing } }

/-- R21, R22: the reach to the Checkpoint Table, the touched records to the cursors. -/
def handOut (reach : Option Nat) (touched : List Touched) (s : State) : State :=
  s.withLive
    (commitReachesAll s.env touched { s.live with checkpoints := s.live.checkpoints.invalidate reach })

/-- R17, R75: the causes a segment's commit merges. -/
def commitRaised (p : Proc) (acc : CommitAcc) : CauseSet :=
  if acc.full = [] then p.raised else p.raised ||| Cause.corrobFull.set

/-- R12: the commit of the segment in progress is taken. -/
def commitSegment (g : QueuedSegment) (p : Proc) (s : State) : State :=
  let acc := takeCandidates s.tables.study.window s.history p.staged
  let installed := installCommit g.recorder p acc s
  let finished := finishInProgress g .committed acc.committed acc.corroborated none (commitRaised p acc) installed
  handOut (commitReach acc.touched (gapStarts installed.gaps p.gapChanges)) acc.touched finished

/-- R14, R15, R68: a handed-over commit is refused or taken. -/
def handOver (g : QueuedSegment) (p : Proc) (s : State) : State :=
  if identityFails s.history.records p.staged then failSegment g .duplicate none s
  else if capacityFails s.history p.staged then failSegment g .storeFull none s
  else commitSegment g p s

/-- The segment in progress with what its processing comes to (R67). -/
def State.verdict (s : State) : Option (QueuedSegment × Verdict) :=
  match s.merge.queue, s.merge.work with
  | g :: _, some w => some (g, processSegment (s.procEnv g.recorder) w g)
  | _, _ => none

/-! ### The spill of SEAL_HISTORY (R7, R8) -/

/-- R8: the recorders whose pending list is not empty, ascending. -/
def spillSlots (s : State) : List RecId :=
  (List.finRange 64).filter fun r => !(s.contexts.get r).timing.pendingList.isEmpty

/-- R8, R56: what the spill of one recorder comes to. -/
def sealSpill (s : State) (r : RecId) : Proc :=
  let v := s.procEnv r
  let tm := (s.contexts.get r).timing
  match spillBase v tm with
  | some base => Proc.spillFrom v base { timing := tm, staged := [], gapChanges := [], opened := 0, raised := 0 }
  | none =>
      Proc.raise
        { timing := { tm with pendingList := [] }, staged := [], gapChanges := [], opened := 0, raised := 0 } .noTimeBase

/-- R8: the causes a recorder's spill merges, with the candidates discarded at the store and those that met a full
source list. -/
def sealRaised (p : Proc) (r : RecId) (rejected : List Candidate) (full : List RecId) : CauseSet :=
  p.raised ||| (if rejected.any fun c => c.source.recorder == r then Cause.segmentFailed.set else 0) |||
    (if full.any (· == r) then Cause.corrobFull.set else 0)

/-- R8: one recorder's context after the spill, with the notice its merge gives. -/
def sealContext (before : State) (rejected : List Candidate) (full : List RecId) (s : State) (r : RecId) : State :=
  let p := sealSpill before r
  mergeCauses r (sealRaised p r rejected full)
    { s with contexts := vput s.contexts r { s.contexts.get r with timing := p.timing } }

/-- R7, R9: the cursors that wait at the head take the seal, in ascending slot order; the cursors that one's END signals
start before the next slot takes the seal (DESIGN CHOICE, log 54). -/
def sealCursors (s : State) : State := s.withLive (allSlots.foldl (fun l k => takeSeal s.env k l) s.live)

/-- R8: the candidates of the whole spill, in staging order. -/
def sealCandidates (s : State) : List Candidate := (spillSlots s).flatMap fun r => (sealSpill s r).staged

/-- R8: the candidates admitted and those discarded. -/
def sealSplit (s : State) : List Candidate × List Candidate :=
  sealAdmit s.history.records (Config.storeCapacity - s.history.commitCount) [] (sealCandidates s)

/-- R7: the number of pending entries discarded. -/
def sealDiscarded (s : State) : Nat :=
  ((spillSlots s).map fun r => (s.contexts.get r).timing.pendingList.length).sum - (sealSplit s).1.length

/-- R8: what the spill's commit makes of the store. -/
def sealCommit (s : State) : CommitAcc := takeCandidates s.tables.study.window s.history (sealSplit s).1

/-- R7 to R9: an accepted SEAL_HISTORY. -/
def sealHistory (s : State) : State :=
  let acc := sealCommit s
  let spilled := (spillSlots s).foldl (sealContext s (sealSplit s).2 acc.full)
    { s with history := { acc.history.settle with phase := .sealed } }
  sealCursors (handOut (commitReach acc.touched []) acc.touched (notifyStore spilled))

/-! ### CLEAR_HISTORY (R11) -/

/-- R11: one queued segment ends CLEARED. -/
def clearSegment (s : State) (g : QueuedSegment) : State := notifySegmentDone g .cleared 0 0 none (recordFinished g .cleared s)

/-- R11: an accepted CLEAR_HISTORY. -/
def clearHistory (s : State) : State :=
  let t := s.merge.queue.foldl clearSegment s
  notifyStore
    { t with
      history := History.reset
      gaps := []
      contexts := Vector.replicate 64 Context.reset
      merge := { t.merge with queue := [], work := none }
      live := { t.live with checkpoints := t.live.checkpoints.clear } }

end Sys2Proof.Machine
end

