-- ==== Sys2Proof/Machine/ClockOps.lean ====
section
/-!
DEFINITION. The Common Clock's shared operations (09_the_common_clock.md): its notices, the arbiter, the lease, the
control requests' judgement, the advance and the passing of wall time.
-/

namespace Sys2Proof.Machine

open Sys2Proof

/-- R164: the lease timer starts with the lease period, in milliseconds. -/
def Clock.startLease (c : Clock) : Clock := { c with leaseLeft := some (c.leasePeriod * 1000) }

/-- R167: a CLOCK notice as the clock stands. -/
def Clock.notice (c : Clock) (cause : ClockCause) : Notice :=
  .clock cause c.instant c.run c.rate c.controller c.waitList.length

/-- R167: a CLOCK notice to every UP port subscribed to CLOCK. -/
def notifyClock (cause : ClockCause) (s : State) : State :=
  s.withLive (s.live.notifyWhere (fun _ p => p.subs.clock) (s.clock.notice cause))

/-- R163: the controlling port leaves: the head of the waiting list is promoted, or the clock becomes free. -/
def Clock.passOn (c : Clock) : Clock :=
  match c.waitList with
  | [] => { c with controller := none, leaseLeft := none }
  | q :: rest => Clock.startLease { c with controller := some q, waitList := rest }

/-- R167: CLOCK_LOST to a port whose lease expired. -/
def notifyLost (lost : Option PortId) (s : State) : State :=
  match lost with
  | none => s
  | some p => s.withLive (s.live.notify p (.clockLost s.clock.instant s.clock.controller))

/-- R167: CLOCK_GRANTED to the port promoted to controlling port. -/
def notifyGranted (s : State) : State :=
  match s.clock.controller with
  | none => s
  | some p => s.withLive (s.live.notify p (.clockGranted s.clock.instant s.clock.run s.clock.rate s.clock.leasePeriod))

/-- R163, R164, R167: the clock passes on, with CLOCK_LOST, CLOCK_GRANTED and CLOCK in that order. -/
def passClock (lost : Option PortId) (s : State) : State :=
  notifyClock .control (notifyGranted (notifyLost lost { s with clock := s.clock.passOn }))

/-- R163: a port leaves the waiting list. -/
def Clock.unlist (c : Clock) (p : PortId) : Clock := { c with waitList := c.waitList.filter fun q => q != p }

/-- R164: a port that goes down ends its role at the clock as by RELEASE_CLOCK. -/
def endClockRole (p : PortId) (s : State) : State :=
  if s.clock.controller = some p then passClock none s else { s with clock := s.clock.unlist p }

/-- The place of a port in the waiting list, from 1. -/
def Clock.place (c : Clock) (p : PortId) : Nat := c.waitList.idxOf p + 1

/-- R168: the role of a port at the clock. -/
def Clock.role (c : Clock) (p : PortId) : ClockRole :=
  if c.controller = some p then .controlling
  else if p ∈ c.waitList then .waiting (c.place p)
  else .none

/-- R165: a control request is refused NOT_CONTROLLER, then BAD_ARGUMENT; an accepted one is answered DONE and
starts the lease timer with the period that stands after it. -/
def controlRequest (p : PortId) (argumentOk : Bool) (rule : State → State) (_body : List Byte) (s : State) :
    Response × State :=
  if s.clock.controller ≠ some p then (Response.plain .notController, s)
  else if argumentOk then
    let t := rule s
    (Response.done, { t with clock := t.clock.startLease })
  else (Response.plain .badArgument, s)

/-- R160: the clock stops: the pacing timer stops, the part of a millisecond counted is discarded. -/
def Clock.halt (c : Clock) : Clock := { c with run := .stopped, pacing := none }

/-- R160: the clock runs, its next millisecond begins. -/
def Clock.start (c : Clock) : Clock := { c with run := .running, pacing := some 1 }

/-- R160: the instant and the run state after an advance. -/
def Clock.advance (c : Clock) : Clock :=
  if Config.maxGrid < c.instant + c.rate then Clock.halt { c with instant := Config.maxGrid }
  else { c with instant := c.instant + c.rate, pacing := some 1 }

/-- R169, R170: the clock's new instant reaches the bound cursors. -/
def followers (s : State) : State := s.withLive (followClockAll s.env s.live)

/-- R173: the clock marks of a change from an instant reach the cursors that wait for them. -/
def clockMarks (before : Nat) (s : State) : State :=
  s.withLive (inFreeOrder (s.live.slotsWhere (marked before s.clock.instant)) (trigger s.env) s.live)

/-- R160: an advance. -/
def clockAdvance (s : State) : State :=
  let before := s.clock.instant
  let t := { s with clock := s.clock.advance }
  let limited := decide (Config.maxGrid < before + s.clock.rate)
  clockMarks before (followers (if limited then notifyClock .limit t else t))

/-- Wall time passes at the lease timer (R164). -/
def Clock.spend (c : Clock) (ms : Nat) : Clock := { c with leaseLeft := c.leaseLeft.map fun t => t - ms }

/-- R164: a lease expiry. -/
def expireLease (s : State) : State := passClock s.clock.controller s

/-- R160, R164: what the part does in a step with no command waiting: a timer at 0 has its event, else a
millisecond of wall time passes (log 3). -/
def idle (s : State) : State :=
  if s.resetLow then s
  else if s.clock.pacing = some 0 then clockAdvance s
  else if s.clock.leaseLeft = some 0 then expireLease s
  else { s with clock := { s.clock.spend 1 with pacing := s.clock.pacing.map fun t => t - 1 } }

end Sys2Proof.Machine
end

