-- ==== Sys2Proof/Machine/Lines.lean ====
section
/-!
DEFINITION. The commands of the lines and the links: power, RESET_N, link training and MARK_IN (10_master_ports.md).
-/

namespace Sys2Proof.Machine

open Sys2Proof

/-- R183: power-on leaves every block at its power-on values. -/
def execPowerOn (s : State) : Host.Outcome State Fault Refusal :=
  .next { State.reset with pending := s.pending }

/-- R183: the operations of a cursor end with the fall of RESET_N, without items or notices. -/
def Cursor.endOps (c : Cursor) : Cursor :=
  { c with op := .none, snap := none, probes := [], buffer := { c.buffer with waiting := none } }

/-- R161, R164: no port has a role at the clock, and the lease timer stands. -/
def Clock.noRoles (c : Clock) : Clock := { c with controller := none, waitList := [], leaseLeft := none }

/-- R183: RESET_N falls: links DOWN with the ports' roles at the clock, operations in flight ended (log 11). -/
def execResetAssert (s : State) : Host.Outcome State Fault Refusal :=
  .next
    { s with
      resetLow := true
      merge := { s.merge with work := none }
      clock := s.clock.noRoles
      live :=
        { s.live with
          cursors := s.live.cursors.map fun c => c.map Cursor.endOps
          ports := Vector.replicate 4 Port.reset } }

/-- R183: the rising edge of RESET_N sets every block to its power-on values. -/
def execResetRelease (s : State) : Host.Outcome State Fault Refusal :=
  .next (if s.resetLow then { State.reset with pending := s.pending } else s)

/-- R174: link training completes: the port starts with the values of Table 10-1. -/
def execLinkUp (p : PortId) (s : State) : Host.Outcome State Fault Refusal :=
  .next
    (if s.resetLow || (s.live.port p).up then s
     else s.withLive (s.live.setPort p { Port.reset with up := true }))

/-- R99, R105: every cursor a port owns becomes FREE. -/
def closeOwned (p : PortId) (l : Live) : Live :=
  { l with cursors := l.cursors.map fun c => if c.elim false (fun x => x.owner == p) then none else c }

/-- R180: the link loses training. -/
def execLinkDown (p : PortId) (s : State) : Host.Outcome State Fault Refusal :=
  .next
    (if s.resetLow || !(s.live.port p).up then s
     else endClockRole p (s.withLive (closeOwned p (s.live.setPort p Port.reset))))

/-- R182: a rising edge of MARK_IN is a trigger event of source LINE. -/
def execMarkInEdge (s : State) : Host.Outcome State Fault Refusal :=
  .next (if s.resetLow then s else s.withLive (triggerEvent s.env .line s.live))

end Sys2Proof.Machine
end

