-- ==== Sys2Proof/Machine/Ports.lean ====
section
/-!
DEFINITION. The commands of the Port Interface: frames in and out, DESCRIBE and SUBSCRIBE (10_master_ports.md).
-/

namespace Sys2Proof.Machine

open Sys2Proof

/-- R175: a frame takes the end place of the request queue; link flow holds a fifth. -/
def execFrameReceive (p : PortId) (bytes : List Byte) (s : State) : Host.Outcome State Fault Refusal :=
  let pt := s.live.port p
  .next
    (if s.resetLow || !pt.up || decide (Config.requestCapacity ≤ pt.requests.length) then s
     else s.withLive (s.live.setPort p { pt with requests := pt.requests ++ [receiveFrame bytes] }))

/-- The port can take the frame at the front of its queue (R176). -/
def State.mayTake (s : State) (p : PortId) : Bool :=
  !s.resetLow && (s.live.port p).up && (s.live.port p).response.isNone

/-- R175: a faulty frame at the front is answered with tag 0 and FRAME_ERROR. -/
def execFrameError (p : PortId) (s : State) : Host.Outcome State Fault Refusal :=
  .next
    (match (s.live.port p).requests with
     | .faulty :: _ =>
        if s.mayTake p then
          (s.popRequest p).respond p 0 (s.live.port p).notices.length (Response.plain .frameError)
        else s
     | _ => s)

/-- R185: the codes of Table 10-2 run from 1 to 42. -/
def knownCode (code : Nat) : Bool := decide (1 ≤ code) && decide (code ≤ 42)

/-- R176: a sound frame whose code names no request is answered UNKNOWN_REQUEST. -/
def execUnknownRequest (p : PortId) (s : State) : Host.Outcome State Fault Refusal :=
  .next
    (match (s.live.port p).requests with
     | .sound code tag _ :: _ =>
        if s.mayTake p && !knownCode code then
          (s.popRequest p).respond p tag (s.live.port p).notices.length (Response.plain .unknownRequest)
        else s
     | _ => s)

/-- R177: the response holder is sent and empties. -/
def sendResponse (p : PortId) (h : HeldResponse) (s : State) : State :=
  let pt := s.live.port p
  let f : OutFrame := .response h.tag h.response
  s.withLive
    { s.live.setPort p { pt with response := none, sent := some { frame := f, bytes := f.bytes s.live.draws } } with
      draws := s.live.draws + 1 }

/-- R177, R178: the oldest notice is sent; a response formed after it comes one place nearer. -/
def sendNotice (p : PortId) (n : Notice) (s : State) : State :=
  let pt := (s.live.port p).popNotice
  let f : OutFrame := .notice n
  s.withLive
    { s.live.setPort p
        { pt with
          response := pt.response.map fun h => { h with ahead := h.ahead - 1 }
          sent := some { frame := f, bytes := f.bytes s.live.draws } } with
      draws := s.live.draws + 1 }

/-- R177: the slots in the order of the delivery turn. -/
def turnOrder (turn : Option Slot) : List Slot :=
  match turn with
  | none => allSlots
  | some t => (allSlots.filter fun k => decide (t.val < k.val)) ++ allSlots.filter fun k => decide (k.val ≤ t.val)

/-- R177: the cursor of a port whose PUSH queue is served next. -/
def nextPush (p : PortId) (l : Live) : Option Slot :=
  (turnOrder (l.port p).turn).find? fun k =>
    (l.cursor k).elim false fun c => c.owner == p && !c.buffer.outgoing.isEmpty

/-- R137, R177: the oldest item of a PUSH queue is sent, and a waiting item is written. -/
def sendItem (p : PortId) (k : Slot) (c : Cursor) (it : Item) (rest : List Item) (s : State) : State :=
  let pt := s.live.port p
  let f : OutFrame := .delivery k it
  let popped := s.live.setCursor k { c with buffer := { c.buffer with outgoing := rest } }
  let sent :=
    popped.setPort p
      { pt with turn := some k, sent := some { frame := f, bytes := f.bytes s.live.draws } }
  s.withLive (resumeWaiting s.env k { sent with draws := s.live.draws + 1 })

/-- R177: with neither response nor notice waiting, the port sends one DELIVERY frame, if any. -/
def sendDelivery (p : PortId) (s : State) : State :=
  match nextPush p s.live with
  | none => s
  | some k =>
      match s.live.cursor k with
      | none => s
      | some c =>
          match c.buffer.outgoing with
          | [] => s
          | it :: rest => sendItem p k c it rest s

/-- R177: the port chooses what to send. -/
def transmit (p : PortId) (s : State) : State :=
  match (s.live.port p).response, (s.live.port p).notices with
  | some h, n :: _ => if h.ahead = 0 then sendResponse p h s else sendNotice p n s
  | some h, [] => sendResponse p h s
  | none, n :: _ => sendNotice p n s
  | none, [] => sendDelivery p s

/-- R177: the link can carry a frame. -/
def execFrameTransmit (p : PortId) (s : State) : Host.Outcome State Fault Refusal :=
  .next (if s.resetLow || !(s.live.port p).up then s else transmit p s)

/-- R181: what DESCRIBE reports. -/
def State.describe (s : State) (p : PortId) : Description :=
  { family := Config.familyCode, revision := Config.revision, ports := 4, points := 4096, recorders := 64
    store := Config.storeCapacity, cursors := 8, checkpoints := 64, gapList := Config.gapCapacity
    epoch := s.tables.study.epoch, eventZero := s.tables.study.eventZero, phase := s.history.phase
    commitCount := s.history.commitCount, port := p }

/-- R181. -/
def execDescribe (p : PortId) (s : State) : Host.Outcome State Fault Refusal :=
  .next (takeRequest p 1 (fun _ t => ({ code := .done, body := .description (t.describe p) }, t)) s)

/-- R179: the rule of SUBSCRIBE. -/
def subscribe (p : PortId) (set : Byte) (_body : List Byte) (s : State) : Response × State :=
  match subsOf set with
  | none => (Response.plain .badArgument, s)
  | some x =>
      ({ code := .done, body := .subscriptions x }, s.withLive (s.live.setPort p { s.live.port p with subs := x }))

/-- R179. -/
def execSubscribe (p : PortId) (set : Byte) (s : State) : Host.Outcome State Fault Refusal :=
  .next (takeRequest p 2 (subscribe p set) s)

end Sys2Proof.Machine
end

