-- ==== Sys2Proof/Machine/Phases.lean ====
section
/-!
DEFINITION. The History Store's requests: the three phase requests, READ_RECORDS and READ_GAPS
(01_the_switching_history.md, 02 section 2.5, R63).
-/

namespace Sys2Proof.Machine

open Sys2Proof

/-! ### Validation (R37, R38) -/

/-- The last channel a block covers. -/
def MapBlock.lastChannel (b : MapBlock) : Nat := b.first + b.count - 1

/-- The last point a block would reach. -/
def MapBlock.lastPoint (b : MapBlock) : Nat := b.base + b.count - 1

/-- Table 2-5 check 5: two blocks cover a common channel. -/
def MapBlock.overlaps (a b : MapBlock) : Bool := decide (a.first ≤ b.lastChannel) && decide (b.first ≤ a.lastChannel)

/-- Table 2-5 check 5: the lowest-numbered present block below `i` that overlaps `b`. -/
def lowerOverlap (blocks : Vector (Option MapBlock) 8) (i : BlockId) (b : MapBlock) : Option BlockId :=
  (List.finRange 8).find? fun j => decide (j.val < i.val) && (blocks.get j).elim false fun x => x.overlaps b

/-- Table 2-5 checks 3 to 5 on one present block. -/
def blockFault (r : RecId) (blocks : Vector (Option MapBlock) 8) (i : BlockId) (b : MapBlock) : Option FaultRecord :=
  if 65535 < b.lastChannel then
    some { kind := .blockChannelRange, recorder := some r, block := some i, otherBlock := none, point := none }
  else if 4095 < b.lastPoint then
    some { kind := .blockPointRange, recorder := some r, block := some i, otherBlock := none, point := some b.lastPoint }
  else
    (lowerOverlap blocks i b).map fun j =>
      { kind := .blockOverlap, recorder := some r, block := some i, otherBlock := some j, point := none }

/-- R37: the first fault among an enabled recorder's present blocks. -/
def recorderFault (r : RecId) (x : RecorderEntry) : Option FaultRecord :=
  if x.enabled then (List.finRange 8).findSome? fun i => (x.blocks.get i).bind (blockFault r x.blocks i) else none

/-- A fault that names nothing. -/
def bareFault (k : FaultKind) : FaultRecord :=
  { kind := k, recorder := none, block := none, otherBlock := none, point := none }

/-- R37: the first check of Table 2-5 that fails. -/
def tableFault (t : Tables) : Option FaultRecord :=
  if (t.recorders.toList.any RecorderEntry.enabled) = false then some (bareFault .noRecorder)
  else if (t.points.toList.any PointEntry.enabled) = false then some (bareFault .noPoint)
  else (List.finRange 64).findSome? fun r => recorderFault r (t.recorders.get r)

/-- R6: the rule of BEGIN_COLLECTION. -/
def beginCollection (_body : List Byte) (s : State) : Response × State :=
  if s.history.phase ≠ .setup then (Response.plain .wrongPhase, s)
  else
    match tableFault s.tables with
    | some f => ({ code := .tableFault, body := .tableFault f }, s)
    | none => (Response.done, notifyStore { s with history := { s.history with phase := .collecting } })

/-- R6. -/
def execBeginCollection (p : PortId) (s : State) : Host.Outcome State Fault Refusal :=
  .next (takeRequest p 3 beginCollection s)

/-- R7: the rule of SEAL_HISTORY. -/
def sealRequest (_body : List Byte) (s : State) : Response × State :=
  if s.history.phase ≠ .collecting then (Response.plain .wrongPhase, s)
  else if s.merge.queue ≠ [] then (Response.plain .ingestActive, s)
  else
    ({ code := .done
       body := .sealCounts (sealCommit s).committed (sealCommit s).corroborated (sealDiscarded s) },
     sealHistory s)

/-- R7. -/
def execSealHistory (p : PortId) (s : State) : Host.Outcome State Fault Refusal :=
  .next (takeRequest p 4 sealRequest s)

/-- R10, R11: the rule of CLEAR_HISTORY. -/
def clearRequest (_body : List Byte) (s : State) : Response × State :=
  if allSlots.any fun k => (s.live.cursor k).isSome then (Response.plain .cursorsOpen, s)
  else (Response.done, clearHistory s)

/-- R10, R11. -/
def execClearHistory (p : PortId) (s : State) : Host.Outcome State Fault Refusal :=
  .next (takeRequest p 5 clearRequest s)

/-! ### READ_RECORDS (R23) -/

/-- R23: the record lies at or after a start. -/
def startAdmits (st : ReadStart) (r : Record) : Bool :=
  match st with
  | .instant t => decide (t ≤ r.time)
  | .key k => keyBefore k r.key

/-- The time of a start. -/
def startTime : ReadStart → Nat
  | .instant t => t
  | .key k => k.time

/-- R23: the range checks of READ_RECORDS; a start key's time is compared with the end instant alone (log 32). -/
def readRecordsOk (st : ReadStart) (last : Option Nat) (count : Nat) : Bool :=
  decide (1 ≤ count) && decide (count ≤ 32) &&
    (match st with
     | .instant t => decide (t ≤ Config.maxGrid)
     | .key _ => true) &&
    last.elim true fun e => decide (e ≤ Config.maxGrid) && decide (startTime st ≤ e)

/-- R23: the records selected, in key order. -/
def selectRecords (st : ReadStart) (last : Option Nat) (rs : List Record) : List Record :=
  rs.filter fun r => startAdmits st r && last.elim true fun e => decide (r.time ≤ e)

/-- R23, R30: one record as READ_RECORDS presents it. -/
def presentRecord (zeroRelative : Bool) (eventZero : Nat) (r : Record) : ReadRecord :=
  { record := r
    presentation := if zeroRelative then .zeroRelative else .absolute
    time := if zeroRelative then (r.time : Int) - eventZero else r.time
    corroborated := r.corroborated }

/-- R23: the rule of READ_RECORDS. -/
def readRecords (st : ReadStart) (last : Option Nat) (count : Nat) (zeroRelative : Bool) (_body : List Byte)
    (s : State) : Response × State :=
  if readRecordsOk st last count then
    let sel := selectRecords st last s.history.records
    ({ code := .done
       body := .records ((sel.take count).map (presentRecord zeroRelative s.tables.study.eventZero))
         (decide (count < sel.length)) s.history.phase s.history.commitCount },
     s)
  else (Response.plain .badArgument, s)

/-- R23. -/
def execReadRecords (p : PortId) (st : ReadStart) (last : Option Nat) (count : Nat) (zeroRelative : Bool) (s : State) :
    Host.Outcome State Fault Refusal :=
  .next (takeRequest p 6 (readRecords st last count zeroRelative) s)

/-! ### READ_GAPS (R63) -/

/-- R63: the range checks of READ_GAPS. -/
def readGapsOk (start count : Nat) (recorder : Option Nat) : Bool :=
  decide (start ≤ 511) && decide (1 ≤ count) && decide (count ≤ 32) && recorder.elim true fun r => decide (r ≤ 63)

/-- R63: the entries selected, with their indices, ascending. -/
def selectGaps (start : Nat) (recorder : Option Nat) (gs : List Gap) : List (Nat × Gap) :=
  (gs.zipIdx.map fun g => (g.2, g.1)).filter fun x =>
    decide (start ≤ x.1) && recorder.elim true fun r => x.2.recorder.val == r

/-- R63: the rule of READ_GAPS. -/
def readGaps (start count : Nat) (recorder : Option Nat) (_body : List Byte) (s : State) : Response × State :=
  if readGapsOk start count recorder then
    let sel := selectGaps start recorder s.gaps
    ({ code := .done, body := .gaps (sel.take count) (decide (count < sel.length)) s.gaps.length }, s)
  else (Response.plain .badArgument, s)

/-- R63. -/
def execReadGaps (p : PortId) (start count : Nat) (recorder : Option Nat) (s : State) :
    Host.Outcome State Fault Refusal :=
  .next (takeRequest p 7 (readGaps start count recorder) s)

end Sys2Proof.Machine
end

