-- ==== Sys2Proof/Machine/TableWrites.lean ====
section
/-!
DEFINITION. The five requests that write the Configuration Tables (02_points_recorders_and_channel_maps.md section 2.4).
-/

namespace Sys2Proof.Machine

open Sys2Proof

/-- R31: a phase-gated write: outside SETUP it is refused WRONG_PHASE before its arguments are examined; arguments that
the write cannot take are BAD_ARGUMENT; else the tables change and the response is the write's. -/
def tableWrite (write : Tables → Option (RespBody × Tables)) (_body : List Byte) (s : State) : Response × State :=
  if s.history.phase ≠ .setup then (Response.plain .wrongPhase, s)
  else
    match write s.tables with
    | none => (Response.plain .badArgument, s)
    | some (b, t) => ({ code := .done, body := b }, { s with tables := t })

/-- R32: a run of entries in its place. -/
def writeRun (first : Nat) (es : List PointEntry) (points : Vector PointEntry 4096) : Vector PointEntry 4096 :=
  Vector.ofFn fun i => if first ≤ i.val then (es[i.val - first]?).getD (points.get i) else points.get i

/-- R32: the write of SET_POINT. -/
def writePoints (first : Nat) (settings : List PointSetting) (t : Tables) : Option (RespBody × Tables) :=
  (pointRunOf first settings).map fun es =>
    (.pointsWritten es.length, { t with points := writeRun first es t.points })

/-- R32. -/
def execSetPoint (p : PortId) (first : Nat) (settings : List PointSetting) (s : State) :
    Host.Outcome State Fault Refusal :=
  .next (takeRequest p 8 (tableWrite (writePoints first settings)) s)

/-- R33: the write of SET_RECORDER; the blocks are kept. -/
def writeRecorder (recorder : Nat) (enabled : Bool) (unit : Nat) (offset drift : Int) (fallback : Option Nat)
    (t : Tables) : Option (RespBody × Tables) :=
  match asIndex 64 recorder with
  | none => none
  | some r =>
      if recorderArgsOk unit offset drift fallback then
        some
          (.empty,
            { t with
              recorders := vput t.recorders r
                { t.recorders.get r with
                  enabled := enabled, tickUnit := unit, offset := offset, drift := drift, fallback := fallback } })
      else none

/-- R33. -/
def execSetRecorder (p : PortId) (recorder : Nat) (enabled : Bool) (unit : Nat) (offset drift : Int)
    (fallback : Option Nat) (s : State) : Host.Outcome State Fault Refusal :=
  .next (takeRequest p 9 (tableWrite (writeRecorder recorder enabled unit offset drift fallback)) s)

/-- R34: the block a SET_MAP_BLOCK leaves: absent, or the three fields when each is in its range. -/
def newBlock : Option BlockArgs → Option (Option MapBlock)
  | none => some none
  | some b => (blockOf b).map some

/-- R34: the write of SET_MAP_BLOCK. -/
def writeBlock (recorder block : Nat) (fields : Option BlockArgs) (t : Tables) : Option (RespBody × Tables) :=
  match asIndex 64 recorder, asIndex 8 block, newBlock fields with
  | some r, some i, some b =>
      some
        (.empty,
          { t with
            recorders := vput t.recorders r
              { t.recorders.get r with blocks := vput (t.recorders.get r).blocks i b } })
  | _, _, _ => none

/-- R34. -/
def execSetMapBlock (p : PortId) (recorder block : Nat) (fields : Option BlockArgs) (s : State) :
    Host.Outcome State Fault Refusal :=
  .next (takeRequest p 10 (tableWrite (writeBlock recorder block fields)) s)

/-- R35: the write of SET_STUDY. -/
def writeStudy (epoch : Option (BitVec 64)) (window threshold interval : Option Nat) (t : Tables) :
    Option (RespBody × Tables) :=
  if studyArgsOk epoch window threshold interval then
    some
      (.empty,
        { t with
          study :=
            { t.study with
              epoch := epoch.getD t.study.epoch
              window := window.getD t.study.window
              stepThreshold := threshold.getD t.study.stepThreshold
              interval := interval.getD t.study.interval } })
  else none

/-- R35. -/
def execSetStudy (p : PortId) (epoch : Option (BitVec 64)) (window threshold interval : Option Nat) (s : State) :
    Host.Outcome State Fault Refusal :=
  .next (takeRequest p 11 (tableWrite (writeStudy epoch window threshold interval)) s)

/-- R36: the rule of SET_EVENT_ZERO, taken in every phase. -/
def setEventZero (t : Nat) (_body : List Byte) (s : State) : Response × State :=
  if t ≤ Config.maxGrid then
    (Response.done, { s with tables := { s.tables with study := { s.tables.study with eventZero := t } } })
  else (Response.plain .badArgument, s)

/-- R36. -/
def execSetEventZero (p : PortId) (t : Nat) (s : State) : Host.Outcome State Fault Refusal :=
  .next (takeRequest p 12 (setEventZero t) s)

end Sys2Proof.Machine
end

