-- ==== Sys2Proof/Machine/Merge.lean ====
section
/-!
DEFINITION. The commands of the Merge Engine and the Recorder Contexts (04_the_merge_engine.md).
-/

namespace Sys2Proof.Machine

open Sys2Proof

/-- R65 check 2: the slot exists and its Recorder Table entry is enabled. -/
def enabledRecorder (t : Tables) (r : Nat) : Option RecId :=
  match asIndex 64 r with
  | none => none
  | some x => if (t.recorders.get x).enabled then some x else none

/-- R64, R65: a segment joins the queue; into an empty queue it is taken into processing at once. -/
def joinQueue (g : QueuedSegment) (s : State) : State :=
  let t := { s with merge := { s.merge with queue := s.merge.queue ++ [g] } }
  if s.merge.queue = [] then t.takeNext else t

/-- R65: the rule of LOAD_SEGMENT. -/
def loadSegment (p : PortId) (body : List Byte) (s : State) : Response × State :=
  if s.history.phase ≠ .collecting then (Response.plain .wrongPhase, s)
  else
    match segmentHeaderOf body with
    | none => (Response.plain .badArgument, s)
    | some (r, seq) =>
        match enabledRecorder s.tables r with
        | none => (Response.plain .badArgument, s)
        | some x =>
            if Config.queueCapacity ≤ s.merge.queue.length then (Response.plain .queueFull, s)
            else
              ({ code := .accepted, body := .queuePosition s.merge.queue.length },
               joinQueue { port := p, recorder := x, seq := seq, body := body } s)

/-- R65. -/
def execLoadSegment (p : PortId) (s : State) : Host.Outcome State Fault Refusal :=
  .next (takeRequest p 13 (loadSegment p) s)

/-- R73: the queue entry carries the recorder slot and sequence. -/
def QueuedSegment.named (r : RecId) (seq : Nat) (g : QueuedSegment) : Bool := g.recorder == r && g.seq == seq

/-- R73 step 1: the queue position of the oldest entry the port submitted under that name. -/
def cancelIndex (p : PortId) (r : RecId) (seq : Nat) (q : List QueuedSegment) : Option Nat :=
  q.findIdx? fun g => g.named r seq && g.port == p

/-- R73 step 1: the entry at a queue position is cancelled: the one in progress is abandoned and the next taken into
processing, a waiting one is removed. -/
def cancelAt (i : Nat) (g : QueuedSegment) (s : State) : State :=
  let left := { s with merge := { s.merge with queue := s.merge.queue.eraseIdx i } }
  let done := notifySegmentDone g .cancelled 0 0 none (recordFinished g .cancelled left)
  if i = 0 then done.takeNext else done

/-- R73 step 3: the outcome of the most recent finished segment under that name. -/
def finishedOutcome (r : RecId) (seq : Nat) (l : List FinishedSegment) : Option SegOutcome :=
  (l.reverse.find? fun x => x.recorder == r && x.seq == seq).map FinishedSegment.outcome

/-- R73 steps 2 to 4: the refusals of CANCEL_SEGMENT. -/
def cancelRefusal (p : PortId) (r : RecId) (seq : Nat) (s : State) : Response :=
  if s.merge.queue.any (QueuedSegment.named r seq) then Response.plain .notOwner
  else
    match finishedOutcome r seq (s.merge.finished.get p) with
    | some o => { code := .tooLate, body := .outcome o }
    | none => Response.plain .notFound

/-- R73: the rule of CANCEL_SEGMENT. -/
def cancelSegment (p : PortId) (recorder seq : Nat) (_body : List Byte) (s : State) : Response × State :=
  match asIndex 64 recorder with
  | none => (Response.plain .badArgument, s)
  | some r =>
      match cancelIndex p r seq s.merge.queue with
      | none => (cancelRefusal p r seq s, s)
      | some i =>
          match s.merge.queue[i]? with
          | none => (cancelRefusal p r seq s, s)
          | some g => (Response.done, cancelAt i g s)

/-- R73. -/
def execCancelSegment (p : PortId) (recorder seq : Nat) (s : State) : Host.Outcome State Fault Refusal :=
  .next (takeRequest p 14 (cancelSegment p recorder seq) s)

/-- R81: the rule of READ_RECORDER. -/
def readRecorder (recorder : Nat) (_body : List Byte) (s : State) : Response × State :=
  match asIndex 64 recorder with
  | none => (Response.plain .badArgument, s)
  | some r =>
      let c := s.contexts.get r
      ({ code := .done
         body := .recorder r c c.attention (s.merge.queue.filter fun g => g.recorder == r).length
           (s.merge.work.isSome && s.merge.queue.head?.elim false fun g => g.recorder == r) },
       s)

/-- R81. -/
def execReadRecorder (p : PortId) (recorder : Nat) (s : State) : Host.Outcome State Fault Refusal :=
  .next (takeRequest p 15 (readRecorder recorder) s)

/-- R78: a recorder takes a mask, with the notice of a rising edge of attention. -/
def setMask (r : RecId) (mask : CauseSet) (s : State) : State :=
  let before := s.contexts.get r
  let after := { before with mask := mask }
  { s with contexts := vput s.contexts r after, live := notifyAttention r before after s.live }

/-- R78: the rule of SET_ATTENTION_MASK. -/
def setAttentionMask (body : List Byte) (s : State) : Response × State :=
  match maskArgsOf body with
  | none => (Response.plain .badArgument, s)
  | some (r, mask) => (Response.done, setMask r mask s)

/-- R78. -/
def execSetAttentionMask (p : PortId) (s : State) : Host.Outcome State Fault Refusal :=
  .next (takeRequest p 16 setAttentionMask s)

/-- R79: the context after a clear. -/
def Context.clearCauses (set : CauseSet) (clearNoted : Bool) (c : Context) : Context :=
  { c with flags := c.flags &&& ~~~set, noted := c.noted && !clearNoted }

/-- R79: the rule of CLEAR_CAUSES. -/
def clearCauses (body : List Byte) (s : State) : Response × State :=
  match clearArgsOf body with
  | none => (Response.plain .badArgument, s)
  | some (r, set, clearNoted) =>
      let after := (s.contexts.get r).clearCauses set clearNoted
      ({ code := .done, body := .causes after.flags after.noted }, { s with contexts := vput s.contexts r after })

/-- R79. -/
def execClearCauses (p : PortId) (s : State) : Host.Outcome State Fault Refusal :=
  .next (takeRequest p 17 clearCauses s)

/-- R68: the store takes the commit of the segment in progress, when its processing has come to one. -/
def execSegmentCommit (s : State) : Host.Outcome State Fault Refusal :=
  .next
    (if s.resetLow then s
     else
       match s.verdict with
       | some (g, .commit p) => handOver g p s
       | _ => s)

/-- R69: the failure of the segment in progress is taken, when its processing fails. -/
def execSegmentFailure (s : State) : Host.Outcome State Fault Refusal :=
  .next
    (if s.resetLow then s
     else
       match s.verdict with
       | some (g, .failed o entry) => failSegment g o entry s
       | _ => s)

end Sys2Proof.Machine
end

