-- ==== Sys2Proof/Machine/Cursors.lean ====
section
/-!
DEFINITION. The requests of a replay cursor: opening, setting, closing and reading (06_replay_cursors.md 6.3), seeking,
playing, stepping, holding, stopping (6.4, 6.5), arming (6.8), snapshots (6.10), and FETCH (07_delivery.md R136).
-/

namespace Sys2Proof.Machine

open Sys2Proof

/-! ### Opening, closing and reading -/

/-- Table 6-2, defaults. -/
def Options.opened : Options :=
  { pacing := .freeRun, windowStart := 0, windowEnd := none, loop := false, mode := .notice, batchSize := 8
    split := false, form := .full, presentation := .absolute, source := .request, action := .seekPlay }

/-- Table 6-1 at OPEN_CURSOR. -/
def Cursor.opened (owner : PortId) : Cursor :=
  { owner := owner, state := .idle, options := Options.opened, image := none, position := none, instant := none
    stepBase := none, overtaken := none, chain := false, armedFrom := none, stepsLeft := 0, underStep := false
    pendingHold := none, lagging := false, atHead := false, waiting := false, parked := false, redo := false
    applied := false, sealEnd := false, op := .none, snap := none, buffer := Buffer.opened
    watches := Vector.replicate 8 none, probes := [], trail := [], trailFrozen := false, rebuildRecord := none }

/-- R103: the lowest-numbered FREE slot. -/
def lowestFree (l : Live) : Option Slot := allSlots.find? fun k => (l.cursor k).isNone

/-- R103: the rule of OPEN_CURSOR. -/
def openCursor (p : PortId) (_body : List Byte) (s : State) : Response × State :=
  if s.history.phase = .setup then (Response.plain .wrongPhase, s)
  else
    match lowestFree s.live with
    | none => (Response.plain .noCursor, s)
    | some k => ({ code := .done, body := .slot k }, s.withLive (s.live.setCursor k (Cursor.opened p)))

/-- R103. -/
def execOpenCursor (p : PortId) (s : State) : Host.Outcome State Fault Refusal :=
  .next (takeRequest p 18 (openCursor p) s)

/-- R106: the instant READ_CURSOR shows: the standing instant while a rebuild is in flight. -/
def Cursor.shownInstant (c : Cursor) : Option Nat :=
  match c.op with
  | .rebuild r => r.standing
  | _ => c.instant

/-- R106: what READ_CURSOR carries for an open slot. -/
def Cursor.report (c : Cursor) : CursorReport :=
  { owner := c.owner, state := c.state, armedFrom := c.armedFrom, options := c.options, position := c.position
    stepsLeft := c.stepsLeft, instant := c.shownInstant, overtaken := c.overtaken, chain := c.chain
    trailFrozen := c.trailFrozen, pendingHold := c.pendingHold, activity := c.activity
    buffer := c.buffer.summary, watchesFilled := (c.watches.toList.filter Option.isSome).length
    probes := c.probes.length, rebuildRecord := c.rebuildRecord }

/-- R106: the rule of READ_CURSOR; a body too short for the slot is BAD_ARGUMENT (R176). -/
def readCursor (slot : Nat) (body : List Byte) (s : State) : Response × State :=
  if body.isEmpty then (Response.plain .badArgument, s)
  else
    match asIndex 8 slot with
    | none => (Response.plain .badCursor, s)
    | some k =>
        match s.live.cursor k with
        | none => ({ code := .done, body := .freeSlot k }, s)
        | some c => ({ code := .done, body := .cursor k c.report }, s)

/-- R106. -/
def execReadCursor (p : PortId) (slot : Nat) (s : State) : Host.Outcome State Fault Refusal :=
  .next (takeRequest p 19 (readCursor slot) s)

/-- R105: the rule of CLOSE_CURSOR. -/
def closeCursor (k : Slot) (_c : Cursor) (s : State) : Response × State :=
  (Response.done, s.withLive (s.live.freeCursor k))

/-- R105. -/
def execCloseCursor (p : PortId) (slot : Nat) (s : State) : Host.Outcome State Fault Refusal :=
  .next (takeRequest p 28 (cursorRequest p slot closeCursor) s)

/-! ### SET_CURSOR (R104, R139) -/

/-- R104, R123: a controlling request that SEEKING, RUNNING, ARMED and a snapshot in flight refuse. -/
def Cursor.busy (c : Cursor) : Bool :=
  c.snapshotting ||
    match c.state with
    | .seeking => true
    | .running => true
    | .armed => true
    | _ => false

/-- R139: a delivery setting differs. -/
def deliveryChanged (a b : Options) : Bool :=
  a.mode != b.mode || a.batchSize != b.batchSize || a.split != b.split || a.form != b.form ||
    a.presentation != b.presentation

/-- R104, R139: the cursor with new options. -/
def Cursor.setOptions (o : Options) (c : Cursor) : Cursor :=
  { c with options := o, buffer := if deliveryChanged c.options o then c.buffer.emptied else c.buffer }

/-- R104, R134: in ENDED an accepted SET_CURSOR makes the cursor HELD, and the change flushes. -/
def endedToHeld (k : Slot) (l : Live) : Live :=
  l.withCursor k fun c => if c.state = .ended then flush k (l.setCursor k { c with state := .held }) else l

/-- R104, R187: the rule of SET_CURSOR. -/
def setCursor (payload body : List Byte) (k : Slot) (c : Cursor) (s : State) : Response × State :=
  if c.busy then (Response.plain .cursorBusy, s)
  else if !setCursorCarries k payload body then (Response.plain .badArgument, s)
  else
    match optionsOf k c.options payload with
    | none => (Response.plain .badArgument, s)
    | some o => (Response.done, s.withLive (endedToHeld k (s.live.setCursor k (c.setOptions o))))

/-- R104. -/
def execSetCursor (p : PortId) (slot : Nat) (payload : List Byte) (s : State) : Host.Outcome State Fault Refusal :=
  .next (takeRequest p 20 (fun body => cursorRequest p slot (setCursor payload body) body) s)

/-! ### SEEK (R107) -/

/-- R107: the states in which SEEK is taken. -/
def Cursor.seekable (c : Cursor) : Bool :=
  !c.snapshotting &&
    match c.state with
    | .idle => true
    | .held => true
    | .ended => true
    | .unsettled => true
    | .seeking => true
    | .running => rebuilding c
    | .armed => false

/-- R107: the rule of SEEK. -/
def seek (target : Nat) (chain : Bool) (k : Slot) (c : Cursor) (s : State) : Response × State :=
  if !c.seekable then (Response.plain .cursorBusy, s)
  else if Config.maxGrid < target then (Response.plain .badArgument, s)
  else
    (Response.plain .accepted,
      s.withLive
        (startSeek s.env k target chain (s.live.setCursor k { c with pendingHold := none, trailFrozen := false })))

/-- R107. -/
def execSeek (p : PortId) (slot target : Nat) (chain : Bool) (s : State) : Host.Outcome State Fault Refusal :=
  .next (takeRequest p 21 (cursorRequest p slot (seek target chain)) s)

/-! ### PLAY and STEP (R109, R110) -/

/-- R109: what the cursor's state answers to PLAY; none where it is taken. A restart of a RUNNING BOUND cursor is
BAD_ARGUMENT also while its rebase is in flight (log 42). -/
def Cursor.playRefusal (restart : Bool) (c : Cursor) : Option RespCode :=
  if c.snapshotting then some .cursorBusy
  else
    match c.state with
    | .idle => some .notSettled
    | .unsettled => some .notSettled
    | .ended => some .atEnd
    | .seeking => some .cursorBusy
    | .armed => some .cursorBusy
    | .running =>
        if !restart then some .cursorBusy
        else if c.bound then some .badArgument
        else if rebuilding c then some .cursorBusy
        else none
    | .held => none

/-- R109: an accepted PLAY. A restart drops an END, WRAP or HEAD that waits (log 43). -/
def playAccepted (e : Env) (restart : Bool) (k : Slot) (c : Cursor) (l : Live) : Live :=
  let unfrozen := { c with trailFrozen := false }
  if c.state = .running ∨ (restart ∧ !c.bound) then
    startSeek e k c.options.windowStart true (l.setCursor k unfrozen)
  else beginPlay e k false 0 (l.setCursor k unfrozen)

/-- R109: the rule of PLAY. -/
def play (restart : Bool) (k : Slot) (c : Cursor) (s : State) : Response × State :=
  match c.playRefusal restart with
  | some code => (Response.plain code, s)
  | none => (Response.plain .accepted, s.withLive (playAccepted s.env restart k c s.live))

/-- R109. -/
def execPlay (p : PortId) (slot : Nat) (restart : Bool) (s : State) : Host.Outcome State Fault Refusal :=
  .next (takeRequest p 22 (cursorRequest p slot (play restart)) s)

/-- R110, R118: what a state other than HELD answers to STEP, and other than HELD and IDLE to ARM. -/
def Cursor.settledRefusal (c : Cursor) : Option RespCode :=
  if c.snapshotting then some .cursorBusy
  else
    match c.state with
    | .idle => some .notSettled
    | .unsettled => some .notSettled
    | .ended => some .atEnd
    | .seeking => some .cursorBusy
    | .running => some .cursorBusy
    | .armed => some .cursorBusy
    | .held => none

/-- R110: the rule of STEP. -/
def stepRequest (count : Nat) (k : Slot) (c : Cursor) (s : State) : Response × State :=
  match c.settledRefusal with
  | some code => (Response.plain code, s)
  | none =>
      if c.bound ∨ count = 0 ∨ 4096 < count then (Response.plain .badArgument, s)
      else (Response.plain .accepted, s.withLive (beginPlay s.env k true count s.live))

/-- R110. -/
def execStep (p : PortId) (slot count : Nat) (s : State) : Host.Outcome State Fault Refusal :=
  .next (takeRequest p 23 (cursorRequest p slot (stepRequest count)) s)

/-! ### HOLD and STOP (R111, R112) -/

/-- R112: an ARMED cursor returns to its armed-from state; the change flushes (R134). -/
def disarm (k : Slot) (c : Cursor) (l : Live) : Live :=
  flush k
    (l.setCursor k { c with state := if c.armedFrom = some .held then .held else .idle, armedFrom := none })

/-- R111: a hold or a stop becomes pending, in the place of one that is pending already (log 44), and is taken at once
at a step boundary. -/
def pend (e : Env) (h : PendingHold) (k : Slot) (c : Cursor) (l : Live) : Live :=
  atBoundary e k (l.setCursor k { c with pendingHold := some h })

/-- R111: what HOLD does in each state. -/
def holdAccepted (e : Env) (k : Slot) (c : Cursor) (l : Live) : Live :=
  match c.state with
  | .running => pend e .hold k c l
  | .seeking => l.setCursor k { c with chain := false }
  | .armed => disarm k c l
  | .idle => l
  | .held => l
  | .ended => l
  | .unsettled => l

/-- R111: the rule of HOLD. -/
def hold (k : Slot) (c : Cursor) (s : State) : Response × State :=
  if c.snapshotting then (Response.plain .cursorBusy, s)
  else (Response.done, s.withLive (holdAccepted s.env k c s.live))

/-- R111. -/
def execHold (p : PortId) (slot : Nat) (s : State) : Host.Outcome State Fault Refusal :=
  .next (takeRequest p 24 (cursorRequest p slot hold) s)

/-- R112: what STOP does in each state. -/
def stopAccepted (e : Env) (k : Slot) (c : Cursor) (l : Live) : Live :=
  match c.state with
  | .seeking => abandon e k l
  | .running => if rebuilding c then abandon e k l else pend e .stop k c l
  | .armed => disarm k c l
  | .idle => l
  | .held => l
  | .ended => l
  | .unsettled => l

/-- R112: the rule of STOP. -/
def stop (k : Slot) (c : Cursor) (s : State) : Response × State :=
  if c.snapshotting then (Response.plain .cursorBusy, s)
  else (Response.done, s.withLive (stopAccepted s.env k c s.live))

/-- R112. -/
def execStop (p : PortId) (slot : Nat) (s : State) : Host.Outcome State Fault Refusal :=
  .next (takeRequest p 25 (cursorRequest p slot stop) s)

/-! ### ARM (R118) -/

/-- R118: an accepted ARM; the change of state flushes (R134). -/
def armAccepted (k : Slot) (c : Cursor) (l : Live) : Live :=
  flush k
    (l.setCursor k { c with state := .armed, armedFrom := some (if c.state = .held then .held else .idle) })

/-- R118: the rule of ARM. -/
def arm (k : Slot) (c : Cursor) (s : State) : Response × State :=
  match if c.state = .idle ∧ !c.snapshotting then none else c.settledRefusal with
  | some code => (Response.plain code, s)
  | none =>
      if c.options.source = .request then (Response.plain .badArgument, s)
      else (Response.done, s.withLive (armAccepted k c s.live))

/-- R118. -/
def execArm (p : PortId) (slot : Nat) (s : State) : Host.Outcome State Fault Refusal :=
  .next (takeRequest p 26 (cursorRequest p slot arm) s)

/-! ### SNAPSHOT (R123) -/

/-- R123: what the cursor's state answers to SNAPSHOT; none where it is taken. -/
def Cursor.snapshotRefusal (c : Cursor) : Option RespCode :=
  if c.snapshotting then some .cursorBusy
  else
    match c.state with
    | .idle => some .notSettled
    | .unsettled => some .notSettled
    | .seeking => some .cursorBusy
    | .running => some .cursorBusy
    | .armed => some .cursorBusy
    | .held => none
    | .ended => none

/-- R123: the points a snapshot reports, ascending. -/
def snapPoints (t : Tables) (first last : Nat) (station : Option Nat) : List PointId :=
  (List.finRange 4096).filter fun p =>
    decide (first ≤ p.val) && decide (p.val ≤ last) && (t.points.get p).enabled &&
      station.elim true fun x => (t.points.get p).station == x

/-- R123: an accepted SNAPSHOT: one of no point ends at acceptance; an overtaken cursor rebases first. -/
def snapAccepted (e : Env) (k : Slot) (c : Cursor) (todo : List PointId) (l : Live) : Live :=
  if todo = [] then flush k l
  else
    let m := l.setCursor k { c with snap := some { todo := todo, opening := c.overtaken.isSome } }
    if c.overtaken.isSome then startRebase e k m else m

/-- R123: the rule of SNAPSHOT. -/
def snapshot (first last : Nat) (station : Option Nat) (k : Slot) (c : Cursor) (s : State) : Response × State :=
  match c.snapshotRefusal with
  | some code => (Response.plain code, s)
  | none =>
      if 4095 < last ∨ last < first ∨ (station.elim false fun x => decide (255 < x)) then
        (Response.plain .badArgument, s)
      else
        let todo := snapPoints s.tables first last station
        ({ code := .accepted, body := .snapCount todo.length }, s.withLive (snapAccepted s.env k c todo s.live))

/-- R123. -/
def execSnapshot (p : PortId) (slot first last : Nat) (station : Option Nat) (s : State) :
    Host.Outcome State Fault Refusal :=
  .next (takeRequest p 27 (cursorRequest p slot (snapshot first last station)) s)

/-! ### FETCH (R136) -/

/-- R136: the oldest completed batch leaves the buffer, and a waiting item is written. -/
def fetchBatch (e : Env) (k : Slot) (c : Cursor) (b : Batch) (rest : List Batch) (l : Live) : Live :=
  resumeWaiting e k (l.setCursor k { c with buffer := c.buffer.takeBatch b rest })

/-- R136: the rule of FETCH. -/
def fetch (k : Slot) (c : Cursor) (s : State) : Response × State :=
  match c.options.mode, c.buffer.completed with
  | .notice, b :: rest => ({ code := .done, body := .batch b }, s.withLive (fetchBatch s.env k c b rest s.live))
  | _, _ => (Response.plain .nothingReady, s)

/-- R136. -/
def execFetch (p : PortId) (slot : Nat) (s : State) : Host.Outcome State Fault Refusal :=
  .next (takeRequest p 29 (cursorRequest p slot fetch) s)

end Sys2Proof.Machine
end

