-- ==== Sys2Proof/Machine/Watches.lean ====
section
/-!
DEFINITION. The requests on watches, probes and the trail (08_watches_probes_and_the_trail.md).
-/

namespace Sys2Proof.Machine

open Sys2Proof

/-- R154: an accepted probe joins the queue; the LAGGING test is made when PROBING becomes set (R170); the probe begins
where it may (R156, R157). -/
def probeAccepted (e : Env) (k : Slot) (c : Cursor) (q : Probe) (l : Live) : Live :=
  let m := l.setCursor k (c.takeProbe q)
  kickProbe e k (if c.probes = [] then lagTest e k m else m)

/-- R154: the rule of PROBE. -/
def probeRequest (tag point instant : Nat) (k : Slot) (c : Cursor) (s : State) : Response × State :=
  match asIndex 4096 point with
  | none => (Response.plain .badArgument, s)
  | some x =>
      if Config.maxGrid < instant ∨ 65535 < tag then (Response.plain .badArgument, s)
      else if Config.probeCapacity ≤ c.probes.length then (Response.plain .probeFull, s)
      else
        (Response.plain .accepted,
          s.withLive (probeAccepted s.env k c { tag := tag, point := x, instant := instant, work := none } s.live))

/-- R154. -/
def execProbe (p : PortId) (slot tag point instant : Nat) (s : State) : Host.Outcome State Fault Refusal :=
  .next (takeRequest p 30 (cursorRequest p slot (probeRequest tag point instant)) s)

/-- R148, R149: the states that refuse a change of watches. -/
def Cursor.watchesFixed (c : Cursor) : Bool :=
  match c.state with
  | .seeking => true
  | .running => true
  | .armed => true
  | _ => false

/-- R148: the watch a SET_WATCH leaves in a slot. -/
def newWatch (args : WatchArgs) (actions : Byte) : Option Watch :=
  match watchCondOf args, actionsOf actions with
  | some cond, some acts => some { cond := cond, actions := acts, fired := false, hits := 0 }
  | _, _ => none

/-- R148: the rule of SET_WATCH. -/
def setWatch (watch : Nat) (args : WatchArgs) (actions : Byte) (k : Slot) (c : Cursor) (s : State) :
    Response × State :=
  if c.watchesFixed then (Response.plain .cursorBusy, s)
  else
    match asIndex 8 watch, newWatch args actions with
    | some w, some x =>
        (Response.done, s.withLive (s.live.setCursor k { c with watches := vput c.watches w (some x) }))
    | _, _ => (Response.plain .badArgument, s)

/-- R148. -/
def execSetWatch (p : PortId) (slot watch : Nat) (args : WatchArgs) (actions : Byte) (s : State) :
    Host.Outcome State Fault Refusal :=
  .next (takeRequest p 31 (cursorRequest p slot (setWatch watch args actions)) s)

/-- R149: the rule of CLEAR_WATCH; the state is judged before the argument, as R100 orders them. -/
def clearWatch (watch : Nat) (k : Slot) (c : Cursor) (s : State) : Response × State :=
  if c.watchesFixed then (Response.plain .cursorBusy, s)
  else
    match asIndex 8 watch with
    | none => (Response.plain .badArgument, s)
    | some w => (Response.done, s.withLive (s.live.setCursor k { c with watches := vput c.watches w none }))

/-- R149. -/
def execClearWatch (p : PortId) (slot watch : Nat) (s : State) : Host.Outcome State Fault Refusal :=
  .next (takeRequest p 32 (cursorRequest p slot (clearWatch watch)) s)

/-- R150: the watch with its flag and count cleared. -/
def Watch.cleared (w : Watch) : Watch := { w with fired := false, hits := 0 }

/-- R150: the watches after a read that clears the named slots. -/
def clearNamed (ws : List WatchId) (v : Vector (Option Watch) 8) : Vector (Option Watch) 8 :=
  Vector.ofFn fun i => if i ∈ ws then (v.get i).map Watch.cleared else v.get i

/-- R150: the rule of READ_WATCHES. -/
def readWatches (clear : List Nat) (k : Slot) (c : Cursor) (s : State) : Response × State :=
  match readAll (asIndex 8) clear with
  | none => (Response.plain .badArgument, s)
  | some ws =>
      ({ code := .done, body := .watches c.watches },
        s.withLive (s.live.setCursor k { c with watches := clearNamed ws c.watches }))

/-- R150. -/
def execReadWatches (p : PortId) (slot : Nat) (clear : List Nat) (s : State) : Host.Outcome State Fault Refusal :=
  .next (takeRequest p 33 (cursorRequest p slot (readWatches clear)) s)

/-- R153: the rule of READ_TRAIL. -/
def readTrail (_k : Slot) (c : Cursor) (s : State) : Response × State :=
  ({ code := .done, body := .trail c.trailFrozen c.trail }, s)

/-- R153. -/
def execReadTrail (p : PortId) (slot : Nat) (s : State) : Host.Outcome State Fault Refusal :=
  .next (takeRequest p 34 (cursorRequest p slot readTrail) s)

end Sys2Proof.Machine
end

