-- ==== Sys2Proof/Machine/ClockRequests.lean ====
section
/-!
DEFINITION. The commands of the Common Clock: the arbiter's requests, the control requests, the advance and the lease
expiry (09_the_common_clock.md).
-/

namespace Sys2Proof.Machine

open Sys2Proof

/-- R162: the rule of TAKE_CLOCK. -/
def takeClock (p : PortId) (wait : Bool) (_body : List Byte) (s : State) : Response × State :=
  let c := s.clock
  match c.controller with
  | none =>
      ({ code := .done, body := .granted },
        notifyClock .control { s with clock := Clock.startLease { c with controller := some p } })
  | some q =>
      if q = p then ({ code := .done, body := .renewed }, { s with clock := c.startLease })
      else if !wait then (Response.plain .clockBusy, s)
      else if p ∈ c.waitList then ({ code := .queued, body := .place (c.place p) }, s)
      else
        ({ code := .queued, body := .place (c.waitList.length + 1) },
          { s with clock := { c with waitList := c.waitList ++ [p] } })

/-- R162. -/
def execTakeClock (p : PortId) (wait : Bool) (s : State) : Host.Outcome State Fault Refusal :=
  .next (takeRequest p 35 (takeClock p wait) s)

/-- R163: the rule of RELEASE_CLOCK. -/
def releaseClock (p : PortId) (_body : List Byte) (s : State) : Response × State :=
  if s.clock.controller = some p then (Response.done, passClock none s)
  else if p ∈ s.clock.waitList then (Response.done, { s with clock := s.clock.unlist p })
  else (Response.plain .notFound, s)

/-- R163. -/
def execReleaseClock (p : PortId) (s : State) : Host.Outcome State Fault Refusal :=
  .next (takeRequest p 36 (releaseClock p) s)

/-- R168: what READ_CLOCK answers a port. -/
def Clock.report (c : Clock) (p : PortId) : ClockReport :=
  { instant := c.instant, run := c.run, rate := c.rate, controller := c.controller, waitList := c.waitList
    leasePeriod := c.leasePeriod, leaseLeft := c.leaseLeft, role := c.role p }

/-- R168: the rule of READ_CLOCK. -/
def readClock (p : PortId) (_body : List Byte) (s : State) : Response × State :=
  ({ code := .done, body := .clock (s.clock.report p) }, s)

/-- R168. -/
def execReadClock (p : PortId) (s : State) : Host.Outcome State Fault Refusal :=
  .next (takeRequest p 37 (readClock p) s)

/-- R165: CLOCK_RUN. -/
def clockRun (s : State) : State :=
  match s.clock.run with
  | .running => s
  | .stopped =>
      if s.clock.instant < Config.maxGrid then followers (notifyClock .run { s with clock := s.clock.start })
      else notifyClock .limit s

/-- R165. -/
def execClockRun (p : PortId) (s : State) : Host.Outcome State Fault Refusal :=
  .next (takeRequest p 38 (controlRequest p true clockRun) s)

/-- R165: CLOCK_PAUSE. -/
def clockPause (s : State) : State :=
  match s.clock.run with
  | .stopped => s
  | .running => notifyClock .pause { s with clock := s.clock.halt }

/-- R165. -/
def execClockPause (p : PortId) (s : State) : Host.Outcome State Fault Refusal :=
  .next (takeRequest p 39 (controlRequest p true clockPause) s)

/-- R166, R171, R173: the cursors a CLOCK_SET reaches. -/
def clockSetReachesAll (before : Nat) (s : State) : State :=
  s.withLive
    (inFreeOrder (s.live.slotsWhere fun c => reseeks c || marked before s.clock.instant c) (clockSetReaches s.env) s.live)

/-- R166: CLOCK_SET. -/
def clockSet (t : Nat) (s : State) : State :=
  clockSetReachesAll s.clock.instant (notifyClock .set { s with clock := { s.clock with instant := t } })

/-- R166. -/
def execClockSet (p : PortId) (t : Nat) (s : State) : Host.Outcome State Fault Refusal :=
  .next (takeRequest p 40 (controlRequest p (decide (t ≤ Config.maxGrid)) (clockSet t)) s)

/-- R165: CLOCK_RATE. -/
def clockRate (rate : Nat) (s : State) : State :=
  let t := { s with clock := { s.clock with rate := rate } }
  if s.clock.rate = rate then t else notifyClock .rate t

/-- R165. -/
def execClockRate (p : PortId) (rate : Nat) (s : State) : Host.Outcome State Fault Refusal :=
  .next (takeRequest p 41 (controlRequest p (decide (1 ≤ rate) && decide (rate ≤ 65535)) (clockRate rate)) s)

/-- R165: SET_LEASE. -/
def setLease (seconds : Nat) (s : State) : State := { s with clock := { s.clock with leasePeriod := seconds } }

/-- R165. -/
def execSetLease (p : PortId) (seconds : Nat) (s : State) : Host.Outcome State Fault Refusal :=
  .next (takeRequest p 42 (controlRequest p (decide (1 ≤ seconds) && decide (seconds ≤ 3600)) (setLease seconds)) s)

/-- R160: the pacing timer completes its millisecond; the wall time it had left passes at the lease timer too
(log 4). -/
def execClockAdvance (s : State) : Host.Outcome State Fault Refusal :=
  .next
    (if s.resetLow || s.clock.run == .stopped then s
     else clockAdvance { s with clock := s.clock.spend (s.clock.pacing.getD 0) })

/-- R164: the lease timer reaches 0, whatever wall time it had left (log 4). -/
def execLeaseExpiry (s : State) : Host.Outcome State Fault Refusal :=
  .next (if s.resetLow || s.clock.leaseLeft.isNone then s else expireLease s)

end Sys2Proof.Machine
end

