-- ==== Sys2Proof/Machine/Engine.lean ====
section
/-!
DEFINITION. The cursors' own events: the read of a step, of a rebuild and of a probe, and the writing of a cursor's
next item (R92, R113, R123, R155).
-/

namespace Sys2Proof.Machine

open Sys2Proof

/-- R113: a RUNNING cursor whose next read is due reads. -/
def execStepRead (k : Slot) (s : State) : Host.Outcome State Fault Refusal :=
  .next (if s.resetLow then s else s.withLive (stepRead s.env k s.live))

/-- R92, R93: a rebuild in flight reads. -/
def execRebuildRead (k : Slot) (s : State) : Host.Outcome State Fault Refusal :=
  .next (if s.resetLow then s else s.withLive (rebuildRead s.env k s.live))

/-- R155: a computing probe reads. -/
def execProbeRead (k : Slot) (s : State) : Host.Outcome State Fault Refusal :=
  .next (if s.resetLow then s else s.withLive (probeRead s.env k s.live))

/-- R122, R123, R131: the cursor has an item to write and none waits; the first SNAP item of a snapshot that a rebase
opened follows the probes that waited. -/
def itemDue (c : Cursor) : Bool :=
  c.buffer.waiting.isNone &&
    match c.op with
    | .step f => !f.todo.isEmpty
    | .none => c.snap.elim false fun w => !w.todo.isEmpty && !(w.opening && c.probing)
    | _ => false

/-- R113, R123: the cursor writes its next item. -/
def itemWritten (e : Env) (k : Slot) (l : Live) : Live :=
  l.withCursor k fun c => if itemDue c then writeNext e k l else l

/-- R113, R123. -/
def execItemWritten (k : Slot) (s : State) : Host.Outcome State Fault Refusal :=
  .next (if s.resetLow then s else s.withLive (itemWritten s.env k s.live))

end Sys2Proof.Machine
end

