-- ==== Sys2Proof/Machine/Dispatch.lean ====
section
/-!
DEFINITION. The meaning of every command: one arm per constructor of Instr.
-/

namespace Sys2Proof.Machine

open Sys2Proof

def exec (i : Instr) (s : State) : Host.Outcome State Fault Refusal :=
  match i with
  | .powerOn => Sys2Proof.Machine.execPowerOn s
  | .resetAssert => Sys2Proof.Machine.execResetAssert s
  | .resetRelease => Sys2Proof.Machine.execResetRelease s
  | .linkUp p => Sys2Proof.Machine.execLinkUp p s
  | .linkDown p => Sys2Proof.Machine.execLinkDown p s
  | .markInEdge => Sys2Proof.Machine.execMarkInEdge s
  | .frameReceive p bytes => Sys2Proof.Machine.execFrameReceive p bytes s
  | .frameError p => Sys2Proof.Machine.execFrameError p s
  | .unknownRequest p => Sys2Proof.Machine.execUnknownRequest p s
  | .frameTransmit p => Sys2Proof.Machine.execFrameTransmit p s
  | .describe p => Sys2Proof.Machine.execDescribe p s
  | .subscribe p set => Sys2Proof.Machine.execSubscribe p set s
  | .beginCollection p => Sys2Proof.Machine.execBeginCollection p s
  | .sealHistory p => Sys2Proof.Machine.execSealHistory p s
  | .clearHistory p => Sys2Proof.Machine.execClearHistory p s
  | .readRecords p start last count zeroRelative => Sys2Proof.Machine.execReadRecords p start last count zeroRelative s
  | .readGaps p start count recorder => Sys2Proof.Machine.execReadGaps p start count recorder s
  | .setPoint p first settings => Sys2Proof.Machine.execSetPoint p first settings s
  | .setRecorder p recorder enabled tickUnit offset drift fallback => Sys2Proof.Machine.execSetRecorder p recorder enabled tickUnit offset drift fallback s
  | .setMapBlock p recorder block fields => Sys2Proof.Machine.execSetMapBlock p recorder block fields s
  | .setStudy p epoch window threshold interval => Sys2Proof.Machine.execSetStudy p epoch window threshold interval s
  | .setEventZero p t => Sys2Proof.Machine.execSetEventZero p t s
  | .loadSegment p => Sys2Proof.Machine.execLoadSegment p s
  | .cancelSegment p recorder seq => Sys2Proof.Machine.execCancelSegment p recorder seq s
  | .readRecorder p recorder => Sys2Proof.Machine.execReadRecorder p recorder s
  | .setAttentionMask p => Sys2Proof.Machine.execSetAttentionMask p s
  | .clearCauses p => Sys2Proof.Machine.execClearCauses p s
  | .openCursor p => Sys2Proof.Machine.execOpenCursor p s
  | .readCursor p slot => Sys2Proof.Machine.execReadCursor p slot s
  | .setCursor p slot payload => Sys2Proof.Machine.execSetCursor p slot payload s
  | .seek p slot target chain => Sys2Proof.Machine.execSeek p slot target chain s
  | .play p slot restart => Sys2Proof.Machine.execPlay p slot restart s
  | .step p slot count => Sys2Proof.Machine.execStep p slot count s
  | .hold p slot => Sys2Proof.Machine.execHold p slot s
  | .stop p slot => Sys2Proof.Machine.execStop p slot s
  | .arm p slot => Sys2Proof.Machine.execArm p slot s
  | .snapshot p slot first last station => Sys2Proof.Machine.execSnapshot p slot first last station s
  | .closeCursor p slot => Sys2Proof.Machine.execCloseCursor p slot s
  | .fetch p slot => Sys2Proof.Machine.execFetch p slot s
  | .probe p slot tag point instant => Sys2Proof.Machine.execProbe p slot tag point instant s
  | .setWatch p slot watch args actions => Sys2Proof.Machine.execSetWatch p slot watch args actions s
  | .clearWatch p slot watch => Sys2Proof.Machine.execClearWatch p slot watch s
  | .readWatches p slot clear => Sys2Proof.Machine.execReadWatches p slot clear s
  | .readTrail p slot => Sys2Proof.Machine.execReadTrail p slot s
  | .takeClock p wait => Sys2Proof.Machine.execTakeClock p wait s
  | .releaseClock p => Sys2Proof.Machine.execReleaseClock p s
  | .readClock p => Sys2Proof.Machine.execReadClock p s
  | .clockRun p => Sys2Proof.Machine.execClockRun p s
  | .clockPause p => Sys2Proof.Machine.execClockPause p s
  | .clockSet p instant => Sys2Proof.Machine.execClockSet p instant s
  | .clockRate p rate => Sys2Proof.Machine.execClockRate p rate s
  | .setLease p seconds => Sys2Proof.Machine.execSetLease p seconds s
  | .clockAdvance => Sys2Proof.Machine.execClockAdvance s
  | .leaseExpiry => Sys2Proof.Machine.execLeaseExpiry s
  | .segmentCommit => Sys2Proof.Machine.execSegmentCommit s
  | .segmentFailure => Sys2Proof.Machine.execSegmentFailure s
  | .stepRead k => Sys2Proof.Machine.execStepRead k s
  | .rebuildRead k => Sys2Proof.Machine.execRebuildRead k s
  | .probeRead k => Sys2Proof.Machine.execProbeRead k s
  | .itemWritten k => Sys2Proof.Machine.execItemWritten k s

end Sys2Proof.Machine
end

