-- ==== Sys2Proof/Safety.lean ====
section
/-!
DEFINITION. What must hold of every state the part reaches, in the spec's own laws, and the shapes the statements use:
a request taken by a port, and the state that its answer leaves.
-/

namespace Sys2Proof.Machine

open Sys2Proof

/-! ### A request taken and answered (R176) -/

/-- R176: the port can take the request at the front of its queue, and that request has this code, tag and body. -/
def Taken (s : State) (p : PortId) (code tag : Nat) (body : List Byte) : Prop :=
  s.frontRequest p code = some (tag, body)

/-- R176, R177: the state that an answered request leaves: `u` is what the owning block's rule made of the state with
the request taken from its queue; `r` stands in the holder, formed before the notices of its event. -/
def answered (s : State) (p : PortId) (tag : Nat) (r : Response) (u : State) : State :=
  u.respond p tag (s.live.port p).notices.length r

/-- R176: the answer of a request that changes nothing but its port. -/
def answeredOnly (s : State) (p : PortId) (tag : Nat) (r : Response) : State := answered s p tag r (s.popRequest p)

/-- R100: a cursor request reaches its cursor: the slot is named in range, open, and the port owns it. -/
def Reaches (s : State) (p : PortId) (slot : Nat) (body : List Byte) (k : Slot) (c : Cursor) : Prop :=
  body ≠ [] ∧ asIndex 8 slot = some k ∧ s.live.cursor k = some c ∧ c.owner = p

/-- The state with the cursor of one slot changed. -/
def withCursorAt (s : State) (k : Slot) (c : Cursor) : State := s.withLive (s.live.setCursor k c)

/-- R176: the response that stands in a port's holder. -/
def Responded (t : State) (p : PortId) (tag : Nat) (r : Response) : Prop :=
  ((t.live.port p).response.map fun h => (h.tag, h.response)) = some (tag, r)

/-! ### Frames of the statements: what a command leaves unchanged -/

/-- Everything but the cursors, the checkpoints and the ports is the same. -/
def SameStore (s t : State) : Prop :=
  t.history = s.history ∧ t.tables = s.tables ∧ t.contexts = s.contexts ∧ t.gaps = s.gaps ∧ t.merge = s.merge ∧
    t.clock = s.clock ∧ t.resetLow = s.resetLow ∧ t.pending = s.pending

/-- The cursors of all other slots and all other ports are the same. -/
def OthersSame (s t : State) (k : Slot) (p : PortId) : Prop :=
  (∀ j : Slot, j ≠ k → t.live.cursor j = s.live.cursor j) ∧ ∀ q : PortId, q ≠ p → t.live.port q = s.live.port q

/-- R177, R178: a port to which notices are formed, in order. -/
def Port.takes (p : Port) (ns : List Notice) : Port := ns.foldl Port.push p

/-! ### Delivery, as the statements say it (R126 to R137) -/

/-- R132 to R134: in NOTICE mode an item completes the batch it enters, by a flush or at the batch size. -/
def Buffer.completes (o : Options) (flushes : Bool) (b : Buffer) : Bool :=
  o.mode == .notice && (flushes || decide (o.batchSize ≤ b.writing.length + 1))

/-- R126, R135: the batch as one more item completes it. -/
def Buffer.batchWith (o : Options) (body : ItemBody) (b : Buffer) : Batch :=
  { half := if o.split then b.half else none
    first := (b.writing.head?.map Item.number).getD b.nextNumber
    items := b.writing ++ [{ number := b.nextNumber, body := body }] }

/-- R126, R131 to R134, R137: the buffer with one more item: it takes the next item number and the last place. -/
def Buffer.delivered (o : Options) (flushes : Bool) (body : ItemBody) (b : Buffer) : Buffer :=
  let item : Item := { number := b.nextNumber, body := body }
  let next : Buffer := { b with waiting := none, nextNumber := (b.nextNumber + 1) % 65536 }
  if o.mode = .push then { next with outgoing := b.outgoing ++ [item] }
  else if b.completes o flushes then
    { next with
      writing := [], completed := b.completed ++ [b.batchWith o body]
      half := if o.split then nextHalf b.completed b.half else b.half }
  else { next with writing := b.writing ++ [item] }

/-- R135: the BATCH_READY of the batch that the item completes. -/
def Buffer.announced (k : Slot) (o : Options) (flushes : Bool) (body : ItemBody) (b : Buffer) : List Notice :=
  if b.completes o flushes then
    [.batchReady k (b.batchWith o body).half (b.writing.length + 1) (b.batchWith o body).first]
  else []

/-- R132 to R134: the buffer after a flush: in NOTICE mode a batch being written that holds an item is completed. -/
def Buffer.flushed (o : Options) (b : Buffer) : Buffer :=
  if o.mode = .notice ∧ b.writing ≠ [] then
    { b with
      writing := []
      completed := b.completed ++
        [{ half := if o.split then b.half else none
           first := (b.writing.head?.map Item.number).getD b.nextNumber, items := b.writing }]
      half := if o.split then nextHalf b.completed b.half else b.half }
  else b

/-- R134, R135: the BATCH_READY of a flush. -/
def Buffer.flushTold (k : Slot) (o : Options) (b : Buffer) : List Notice :=
  if o.mode = .notice ∧ b.writing ≠ [] then
    [.batchReady k (if o.split then b.half else none) b.writing.length
      ((b.writing.head?.map Item.number).getD b.nextNumber)]
  else []

/-! ### The use counter, and the start of a rebuild, as the statements say them (R84, R89, R91, R98) -/

/-- R84: `u` is `t` renumbered: the valid entries, k of them, take the stamps 1 to k in ascending order of those they
had, every other entry takes 0, and the counter becomes k. That equal stamps count by index is the model's (log 34). -/
def Renumbered (t u : CheckpointTable) : Prop :=
  u.counter = ((List.finRange 64).filter fun i => (t.entries.get i).valid).length ∧
    (∀ i : CkptId, u.entries.get i = { t.entries.get i with stamp := (u.entries.get i).stamp }) ∧
    (∀ i : CkptId, (t.entries.get i).valid = false → (u.entries.get i).stamp = 0) ∧
    (∀ i : CkptId, (t.entries.get i).valid = true →
      1 ≤ (u.entries.get i).stamp ∧ (u.entries.get i).stamp ≤ u.counter) ∧
    ∀ i j : CkptId, (t.entries.get i).valid = true → (t.entries.get j).valid = true →
      ((u.entries.get i).stamp < (u.entries.get j).stamp ↔
        (t.entries.get i).stamp < (t.entries.get j).stamp ∨
          (t.entries.get i).stamp = (t.entries.get j).stamp ∧ i.val < j.val)

/-- R84: `w` is the table from which the use counter advances: `t` itself, or `t` renumbered where the advance would
pass 4,294,967,295. -/
def Advancing (t w : CheckpointTable) : Prop :=
  (t.counter < 4294967295 → w = t) ∧ (4294967295 ≤ t.counter → Renumbered t w)

/-- R89, R91, R98: `d` as the start of a rebuild leaves it, with the choice on the table `t`. A choice turns on no use
stamp, so `t` may be the table before the event or, where the event makes no checkpoint valid or invalid after it, the
one that the event leaves. -/
def RebuildBegun (t : CheckpointTable) (kind : RebuildKind) (target : Nat) (kept : Option Overtake) (d : Cursor) :
    Prop :=
  let chosen := (t.choose target).1
  d.image = some ((chosen.map Checkpoint.image).getD []) ∧ d.position = chosen.bind Checkpoint.position ∧
    d.overtaken = none ∧ d.trail = [] ∧
    d.op = .rebuild { kind := kind, target := target, standing := chosen.map Checkpoint.instant, kept := kept } ∧
    d.rebuildRecord =
      some { kind := kind, target := target, start := chosen.map Checkpoint.instant, applied := 0, outcome := .inFlight }

/-- R84, R91: the cursors that `target` gives a target have made their choices one after the other, in some order. -/
def ChosenInSomeOrder (target : Cursor → Option Nat) (s t : State) : Prop :=
  ∃ order : List Slot, order.Nodup ∧
    (∀ k : Slot, k ∈ order ↔ ∃ c, s.live.cursor k = some c ∧ target c ≠ none) ∧
    t.live.checkpoints =
      order.foldl (fun u k => ((s.live.cursor k).bind target).elim u fun x => (u.choose x).2) s.live.checkpoints

/-- R97, R155, R156: the probe at the front of the queue of `c` begins, with its choice on the table of `s`; one that
computes goes on; those behind it wait. -/
def ProbeBegins (s : State) (c d : Cursor) : Prop :=
  match c.probes with
  | [] => d.probes = []
  | q :: rest =>
      let chosen := (s.live.checkpoints.choose q.instant).1
      let img : Image := (chosen.map Checkpoint.image).getD []
      (q.work ≠ none → d.probes = c.probes) ∧
        (q.work = none →
          d.probes =
            { q with
              work := some
                { chosen := chosen.map Checkpoint.instant, lastRead := none
                  answer :=
                    { state := Image.stateOf s.tables img q.point
                      time := (Image.cell img q.point).map ImageCell.time
                      commit := (Image.cell img q.point).map ImageCell.commit, quality := none } } } :: rest)

/-- R84, R97: the Checkpoint Table after the probe at the front of the queue of `c` has begun, or goes on. -/
def ProbeChose (c : Cursor) (t u : CheckpointTable) : Prop :=
  match c.probes with
  | [] => u = t
  | q :: _ => u = if q.work = none then (t.choose q.instant).2 else t

/-! ### Step boundaries and the LAGGING test, as the statements say them (R114, R170) -/

/-- R170: LAGGING after its test, made of a cursor at a clock instant on the records of the store. That a REBASING
cursor which is also STALLED or PROBING is asked REBASING's question, with the cursor instant as target where REBASE
waits, is the model's deduction (log 33). -/
def LagTested (rs : List Record) (now : Nat) (c : Cursor) (lagging : Bool) : Prop :=
  let rebasing := c.op = .rebaseDone ∨ ∃ f, c.op = .rebuild f ∧ f.kind = .rebase
  let target :=
    match c.op with
    | .rebuild f => f.target
    | _ => c.instant.getD 0
  lagging = true ↔ c.lagging = true ∨
    c.state = .running ∧ c.options.pacing = .bound ∧ (c.buffer.waiting ≠ none ∨ c.probes ≠ [] ∨ rebasing) ∧
      ∃ r ∈ rs, r.time ≤ now ∧ (rebasing → target < r.time) ∧ (¬rebasing → keyAfter r.key c.position = true)

/-- R170: the event that made `d` of `c` set STALLED, PROBING or REBASING: it made the test on `d`, which had the
LAGGING of `c` before it. -/
def LagTestedAfter (rs : List Record) (now : Nat) (c d : Cursor) : Prop :=
  LagTested rs now { d with lagging := c.lagging } d.lagging

/-- R114, R122, R157: what a step boundary makes of a RUNNING cursor whose probe queue is empty: nothing where a step is
to be executed again or nothing stands against the next one, else HELD, else a rebase, with its choice on the table of
`s` (as `RebuildBegun` says). R170: REBASING is set with it, and the LAGGING test made. -/
def AtBoundary (s : State) (c d : Cursor) : Prop :=
  let held := c.pendingHold ≠ none ∨ c.underStep = true ∧ c.stepsLeft = 0
  d.probes = [] ∧ d.instant = c.instant ∧
    (c.redo = true ∨ ¬held ∧ c.overtaken = none →
      d.state = .running ∧ d.op = .none ∧ d.overtaken = c.overtaken ∧ d.pendingHold = c.pendingHold ∧
        d.stepsLeft = c.stepsLeft ∧ d.image = c.image ∧ d.position = c.position ∧ d.trail = c.trail) ∧
    (c.redo = false → held →
      d.state = .held ∧ d.op = .none ∧ d.overtaken = c.overtaken ∧ d.pendingHold = none ∧ d.stepsLeft = 0 ∧
        d.image = c.image ∧ d.position = c.position ∧ d.trail = c.trail) ∧
    (c.redo = false → ¬held → c.overtaken ≠ none →
      d.state = .running ∧ d.atHead = false ∧ d.stepsLeft = c.stepsLeft ∧
        RebuildBegun s.live.checkpoints .rebase (c.instant.getD 0) c.overtaken d ∧
        LagTestedAfter s.history.records s.clock.instant c d)

/-- R114, R122, R134, R156, R157: a RUNNING cursor, as its operation leaves it, comes to a step boundary in an event
that leads from `s` to `t`. With a probe queued that begins, or goes on, and nothing else changes; else the cursor
becomes HELD with a flush, rebases, or stays as it is. -/
def ComesToBoundary (s t : State) (c d : Cursor) : Prop :=
  let held := c.redo = false ∧ (c.pendingHold ≠ none ∨ c.underStep = true ∧ c.stepsLeft = 0)
  let rebases := c.redo = false ∧ ¬held ∧ c.overtaken ≠ none
  (c.probes ≠ [] →
    d = { c with probes := d.probes } ∧ ProbeBegins s c d ∧ ProbeChose c s.live.checkpoints t.live.checkpoints) ∧
  (c.probes = [] →
    AtBoundary s c d ∧ (held → d.buffer = c.buffer.flushed c.options) ∧
      (rebases →
        d.buffer = { c.buffer with waiting := none } ∧
          t.live.checkpoints = (s.live.checkpoints.choose (c.instant.getD 0)).2) ∧
      (¬rebases → t.live.checkpoints = s.live.checkpoints) ∧ (¬held → ¬rebases → d = c))

/-! ### Steps and watches, as the statements say them (R113, R143) -/

/-- R113: a time lies in a step's interval. -/
def InStep (base : Option Nat) (t x : Nat) : Prop := (∀ b ∈ base, b < x) ∧ x ≤ t

/-- R113: the gap marker `m` belongs to a step from `base` to `t`. -/
def StepMarker (gaps : List Gap) (base : Option Nat) (t : Nat) (m : Marker) : Prop :=
  ∃ (i : Nat) (g : Gap), gaps[i]? = some g ∧
    (InStep base t g.start ∧ m = .gapOpen g.recorder i g.start ∨
      ∃ e ∈ g.stop, InStep base t e ∧ m = .gapClose g.recorder i e)

/-- R113: what orders gap markers: the time, the Gap List index, GAP_OPEN before GAP_CLOSE. -/
def Marker.rank : Marker → Nat × Nat × Nat
  | .gapOpen _ i t => (t, i, 0)
  | .gapClose _ i t => (t, i, 1)
  | _ => (0, 0, 0)

/-- R113: the order of gap markers. -/
def Marker.stands (a b : Marker) : Prop :=
  a.rank.1 < b.rank.1 ∨ a.rank.1 = b.rank.1 ∧
    (a.rank.2.1 < b.rank.2.1 ∨ a.rank.2.1 = b.rank.2.1 ∧ a.rank.2.2 < b.rank.2.2)

/-- Table 8-2: the number of points that a STATION_COUNT watch counts in an image. -/
def countedPoints (t : Tables) (img : Image) (station : Nat) (kind : Option DeviceKind) (st : SwState) : Nat :=
  ((List.finRange 4096).filter fun p =>
    decide ((t.points.get p).enabled = true ∧ (t.points.get p).station = station ∧
      (∀ x ∈ kind, (t.points.get p).kind = x) ∧ Image.stateOf t img p = .known st)).length

/-- R143, Table 8-2: a condition that a step of `c` applying `r` makes true. -/
def Fires (t : Tables) (gaps : List Gap) (c : Cursor) (r : Record) : WatchCond → Prop
  | .pointState p st =>
      Image.stateOf t (Image.put (c.image.getD []) r.point r.cell) p = .known st ∧
        Image.stateOf t (c.image.getD []) p ≠ .known st
  | .stationCount station kind st n =>
      n ≤ countedPoints t (Image.put (c.image.getD []) r.point r.cell) station kind st ∧
        countedPoints t (c.image.getD []) station kind st < n
  | .instant x => x ≤ r.time ∧ ∀ y ∈ c.instant, y < x
  | .quality .atOrBelowFree => r.quality = .free ∨ r.quality = .estimated
  | .quality .estimatedOnly => r.quality = .estimated
  | .gap rec => ∃ g ∈ gaps, InStep c.stepBase r.time g.start ∧ ∀ x ∈ rec, g.recorder = x

/-- R113, R144: the watches that fire on a step of `c` that applies `r`, and the items of the step in order. -/
def StepItems (s : State) (c : Cursor) (r : Record) (fired : List WatchId) (items : List ItemPlan) : Prop :=
  ∃ marks : List Marker,
    (∀ m, m ∈ marks ↔ StepMarker s.gaps c.stepBase r.time m) ∧ marks.Pairwise Marker.stands ∧
    fired.Pairwise (fun a b => a.val < b.val) ∧
    (∀ i : WatchId, i ∈ fired ↔ ∃ w, c.watches.get i = some w ∧ Fires s.tables s.gaps c r w.cond) ∧
    items =
      marks.map ItemPlan.marker ++
        [.record r (decide (Image.stateOf s.tables (c.image.getD []) r.point = .known r.state))] ++
        (fired.filter fun i => (c.watches.get i).elim false fun w => w.actions.mark).map fun i => .marker (.watch i)

/-- Some watch that fired has an action. -/
def SomeFired (act : WatchActions → Bool) (fired : List WatchId) (c : Cursor) : Prop :=
  ∃ i ∈ fired, ∃ w, c.watches.get i = some w ∧ act w.actions = true

/-- R120: a cursor waits for the signal of slot `k`. -/
def Awaits (k : Slot) (c : Cursor) : Prop := c.state = .armed ∧ c.options.source = .cursor k

/-- R119, R120: every cursor that waits for the signal of slot `k` is started. -/
def Signalled (k : Slot) (s t : State) : Prop :=
  ∀ (j : Slot) (x : Cursor), s.live.cursor j = some x → Awaits k x →
    ∃ y, t.live.cursor j = some y ∧ (y.state = .seeking ∨ y.state = .running) ∧ y.armedFrom = none

/-- R131, R170: a cursor as it stands with a marker that has come to wait, but for LAGGING, which the test may set. -/
def Stalls (s : State) (c d : Cursor) : Prop :=
  LagTested s.history.records s.clock.instant c d.lagging ∧ d = { c with lagging := d.lagging }

/-- R115 to R117, R120, R131, R169: what the seal makes of a RUNNING cursor that stands at the head of the store, in an
event that leads from `s` to `t`: it ends or wraps, with its marker written or waiting, and one that is bound and ends
later waits for the clock. The cause of a looping cursor's end is the model's choice (log 16), and so is that a waiting
probe begins after the signal (log 49). -/
def TakesSeal (s t : State) (k : Slot) (c d : Cursor) : Prop :=
  let stop := max (c.instant.getD 0) (c.options.windowEnd.getD (s.history.greatest.getD 0))
  let last : Marker := .endPass stop
  let wrap : Marker := .wrap c.options.windowStart
  let ends := c.options.pacing = .bound → stop ≤ s.clock.instant
  let single := c.options.loop = false ∨ c.applied = false
  let room := c.buffer.hasRoom c.options = true
  let waits (m : Marker) : Buffer := { c.buffer with waiting := some (.marker m) }
  (¬ends → ComesToBoundary s t { c with atHead := false, waiting := true, parked := true, sealEnd := true } d) ∧
  (ends → single → room →
    d.state = .ended ∧ d.op = .none ∧ d.instant = some stop ∧ d.image = c.image ∧ d.position = c.position ∧
      d.overtaken = c.overtaken ∧ d.stepsLeft = 0 ∧ d.pendingHold = none ∧ d.atHead = false ∧ d.waiting = false ∧
      d.buffer = c.buffer.delivered c.options true (.marker last) ∧ Signalled k s t ∧ ProbeBegins s c d) ∧
  (ends → single → ¬room →
    Stalls s
      { c with
        op := .ending (if c.options.loop then .windowEnd else .sealTaken), instant := some stop, atHead := false
        parked := false, buffer := waits last } d) ∧
  (ends → ¬single → room →
    d.state = .running ∧ d.atHead = false ∧ d.stepsLeft = c.stepsLeft ∧ d.probes = c.probes ∧
      RebuildBegun s.live.checkpoints .wrap c.options.windowStart none d ∧
      t.live.checkpoints = (s.live.checkpoints.choose c.options.windowStart).2 ∧
      d.buffer = c.buffer.delivered c.options false (.marker wrap)) ∧
  (ends → ¬single → ¬room →
    Stalls s { c with op := .wrapping, atHead := false, parked := false, buffer := waits wrap } d)

/-- R134: the marker flushes when it is written: END, HEAD, a WATCH of a watch whose actions include HOLD. -/
def Cursor.flushedBy (c : Cursor) : Marker → Bool
  | .watch w => (c.watches.get w).elim false fun y => y.actions.hold
  | .endPass _ => true
  | .head _ => true
  | _ => false

/-- R131, R136, R137: a marker of `c` that waited is written where room is made in its buffer, `free`, and its operation
goes on: a seek or a rebase completes (R108, R122), serves the probes that wait (R156) and leads to the step boundary
(R114); a window end ends or wraps the pass (R115, R116); the cursor waits at the head of the store (R117, R169), takes
the seal where the store is SEALED by then, and reads on, with AT_HEAD clear, where a record has come to stand after its
position (log 17). -/
def MarkerWritten (s t : State) (k : Slot) (c : Cursor) (free : Buffer) (m : Marker) (d : Cursor) : Prop :=
  let it : ItemBody := .marker m
  let written : Buffer := free.delivered c.options (c.flushedBy m) it
  let next := nextAfter c.position s.history.records
  let settled : Cursor :=
    { c with
      op := .none, atHead := true, parked := true, redo := false
      waiting := decide (c.options.pacing = .bound) || c.waiting
      lagging := if c.options.pacing = .bound then false else c.lagging
      instant := if c.options.pacing = .bound then some s.clock.instant else c.instant
      buffer := written }
  (c.op = .seekDone → c.chain = false → c.probes = [] →
    d.state = .held ∧ d.op = .none ∧ d.instant = c.instant ∧ d.image = c.image ∧ d.position = c.position ∧
      d.overtaken = c.overtaken ∧ d.buffer = free.delivered c.options true it) ∧
  (c.op = .seekDone → c.chain = true → c.probes = [] →
    d.chain = false ∧
      ComesToBoundary s t { c with state := .running, chain := false, op := .none, buffer := written } d) ∧
  (c.op = .seekDone → c.state = .seeking → c.probes ≠ [] →
    d = { c with op := .serving, buffer := written, probes := d.probes } ∧ ProbeBegins s c d ∧
      ProbeChose c s.live.checkpoints t.live.checkpoints) ∧
  (c.op = .rebaseDone → c.state ≠ .running → d = { c with op := .none, buffer := written }) ∧
  (c.op = .rebaseDone → c.state = .running → ComesToBoundary s t { c with op := .none, buffer := written } d) ∧
  (∀ cause, c.op = .ending cause → c.state = .running →
    d.state = .ended ∧ d.op = .none ∧ d.instant = c.instant ∧ d.image = c.image ∧ d.position = c.position ∧
      d.overtaken = c.overtaken ∧ Signalled k s t ∧ ProbeBegins s c d ∧
      d.buffer = free.delivered c.options true it) ∧
  (c.op = .wrapping →
    d.state = c.state ∧ d.probes = c.probes ∧ d.buffer = written ∧
      RebuildBegun s.live.checkpoints .wrap c.options.windowStart none d ∧
      t.live.checkpoints = (s.live.checkpoints.choose c.options.windowStart).2) ∧
  (c.op = .heading → c.state = .running → next ≠ none →
    ComesToBoundary s t { c with op := .none, parked := false, redo := false, buffer := written } d) ∧
  (c.op = .heading → c.state ≠ .running → s.history.phase = .collecting → next = none → d = settled) ∧
  (c.op = .heading → c.state = .running → s.history.phase = .collecting → next = none →
    ComesToBoundary s t settled d) ∧
  (c.op = .heading → c.state = .running → s.history.phase = .sealed → next = none → TakesSeal s t k settled d)

/-! ### Triggers, as the statements say them (R119, R120, R172, R173) -/

/-- R119, R172: the target of the chained seek that a trigger starts; none where the cursor plays from where it stands.
-/
def triggerTarget (now : Nat) (c : Cursor) : Option Nat :=
  match c.options.pacing with
  | .bound => if c.armedFrom = some .held ∧ c.instant = some now then none else some now
  | .freeRun => if c.armedFrom = some .held ∧ c.options.action = .play then none else some c.options.windowStart

/-- R119, R122: an ARMED cursor has taken a trigger at a clock instant: it seeks, or it runs, by a rebase where it was
overtaken; a rebuild makes its choice on the table of `s` (as `RebuildBegun` says). R170: a rebase sets REBASING, and
the LAGGING test is made on the records of `s`. -/
def Triggered (s : State) (now : Nat) (c d : Cursor) : Prop :=
  d.owner = c.owner ∧ d.options = c.options ∧ d.watches = c.watches ∧ d.probes = c.probes ∧ d.armedFrom = none ∧
    d.instant = c.instant ∧
    (∀ x, triggerTarget now c = some x →
      d.state = .seeking ∧ d.chain = true ∧ RebuildBegun s.live.checkpoints .seek x none d) ∧
    (triggerTarget now c = none →
      d.state = .running ∧ d.stepsLeft = 0 ∧ d.trailFrozen = false ∧ d.overtaken = none ∧
        (c.overtaken = none →
          d.op = .none ∧ d.image = c.image ∧ d.position = c.position ∧ d.trail = c.trail ∧ d.buffer = c.buffer ∧
            d.lagging = c.lagging) ∧
        (c.overtaken ≠ none →
          RebuildBegun s.live.checkpoints .rebase (c.instant.getD 0) c.overtaken d ∧
            LagTestedAfter s.history.records now c d))

/-- R119, R122, R172: the target of the rebuild that a trigger starts: of a chained seek, or of the rebase of an
overtaken cursor that plays from where it stands. -/
def triggerRebuild (now : Nat) (c : Cursor) : Option Nat :=
  (triggerTarget now c).orElse fun _ => if c.overtaken = none then none else some (c.instant.getD 0)

/-- R119, R124: the CURSOR_STATE of a triggered cursor. -/
def triggerNotice (now : Nat) (k : Slot) (c : Cursor) : Notice :=
  .cursorState k (if triggerTarget now c = none then .running else .seeking) .trigger c.instant

/-- R119, R124, R134: the notices a port takes of a trigger event: one CURSOR_STATE for each cursor of its own that the
event starts, and the BATCH_READY of flushes. -/
def TriggersTold (now : Nat) (hit : Cursor → Prop) (s : State) (q : PortId) (ns : List Notice) : Prop :=
  (∀ n ∈ ns, n.kind = .batchReady ∨
    ∃ k c, s.live.cursor k = some c ∧ hit c ∧ c.owner = q ∧ n = triggerNotice now k c) ∧
    ∀ k c, s.live.cursor k = some c → hit c → c.owner = q → ns.count (triggerNotice now k c) = 1

/-- R173: a clock mark reaches an ARMED cursor when the clock goes from one instant to another. -/
def MarkReaches (before after : Nat) (c : Cursor) : Prop :=
  c.state = .armed ∧ c.options.source = .clockMark ∧ before < c.options.windowStart ∧ c.options.windowStart ≤ after

/-! ### Placing, as the statements say it (R46, R48) -/

/-- R46, R48: the candidate an entry becomes when it is placed at a recorder time; none where its corrected time lies
off the grid. -/
def placedAt (v : ProcEnv) (driftBase : Option Nat) (q : Quality) (x : PendingEntry) (r : Nat) : Option Candidate :=
  let g := correct v.entry driftBase r
  if 0 ≤ g ∧ g ≤ 2 ^ 40 - 1 then
    some
      { time := g.toNat, point := x.point, state := x.state, quality := q, cause := x.cause
        source := { recorder := v.slot, seq := x.seq, idx := x.idx, recorderTime := r } }
  else none

/-- R48: the candidate of an entry with its recorder time, when it has one. -/
def placedOf (v : ProcEnv) (driftBase : Option Nat) (q : Quality) (x : PendingEntry × Option Nat) : Option Candidate :=
  x.2.bind (placedAt v driftBase q x.1)

/-- R48: the candidates of entries with their recorder times, in order. -/
def placedAll (v : ProcEnv) (driftBase : Option Nat) (q : Quality) (xs : List (PendingEntry × Option Nat)) :
    List Candidate := xs.filterMap (placedOf v driftBase q)

/-- R48: no candidate lies below the last record time as it stands when the candidate is placed. -/
def timesRise (last : Option Nat) (cs : List Candidate) : Prop :=
  (last.toList ++ cs.map Candidate.time).Pairwise (· ≤ ·)

/-- R48: the last record time after the candidates. -/
def lastRecordAfter (last : Option Nat) (cs : List Candidate) : Option Nat :=
  (cs.getLast?.map Candidate.time).orElse fun _ => last

/-- R48: the last known time after the entries: that of the last entry given a recorder time, dropped or not. -/
def lastKnownAfter (last : Option Nat) (xs : List (PendingEntry × Option Nat)) : Option Nat :=
  ((xs.filterMap Prod.snd).getLast?).orElse fun _ => last

/-- R46, R48: what placing entries in order raises: TIME_RANGE for one dropped, BACKWARD for one that falls below the
one before it. -/
def placingRaises (v : ProcEnv) (driftBase last : Option Nat) (q : Quality) (xs : List (PendingEntry × Option Nat)) :
    Cause → Prop
  | .timeRange => ∃ x ∈ xs, placedOf v driftBase q x = none
  | .backward => ¬timesRise last (placedAll v driftBase q xs)
  | _ => False

/-- The causes raised afterwards are those raised before and more. -/
def RaisesMore (before after : CauseSet) (more : Cause → Prop) : Prop :=
  ∀ c : Cause, after.holds c = true ↔ before.holds c = true ∨ more c

/-- R56: the entries of a pending list at their distance in ticks from an estimate base; none past 2^48 − 1. -/
def estimated (base unit : Nat) (xs : List PendingEntry) : List (PendingEntry × Option Nat) :=
  xs.map fun x => (x, if base + x.ticks * unit ≤ 2 ^ 48 - 1 then some (base + x.ticks * unit) else none)

/-- R50: the entries of a pending list at their distance in ticks before an anchor's recorder time; none below 0. -/
def backPlaced (anchor ticks unit : Nat) (xs : List PendingEntry) : List (PendingEntry × Option Nat) :=
  xs.map fun x => (x, if (ticks - x.ticks) * unit ≤ anchor then some (anchor - (ticks - x.ticks) * unit) else none)

/-! ### Merges and their notices, as the statements say it (R75 to R77) -/

/-- R75, R76: a recorder's flags, mask and noted after a merge of causes. -/
def Merged (c d : Context) (raised : Cause → Prop) : Prop :=
  RaisesMore c.flags d.flags raised ∧ d.mask = c.mask ∧ (d.noted = true ↔ c.noted = true ∨ d.flags ≠ c.flags)

/-- R77: the RECORDER_ATTENTION of a rising edge, for a port with its subscriptions. -/
def risen (r : RecId) (c d : Context) (subs : Subs) : List Notice :=
  if subs.attention ∧ c.flags &&& c.mask = 0 ∧ d.flags &&& d.mask ≠ 0 then
    [.recorderAttention r d.flags d.mask d.noted]
  else []

/-- R5: the STORE notice, for a port with its subscriptions. -/
def storeTold (phase : Phase) (commitCount : Nat) (subs : Subs) : List Notice :=
  if subs.store then [.store phase commitCount] else []

/-- R71: the SEGMENT_DONE of a finished segment, for a port with its subscriptions. -/
def segmentTold (g : QueuedSegment) (o : SegOutcome) (committed corroborations : Nat) (entry : Option Nat) (q : PortId)
    (subs : Subs) : List Notice :=
  if q = g.port ∨ subs.segmentsAll then [.segmentDone g.port g.recorder g.seq o committed corroborations entry] else []

/-! ### Commits at the cursors and the checkpoints, as the statements say it (R21, R22, R85 to R88) -/

/-- R22: the overtake record of a cursor whose comparison time is given, after a commit. -/
def Overtakes (compare : Option Nat) (touched : List Touched) (before after : Option Overtake) : Prop :=
  match compare with
  | none => after = before
  | some t =>
      let behind := touched.filter fun x => x.times.any fun y => decide (y ≤ t)
      let times := (before.map Overtake.earliest).toList ++
        (behind.flatMap Touched.times).filter fun y => decide (y ≤ t)
      (behind = [] → after = before) ∧
        (behind ≠ [] → ∃ o, after = some o ∧ o.earliest ∈ times ∧ (∀ y ∈ times, o.earliest ≤ y) ∧
          o.count = min (before.elim 0 Overtake.count + behind.length) 65535)

/-- R22, R114, R117, R122, R158, R170: a commit with these touched records, which led to the state `t`, makes `d` of the
open cursor `c`. -/
def AfterCommit (t : State) (touched : List Touched) (c d : Cursor) : Prop :=
  let compare : Option Nat :=
    match c.op with
    | .rebuild f => some f.target
    | _ => c.instant
  let released : Bool := touched.any fun y => keyAfter y.key c.position
  let held := c.pendingHold ≠ none ∨ c.underStep = true ∧ c.stepsLeft = 0
  ∃ o, Overtakes compare touched c.overtaken o ∧ d.owner = c.owner ∧ d.options = c.options ∧ d.watches = c.watches ∧
    d.instant = c.instant ∧ d.armedFrom = c.armedFrom ∧ d.snap = c.snap ∧
    ((c.state ≠ .running ∨ c.op ≠ .none ∨ c.probes ≠ [] ∨ c.redo = true ∨ ¬held ∧ o = none) →
      LagTested t.history.records t.clock.instant c d.lagging ∧
        d = { c with
              overtaken := o, atHead := c.atHead && !released, parked := c.parked && !(c.atHead && released)
              lagging := d.lagging, probes := d.probes }) ∧
    (c.state = .running → c.op = .none → c.probes = [] →
      ∃ lag : Bool, LagTested t.history.records t.clock.instant c lag ∧
        AtBoundary t { c with overtaken := o, lagging := lag } d) ∧
    (c.probes = [] → d.probes = []) ∧
    ∀ (q : Probe) (rest : List Probe), c.probes = q :: rest →
      (∀ w, q.work = some w →
        (∃ y ∈ touched, y.point = q.point ∧ ∃ z ∈ y.times, z ≤ q.instant) →
        ∃ v, d.probes = { q with work := some v } :: rest ∧ v.lastRead = none ∧ v.answer.quality = none ∧
          v.chosen = (t.live.checkpoints.choose q.instant).1.map Checkpoint.instant) ∧
      (∀ w, q.work = some w →
        (∀ y ∈ touched, y.point = q.point → ∀ z ∈ y.times, q.instant < z) → d.probes = c.probes) ∧
      (q.work = none → (c.state ≠ .running ∨ c.op ≠ .none) → d.probes = c.probes)

/-- R88: after a commit of this reach an entry is valid when it was and lies before the reach. -/
def Invalidated (reach : Option Nat) (t u : CheckpointTable) : Prop :=
  ∀ i : CkptId, (u.entries.get i).valid = true ↔
    (t.entries.get i).valid = true ∧ ∀ r ∈ reach, (t.entries.get i).instant < r

/-- R85: the least boundary at or after the standing instant within a limit. -/
def Eligible (interval : Nat) (standing : Option Nat) (within : Nat → Prop) (b : Nat) : Prop :=
  interval ∣ b ∧ (∀ x ∈ standing, x ≤ b) ∧ within b ∧
    ∀ d, interval ∣ d → (∀ x ∈ standing, x ≤ d) → within d → b ≤ d

/-- R84, R86, R87: a checkpoint is created in the victim, with the advanced use counter as its stamp; every other entry
stands, renumbered where the advance called for it. -/
def Created (b : Nat) (image : Image) (position : Option Key) (t u : CheckpointTable) : Prop :=
  ∃ w : CheckpointTable, Advancing t w ∧ u.counter = w.counter + 1 ∧
    ∃ i : CkptId,
      ((t.entries.get i).valid = false ∧ (∀ j : CkptId, j.val < i.val → (t.entries.get j).valid = true) ∨
        (∀ j : CkptId, (t.entries.get j).valid = true) ∧
          ∀ j : CkptId, (t.entries.get i).stamp ≤ (t.entries.get j).stamp) ∧
      u.entries.get i =
        { instant := b, valid := true, image := image, position := position, stamp := w.counter + 1 } ∧
      ∀ j : CkptId, j ≠ i → u.entries.get j = w.entries.get j

/-- R84 to R87: what a cursor's read does to the Checkpoint Table. That the standing instant of a step is the cursor
instant also where the cursor stands past it is the model's choice (log 58). -/
def CheckpointRule (study : Study) (c : Cursor) (standing : Option Nat) (within : Nat → Prop) (t u : CheckpointTable) :
    Prop :=
  1 ≤ study.interval →
    let eligible := Eligible (study.interval * 1000000) standing within
    (∀ b, eligible b → c.overtaken = none →
      (∀ i : CkptId, (t.entries.get i).valid = true → (t.entries.get i).instant ≠ b) →
      Created b (c.image.getD []) c.position t u) ∧
    ((c.overtaken ≠ none ∨ (∀ b, ¬eligible b) ∨
        ∃ b, eligible b ∧ ∃ i : CkptId, (t.entries.get i).valid = true ∧ (t.entries.get i).instant = b) →
      u = t)

/-! ### The payload of SET_CURSOR, as the statements say it (R104, R187, Table 11-9) -/

/-- R187: the payload fits its layout: its length, some option present, no reserved bit or byte set, every code
defined (log 12). -/
def PayloadFits (payload : List Byte) : Prop :=
  payload.length = 34 ∧ 0 < leAt payload 0 2 ∧ leAt payload 0 2 < 2048 ∧
    (∀ i, 11 ≤ i → i < 18 → byteAt payload i = 0) ∧
    byteAt payload 2 ≤ 1 ∧ byteAt payload 3 ≤ 1 ∧ byteAt payload 4 ≤ 1 ∧ byteAt payload 6 ≤ 1 ∧
    byteAt payload 7 ≤ 1 ∧ byteAt payload 8 ≤ 3 ∧
    (byteAt payload 9 ≤ 2 ∨ 16 ≤ byteAt payload 9 ∧ byteAt payload 9 ≤ 23) ∧ byteAt payload 10 ≤ 1

/-- R104, R187: each option present in the mask takes its field of Table 11-9, each absent one keeps its value; loop
and split are 1 for yes (log 53). -/
def OptionsWritten (now : Options) (payload : List Byte) (o : Options) : Prop :=
  let has (i : Nat) : Prop := (leAt payload 0 2).testBit i = true
  (has 0 → o.pacing.code = byteAt payload 2) ∧ (¬has 0 → o.pacing = now.pacing) ∧
  (has 1 → o.windowStart = leAt payload 18 8) ∧ (¬has 1 → o.windowStart = now.windowStart) ∧
  (has 2 → o.windowEnd.getD (2 ^ 64 - 1) = leAt payload 26 8) ∧ (¬has 2 → o.windowEnd = now.windowEnd) ∧
  (has 3 → bitAt 0 o.loop = byteAt payload 3) ∧ (¬has 3 → o.loop = now.loop) ∧
  (has 4 → o.mode.code = byteAt payload 4) ∧ (¬has 4 → o.mode = now.mode) ∧
  (has 5 → o.batchSize = byteAt payload 5) ∧ (¬has 5 → o.batchSize = now.batchSize) ∧
  (has 6 → bitAt 0 o.split = byteAt payload 6) ∧ (¬has 6 → o.split = now.split) ∧
  (has 7 → o.form.code = byteAt payload 7) ∧ (¬has 7 → o.form = now.form) ∧
  (has 8 → o.presentation.code = byteAt payload 8) ∧ (¬has 8 → o.presentation = now.presentation) ∧
  (has 9 → o.source.code = byteAt payload 9) ∧ (¬has 9 → o.source = now.source) ∧
  (has 10 → o.action.code = byteAt payload 10) ∧ (¬has 10 → o.action = now.action)

/-- R104: what the options satisfy together, and the instants written. -/
def OptionsAgree (own : Slot) (payload : List Byte) (o : Options) : Prop :=
  ((leAt payload 0 2).testBit 1 = true → o.windowStart ≤ 2 ^ 40 - 1) ∧
    ((leAt payload 0 2).testBit 2 = true → ∀ e ∈ o.windowEnd, e ≤ 2 ^ 40 - 1) ∧
    (∀ e ∈ o.windowEnd, o.windowStart ≤ e) ∧ (o.loop = true → o.windowEnd ≠ none ∧ o.pacing = .freeRun) ∧
    1 ≤ o.batchSize ∧ o.batchSize ≤ (if o.split then 8 else 16) ∧ o.source ≠ .cursor own

/-! ### Fields of a laid-out body (R185), and the LOAD_SEGMENT body (R41, R188, Tables 11-3 and 11-4) -/

/-- R185: the field of `n` bytes at an offset lies in the body and holds a number, least significant byte first. -/
def FieldIs (bs : List Byte) (off n v : Nat) : Prop := off + n ≤ bs.length ∧ leAt bs off n = v % 256 ^ n

/-- Table 11-4: the units of an entry. -/
def SegEntry.units : SegEntry → List Byte
  | .anchor d a q => le 1 1 ++ le 1 q.code ++ le 2 d ++ le 4 0 ++ le 6 a ++ le 2 0
  | .step d n => le 1 2 ++ le 1 0 ++ le 2 d ++ le 4 n
  | .change d ch st cause => le 1 3 ++ le 1 (swStateCode st) ++ le 2 d ++ le 2 ch ++ le 1 (cause.getD 0) ++ le 1 0
  | .loss d lost => le 1 4 ++ le 1 0 ++ le 2 d ++ le 2 (lost.getD 0) ++ le 2 0

/-- R188: the body cut, from its first unit, into what its entries take: a unit whose first byte is 1 takes the unit
after it with it, any other stands alone, and the entries exhaust the body exactly. -/
def EntryUnits (bs : List Byte) (parts : List (List Byte)) : Prop :=
  bs = parts.flatten ∧ ∀ u ∈ parts, u.length = if byteAt u 0 = 1 then 16 else 8

/-- Table 3-1: the ranges of an entry's fields. -/
def SegEntry.inRange : SegEntry → Prop
  | .anchor d a _ => d < 65536 ∧ a < 2 ^ 48
  | .step d n => d < 65536 ∧ n < 2 ^ 32
  | .change d ch _ cause => d < 65536 ∧ ch < 65536 ∧ ∀ x ∈ cause, 1 ≤ x ∧ x ≤ 255
  | .loss d lost => d < 65536 ∧ ∀ x ∈ lost, 1 ≤ x ∧ x ≤ 65535

/-! ### Table 10-2: the request codes (R185 numbers them from 1 in the table's order) -/

/-- The port whose frame a request command takes, and the code of the request. -/
def requestOf : Instr → Option (PortId × Nat)
  | .describe p => some (p, 1)
  | .subscribe p _ => some (p, 2)
  | .beginCollection p => some (p, 3)
  | .sealHistory p => some (p, 4)
  | .clearHistory p => some (p, 5)
  | .readRecords p _ _ _ _ => some (p, 6)
  | .readGaps p _ _ _ => some (p, 7)
  | .setPoint p _ _ => some (p, 8)
  | .setRecorder p _ _ _ _ _ _ => some (p, 9)
  | .setMapBlock p _ _ _ => some (p, 10)
  | .setStudy p _ _ _ _ => some (p, 11)
  | .setEventZero p _ => some (p, 12)
  | .loadSegment p => some (p, 13)
  | .cancelSegment p _ _ => some (p, 14)
  | .readRecorder p _ => some (p, 15)
  | .setAttentionMask p => some (p, 16)
  | .clearCauses p => some (p, 17)
  | .openCursor p => some (p, 18)
  | .readCursor p _ => some (p, 19)
  | .setCursor p _ _ => some (p, 20)
  | .seek p _ _ _ => some (p, 21)
  | .play p _ _ => some (p, 22)
  | .step p _ _ => some (p, 23)
  | .hold p _ => some (p, 24)
  | .stop p _ => some (p, 25)
  | .arm p _ => some (p, 26)
  | .snapshot p _ _ _ _ => some (p, 27)
  | .closeCursor p _ => some (p, 28)
  | .fetch p _ => some (p, 29)
  | .probe p _ _ _ _ => some (p, 30)
  | .setWatch p _ _ _ _ => some (p, 31)
  | .clearWatch p _ _ => some (p, 32)
  | .readWatches p _ _ => some (p, 33)
  | .readTrail p _ => some (p, 34)
  | .takeClock p _ => some (p, 35)
  | .releaseClock p => some (p, 36)
  | .readClock p => some (p, 37)
  | .clockRun p => some (p, 38)
  | .clockPause p => some (p, 39)
  | .clockSet p _ => some (p, 40)
  | .clockRate p _ => some (p, 41)
  | .setLease p _ => some (p, 42)
  | _ => none

/-- The slot that a controlling request names: a request of Table 10-2 that the cursor's owner alone may send. -/
def controlledSlot : Instr → Option Nat
  | .setCursor _ k _ | .seek _ k _ _ | .play _ k _ | .step _ k _ | .hold _ k | .stop _ k | .arm _ k
  | .snapshot _ k _ _ _ | .closeCursor _ k | .fetch _ k | .probe _ k _ _ _ | .setWatch _ k _ _ _ | .clearWatch _ k _
  | .readWatches _ k _ | .readTrail _ k => some k
  | _ => none

/-! ### The store (R2 to R4, R14, R17) -/

/-- R3, R4: one record for each commit number from 1 to the commit count, the count within capacity, and the greatest
committed time that of the records. -/
def History.counted (h : History) : Prop :=
  (h.records.map Record.commit).Perm (List.range' 1 h.commitCount) ∧ h.commitCount ≤ Config.storeCapacity ∧
    h.greatest = greatestTime h.records

/-- R2: strictly ascending key order. -/
def History.ordered (h : History) : Prop := h.records.Pairwise fun a b => keyBefore a.key b.key = true

/-- R14, R17: 1 to 4 sources for each record, no two from one recorder slot, and no source in two places. -/
def History.sourced (h : History) : Prop :=
  (∀ r ∈ h.records, r.sources.length ≤ Config.sourceCapacity ∧ r.sources.Pairwise fun a b => a.recorder ≠ b.recorder) ∧
    (h.records.flatMap Record.sources).Pairwise fun a b => a.same b = false

/-- The laws of the store. -/
def StoreLaw (s : State) : Prop := s.history.counted ∧ s.history.ordered ∧ s.history.sourced

/-! ### SETUP (R5) -/

/-- R5, R10, R64: in SETUP the store, the Gap List and the Segment Queue are empty, every checkpoint is invalid and
every cursor slot FREE. -/
def SetupLaw (s : State) : Prop :=
  s.history.phase = .setup →
    s.history.records = [] ∧ s.history.commitCount = 0 ∧ s.gaps = [] ∧ s.merge.queue = [] ∧
      (∀ i : CkptId, (s.live.checkpoints.entries.get i).valid = false) ∧ ∀ k : Slot, s.live.cursor k = none

/-! ### The Configuration Tables (R25 to R37) -/

/-- R25 to R29: every field in its range. -/
def Tables.ranged (t : Tables) : Prop :=
  (∀ p : PointId, (t.points.get p).station ≤ 255) ∧
    (∀ r : RecId,
      let x := t.recorders.get r
      (x.tickUnit = 1 ∨ x.tickUnit = 10 ∨ x.tickUnit = 100 ∨ x.tickUnit = 1000) ∧
        -(Config.maxGrid : Int) ≤ x.offset ∧ x.offset ≤ (Config.maxGrid : Int) ∧ -500 ≤ x.drift ∧ x.drift ≤ 500 ∧
        (∀ b ∈ x.fallback, b ≤ Config.maxRecorderTime) ∧
        ∀ i : BlockId, ∀ b ∈ x.blocks.get i, b.first ≤ 65535 ∧ 1 ≤ b.count ∧ b.count ≤ 4096 ∧ b.base ≤ 4095) ∧
    t.study.eventZero ≤ Config.maxGrid ∧ t.study.window ≤ 65535 ∧ 1 ≤ t.study.stepThreshold ∧
    t.study.stepThreshold ≤ 1000000 ∧ 1 ≤ t.study.interval ∧ t.study.interval ≤ 3600

/-- R6, R31: the tables in range, and outside SETUP as validation passed them. -/
def TablesLaw (s : State) : Prop :=
  s.tables.ranged ∧ (s.history.phase ≠ .setup → tableFault s.tables = none)

/-! ### Recorder contexts and the Merge Engine (R43, R49, R62, R64, R66, R72) -/

/-- R43, R49, R62: what a timing state goes with. -/
def Timing.lawful (t : Timing) : Prop :=
  t.pendingList.length ≤ Config.pendingCapacity ∧ (t.pendingList ≠ [] → t.state = .unanchored) ∧
    (t.running.isSome ↔ t.state ≠ .unanchored) ∧ (t.baseQuality.isSome ↔ t.state = .anchored) ∧
    (t.openGap.isSome → t.state ≠ .anchored)

/-- R64, R66, R72: the queue and the finished lists within capacity; while the part runs, a segment is in progress
exactly when the queue is not empty, and its working copy equals the committed timing, with nothing staged. -/
def MergeLaw (s : State) : Prop :=
  s.merge.queue.length ≤ Config.queueCapacity ∧
    (∀ p : PortId, (s.merge.finished.get p).length ≤ Config.finishedCapacity) ∧
    (s.resetLow = false → s.merge.work.isSome = !s.merge.queue.isEmpty) ∧
    ∀ g ∈ s.merge.queue.head?, ∀ w ∈ s.merge.work,
      w.working = (s.contexts.get g.recorder).timing ∧ w.staged = [] ∧ w.stagedGaps = []

/-- The laws of the recorder contexts, the Merge Engine and the Gap List. -/
def IngestLaw (s : State) : Prop :=
  MergeLaw s ∧ (∀ r : RecId, (s.contexts.get r).timing.lawful) ∧ s.gaps.length ≤ Config.gapCapacity

/-! ### The Common Clock (R159 to R164) -/

/-- Table 9-1 and R160, R164: the clock's own ranges; the pacing timer runs exactly while the clock is RUNNING, the
lease timer exactly while some port controls it. -/
def Clock.lawful (c : Clock) : Prop :=
  c.instant ≤ Config.maxGrid ∧ 1 ≤ c.rate ∧ c.rate ≤ 65535 ∧ 1 ≤ c.leasePeriod ∧ c.leasePeriod ≤ 3600 ∧
    (c.pacing.isSome ↔ c.run = .running) ∧ (c.leaseLeft.isSome ↔ c.controller.isSome) ∧
    (∀ t ∈ c.pacing, t ≤ 1) ∧ (∀ t ∈ c.leaseLeft, t ≤ 3600000)

/-- R161: the waiting list holds no port twice and not the controlling port, a free clock has none waiting, and every
port in either role is UP. -/
def ClockLaw (s : State) : Prop :=
  s.clock.lawful ∧ s.clock.waitList.Nodup ∧ (∀ p ∈ s.clock.controller, p ∉ s.clock.waitList) ∧
    (s.clock.controller = none → s.clock.waitList = []) ∧
    (∀ p ∈ s.clock.controller, (s.live.port p).up = true) ∧ ∀ p ∈ s.clock.waitList, (s.live.port p).up = true

/-! ### Ports (R174 to R178) -/

/-- Table 10-1 and R178: the queues within capacity, the dropped record empty while no notice is lost, the response's
place among the queued notices, and everything empty while the link is DOWN. -/
def Port.lawful (p : Port) : Prop :=
  p.requests.length ≤ Config.requestCapacity ∧ p.notices.length ≤ Config.noticeCapacity ∧
    p.droppedCount ≤ Config.countLimit ∧ (p.lost = false → p.droppedCount = 0 ∧ p.droppedKinds = []) ∧
    (∀ h ∈ p.response, h.ahead ≤ p.notices.length) ∧
    (p.up = false →
      p.requests = [] ∧ p.response = none ∧ p.notices = [] ∧ p.lost = false ∧ p.subs = Subs.empty ∧ p.turn = none)

/-- R174, R180: every port is lawful, and while the part runs every open cursor's owner is UP. -/
def PortLaw (s : State) : Prop :=
  (∀ p : PortId, (s.live.port p).lawful) ∧
    (s.resetLow = false → ∀ k : Slot, ∀ c ∈ s.live.cursor k, (s.live.port c.owner).up = true)

/-! ### Cursors (R118, R123, R142, R151, R154) -/

/-- Table 6-3, R123: the states in which a cursor has an operation in flight; `snap` is that a snapshot is too. -/
def opFits (snap : Bool) (st : CursorState) : Op → Bool
  | .none => true
  | .rebuild r =>
      match r.kind with
      | .seek => st == .seeking
      | .wrap => st == .running
      | .rebase => st == .running || (snap && (st == .held || st == .ended))
  | .seekDone => st == .seeking
  | .serving => st == .seeking
  | .rebaseDone => st == .running || (snap && (st == .held || st == .ended))
  | .step _ => st == .running
  | .ending _ => st == .running
  | .wrapping => st == .running
  | .heading => st == .running

/-- R104, R130, R132, R133, R137: what a delivery buffer holds in each mode: at most 16 unfetched items, one completed
batch in unsplit mode and no two of one half in split mode, and nothing is written beside a batch that leaves no room.
-/
def Buffer.lawful (o : Options) (b : Buffer) : Prop :=
  1 ≤ o.batchSize ∧ o.batchSize ≤ (if o.split then 8 else 16) ∧
    b.writing.length + (b.completed.map fun x => x.items.length).sum + b.outgoing.length ≤ 16 ∧
    (o.mode = .push → b.writing = [] ∧ b.completed = []) ∧
    (o.mode = .notice →
      b.outgoing = [] ∧ b.writing.length < o.batchSize ∧ (∀ x ∈ b.completed, x.items.length ≤ o.batchSize) ∧
        (o.split = false → b.completed.length ≤ 1 ∧ (b.completed ≠ [] → b.writing = [])) ∧
        (o.split = true →
          (b.completed.map Batch.half).Nodup ∧ (∀ x ∈ b.completed, x.half ≠ none ∧ x.half ≠ b.half) ∧
            (b.half = none → b.writing = [])))

/-- R99, R118, R123, R151, R154: a cursor's queues within capacity, armed-from present exactly in ARMED, a snapshot only
in HELD or ENDED, its buffer lawful, and an operation in flight only in a state that has it. -/
def Cursor.lawful (c : Cursor) : Prop :=
  c.probes.length ≤ Config.probeCapacity ∧ c.trail.length ≤ Config.trailCapacity ∧
    (c.armedFrom.isSome ↔ c.state = .armed) ∧ (c.snap.isSome → c.state = .held ∨ c.state = .ended) ∧
    c.stepsLeft ≤ 4096 ∧ c.buffer.lawful c.options ∧ opFits c.snap.isSome c.state c.op = true ∧
    ∀ f, c.op = .step f → f.undo.trail.length ≤ Config.trailCapacity ∧ f.undo.stepsLeft ≤ 4096

/-- Every open cursor is lawful. -/
def CursorLaw (s : State) : Prop := ∀ k : Slot, ∀ c ∈ s.live.cursor k, c.lawful

/-! ### Images and checkpoints against the store (R83, R85, R88, R92, R94, R101, R157) -/

/-- An image holds what the records at or before a position, in key order, make of the Initial Image: for each point the
cell of the last of them. -/
def Agrees (rs : List Record) (pos : Option Key) (img : Image) : Prop :=
  ∀ p : PointId,
    Image.cell img p = ((rs.filter fun r => r.point == p && !keyAfter r.key pos).getLast?).map Record.cell

/-- A position is "before first" or the key of a record. -/
def AtRecord (rs : List Record) (pos : Option Key) : Prop := ∀ q ∈ pos, ∃ r ∈ rs, r.key = q

/-- R22, R92, R101, R157: the image of a cursor that is not overtaken agrees with the store at its position, and so does
what an abort of its step would restore; a rebuild's position stands at or before its standing instant and its target.
-/
def Cursor.replayed (rs : List Record) (c : Cursor) : Prop :=
  (c.overtaken = none → Agrees rs c.position (c.image.getD []) ∧ AtRecord rs c.position) ∧
    (∀ f, c.op = .step f →
      (∀ q ∈ f.undo.position, ∃ x ∈ c.position, q.time ≤ x.time) ∧
        (c.overtaken = none →
          Agrees rs f.undo.position (Image.restore (c.image.getD []) f.undo.point f.undo.cell) ∧
            AtRecord rs f.undo.position)) ∧
    ∀ f, c.op = .rebuild f →
      (∀ x ∈ f.standing, x ≤ f.target) ∧ ∀ q ∈ c.position, ∃ x ∈ f.standing, q.time ≤ x

/-- R83, Table 5-1: a valid checkpoint stands at a boundary, with the image of every record up to its instant and the
key of the last of them. -/
def Checkpoint.replayed (rs : List Record) (interval : Nat) (x : Checkpoint) : Prop :=
  x.valid = true →
    interval ∣ x.instant ∧ Agrees rs x.position x.image ∧ AtRecord rs x.position ∧
      ∀ r ∈ rs, r.time ≤ x.instant ↔ keyAfter r.key x.position = false

/-- R83, R101: the images of the cursors and of the Checkpoint Table agree with the store; no two valid checkpoints
stand at one instant. -/
def ReplayLaw (s : State) : Prop :=
  (∀ k : Slot, ∀ c ∈ s.live.cursor k, c.replayed s.history.records) ∧
    (∀ i : CkptId,
      (s.live.checkpoints.entries.get i).replayed s.history.records (s.tables.study.interval * 1000000)) ∧
    ∀ i j : CkptId, (s.live.checkpoints.entries.get i).valid = true →
      (s.live.checkpoints.entries.get j).valid = true →
      (s.live.checkpoints.entries.get i).instant = (s.live.checkpoints.entries.get j).instant → i = j

/-- No cursor without a rebuild in flight stands past its instant. It fails for a bound cursor sought past the clock
(log 39), which as a FREE_RUN one may then create a checkpoint whose image holds later records (log 58). -/
def NotPast (s : State) : Prop :=
  ∀ k : Slot, ∀ c ∈ s.live.cursor k, (∀ f, c.op ≠ .rebuild f) → ∀ q ∈ c.position, ∃ x ∈ c.instant, q.time ≤ x

end Sys2Proof.Machine
end

