-- ==== Sys2Proof/Certificates/Slice0/Obligations.lean ====
section
/-!
DEFINITION. The statements for the provers. Each docstring names the rules it formalises; a clause that rests on the model's own
choice names the log entry.
-/

open Sys2Proof Sys2Proof.Machine

/-! ### The queue of commands, the lines and the links -/

/-- One step takes the command at the front of the queue and runs it on the queue's rest. The queue itself is the
model's (log 3). -/
def Obligations.StepTakesFront : Prop :=
  ∀ (c : Instr) (rest : List Instr) (s : State),
    s.pending = c :: rest → Machine.step s = exec c { s with pending := rest }

/-- Every command completes in every state: no command faults or is refused, and none touches the queue of commands. A
command that the state does not admit leaves the state as it is (log 1). -/
def Obligations.EveryCommandCompletes : Prop :=
  ∀ (c : Instr) (s : State), ∃ t, exec c s = .next t ∧ t.pending = s.pending

/-- R183, R5, R29, R125, Tables 1-7, 2-1, 2-3, 2-4, 3-2, 4-2, 9-1, 10-1: the part after reset, field by field; and the
laws that every step keeps hold of it. -/
def Obligations.PartAfterReset : Prop :=
  (let s := State.reset
   s.resetLow = false ∧ s.pending = [] ∧
     s.history.phase = .setup ∧ s.history.records = [] ∧ s.history.commitCount = 0 ∧ s.history.greatest = none ∧
     (∀ p : PointId, s.tables.points.get p = { enabled := false, station := 0, kind := .breaker, initial := .unknown }) ∧
     (∀ r : RecId, (s.tables.recorders.get r).enabled = false ∧ (s.tables.recorders.get r).tickUnit = 1000 ∧
       (s.tables.recorders.get r).offset = 0 ∧ (s.tables.recorders.get r).drift = 0 ∧
       (s.tables.recorders.get r).fallback = none ∧ ∀ b : BlockId, (s.tables.recorders.get r).blocks.get b = none) ∧
     s.tables.study = { epoch := 0, eventZero := 0, window := 2000, stepThreshold := 1000, interval := 10 } ∧
     (∀ r : RecId, (s.contexts.get r).timing.state = .unanchored ∧ (s.contexts.get r).timing.running = none ∧
       (s.contexts.get r).timing.baseQuality = none ∧ (s.contexts.get r).timing.driftBase = none ∧
       (s.contexts.get r).timing.lastKnown = none ∧ (s.contexts.get r).timing.lastRecord = none ∧
       (s.contexts.get r).timing.lastAnchor = none ∧ (s.contexts.get r).timing.pendingList = [] ∧
       (s.contexts.get r).timing.tickCount = 0 ∧ (s.contexts.get r).timing.openGap = none ∧
       (s.contexts.get r).timing.lastSeq = none ∧ (s.contexts.get r).flags = 0 ∧ (s.contexts.get r).mask = 0 ∧
       (s.contexts.get r).noted = false) ∧
     s.gaps = [] ∧ s.merge.queue = [] ∧ s.merge.work = none ∧ (∀ p : PortId, s.merge.finished.get p = []) ∧
     (∀ i : CkptId, (s.live.checkpoints.entries.get i).valid = false) ∧ s.live.checkpoints.counter = 0 ∧
     (∀ k : Slot, s.live.cursor k = none) ∧
     s.clock = { instant := 0, run := .stopped, rate := 1000, controller := none, waitList := [], leasePeriod := 60
                 leaseLeft := none, pacing := none } ∧
     ∀ p : PortId, (s.live.port p).up = false ∧ (s.live.port p).requests = [] ∧ (s.live.port p).response = none ∧
       (s.live.port p).notices = [] ∧ (s.live.port p).lost = false ∧ (s.live.port p).droppedCount = 0 ∧
       (s.live.port p).droppedKinds = [] ∧ (s.live.port p).turn = none ∧
       (s.live.port p).subs = { attention := false, segmentsAll := false, clock := false, store := false }) ∧
  (StoreLaw State.reset ∧ SetupLaw State.reset ∧ TablesLaw State.reset ∧ IngestLaw State.reset ∧
     ClockLaw State.reset ∧ PortLaw State.reset ∧ CursorLaw State.reset)

/-- R183, R174: power-on, and the rising edge of RESET_N after it was low, leave every block at its power-on values,
with the queue of commands, which is the model's, kept. The fall of RESET_N takes every link down with the port's
contents and ends the operations in flight without a response or a notice; the store, the tables, the contexts, the
gaps, the Segment Queue, the checkpoints stand until the rising edge, and so does the clock but for the ports' roles at
it, which end with their links (R161, log 11). While RESET_N is low no command but its two edges and power-on has any
effect. -/
def Obligations.ResetLinesAct : Prop :=
  (∀ s : State,
     exec .powerOn s = .next { State.reset with pending := s.pending } ∧
       (s.resetLow = true → exec .resetRelease s = .next { State.reset with pending := s.pending })) ∧
  (∀ s : State, ∃ t, exec .resetAssert s = .next t ∧
     t.resetLow = true ∧ t.merge.work = none ∧ t.merge.queue = s.merge.queue ∧ t.merge.finished = s.merge.finished ∧
     (∀ p : PortId, t.live.port p = Port.reset) ∧
     (∀ k : Slot, s.live.cursor k = none → t.live.cursor k = none) ∧
     (∀ (k : Slot) (c : Cursor), s.live.cursor k = some c →
       t.live.cursor k =
         some { c with op := .none, snap := none, probes := [], buffer := { c.buffer with waiting := none } }) ∧
     t.history = s.history ∧ t.tables = s.tables ∧ t.contexts = s.contexts ∧ t.gaps = s.gaps ∧
     t.clock = { s.clock with controller := none, waitList := [], leaseLeft := none } ∧
     t.live.checkpoints = s.live.checkpoints ∧ t.pending = s.pending) ∧
  (∀ (c : Instr) (s : State), s.resetLow = true → c ≠ .powerOn → c ≠ .resetAssert → c ≠ .resetRelease →
     exec c s = .next s)

/-- R174, Table 10-1: link training completes on a DOWN link. R180, R163, R164: link-down empties the port, closes its
cursors, ends its role at the clock, and leaves the rest. R164, R163, R167: a controlling port that goes down acts as
its RELEASE_CLOCK: the port promoted takes CLOCK_GRANTED, then each port subscribed to CLOCK takes CLOCK with cause
CONTROL, as the clock stands after the change; no CLOCK_LOST and no other notice is sent. -/
def Obligations.LinksComeAndGo : Prop :=
  (∀ (s : State) (p : PortId), s.resetLow = false → (s.live.port p).up = false →
     exec (.linkUp p) s =
       .next (s.withLive (s.live.setPort p
         { up := true, requests := [], response := none, notices := [], lost := false, droppedCount := 0
           droppedKinds := [], subs := Subs.empty, turn := none, sent := none }))) ∧
  (∀ (s : State) (p : PortId), s.resetLow = false → (s.live.port p).up = true →
     ∃ t, exec (.linkDown p) s = .next t ∧ t.live.port p = Port.reset ∧
       (∀ (k : Slot) (c : Cursor), s.live.cursor k = some c → c.owner = p → t.live.cursor k = none) ∧
       (∀ (k : Slot) (c : Cursor), s.live.cursor k = some c → c.owner ≠ p → t.live.cursor k = some c) ∧
       (∀ k : Slot, s.live.cursor k = none → t.live.cursor k = none) ∧
       (s.clock.controller ≠ some p → t.clock = { s.clock with waitList := s.clock.waitList.filter fun q => q != p } ∧
         ∀ q : PortId, q ≠ p → t.live.port q = s.live.port q) ∧
       (s.clock.controller = some p → s.clock.waitList = [] →
         t.clock = { s.clock with controller := none, leaseLeft := none }) ∧
       (∀ (q : PortId) (rest : List PortId), s.clock.controller = some p → s.clock.waitList = q :: rest →
         t.clock = { s.clock with controller := some q, waitList := rest
                                  leaseLeft := some (s.clock.leasePeriod * 1000) }) ∧
       (s.clock.controller = some p → ∀ q : PortId, q ≠ p →
         t.live.port q =
           (s.live.port q).takes
             ((if t.clock.controller = some q then
                 [.clockGranted s.clock.instant s.clock.run s.clock.rate s.clock.leasePeriod] else []) ++
               (if (s.live.port q).subs.clock then
                 [.clock .control s.clock.instant s.clock.run s.clock.rate t.clock.controller t.clock.waitList.length]
                else []))) ∧
       t.history = s.history ∧ t.tables = s.tables ∧ t.contexts = s.contexts ∧ t.gaps = s.gaps ∧ t.merge = s.merge ∧
       t.live.checkpoints = s.live.checkpoints ∧ t.resetLow = s.resetLow ∧ t.pending = s.pending)

/-- R182, R119: a rising edge of MARK_IN starts every ARMED cursor whose trigger source is LINE and touches no other
cursor. R119, R122, R172: one armed from HELD with action PLAY runs from where it stands, by a rebase where it is
overtaken; any other FREE_RUN one seeks, chained, toward its window start; a BOUND one plays from the clock instant, by
a chained seek unless it was armed from HELD at that instant. R124: each owner takes one CURSOR_STATE of cause TRIGGER
for each cursor of its own, with the state the cursor came to. R84, R91: each rebuild starts from the best checkpoint at
or below its target, the choices made one after the other in some order. R170: a rebase sets REBASING, and LAGGING is
tested as log 33 reads it. That a CURSOR_STATE of state SEEKING carries the instant the cursor stood at is the model's
deduction (log 27). -/
def Obligations.MarkInTriggersLineCursors : Prop :=
  ∀ s : State, s.resetLow = false →
    ∃ t, exec .markInEdge s = .next t ∧ SameStore s t ∧
      (∀ (k : Slot) (c : Cursor), s.live.cursor k = some c → c.state = .armed → c.options.source = .line →
        ∃ d, t.live.cursor k = some d ∧ Triggered s s.clock.instant c d) ∧
      (∀ (k : Slot) (c : Cursor), s.live.cursor k = some c → (c.state ≠ .armed ∨ c.options.source ≠ .line) →
        t.live.cursor k = some c) ∧
      (∀ q : PortId, ∃ ns : List Notice, t.live.port q = (s.live.port q).takes ns ∧
        TriggersTold s.clock.instant (fun c => c.state = .armed ∧ c.options.source = .line) s q ns) ∧
      ChosenInSomeOrder
        (fun c => if c.state = .armed ∧ c.options.source = .line then triggerRebuild s.clock.instant c else none) s t ∧
      ∀ k : Slot, s.live.cursor k = none → t.live.cursor k = none

/-! ### Frames and requests -/

/-- R175: a frame that arrives takes the end place of the port's request queue; a fifth is held by link flow, and a DOWN
link receives nothing. R175, R184, R185, Table 11-1: a frame is faulty exactly when the CRC-32, the body length, the
frame kind or a reserved field is at fault; one too short for header and CRC-32 is faulty too. A sound frame keeps code,
tag and body. -/
def Obligations.FramesAreQueuedAndChecked : Prop :=
  (∀ (s : State) (p : PortId) (bytes : List Byte),
     (s.resetLow = false → (s.live.port p).up = true → (s.live.port p).requests.length < 4 →
       exec (.frameReceive p bytes) s =
         .next (s.withLive (s.live.setPort p
           { s.live.port p with requests := (s.live.port p).requests ++ [receiveFrame bytes] }))) ∧
     ((s.resetLow = true ∨ (s.live.port p).up = false ∨ 4 ≤ (s.live.port p).requests.length) →
       exec (.frameReceive p bytes) s = .next s)) ∧
  (∀ bytes : List Byte,
     (receiveFrame bytes = .faulty ↔
       bytes.length < 16 ∨
       crc32 (bytes.take (bytes.length - 4)) ≠ BitVec.ofNat 32 (leAt bytes (bytes.length - 4) 4) ∨
       16392 < leAt bytes 6 2 ∨ leAt bytes 6 2 + 16 ≠ bytes.length ∨ byteAt bytes 0 ≠ 1 ∨ byteAt bytes 1 ≠ 0 ∨
       leAt bytes 8 4 ≠ 0) ∧
     (receiveFrame bytes ≠ .faulty →
       receiveFrame bytes =
         .sound (leAt bytes 2 2) (leAt bytes 4 2) ((bytes.drop 12).take (bytes.length - 16))))

/-- R175, R184, R185: a request frame formed by Table 11-1 is received as it was sent, for every code, every tag and
every body that a frame can carry. R189, Tables 11-5 to 11-7: the length of an item of each kind and every field at its
offset, least significant byte first (R185). R185, R187, R190, Tables 11-8 to 11-10: the same of the bodies of
READ_RECORDS, READ_GAPS, READ_CURSOR, READ_RECORDER, FETCH and PROBE_RESULT. R186, Table 11-2: the codes they carry, and
those that the other bodies and the requests carry. R185, Tables 10-3, 10-4, 3-4: the numbers of the response codes, the
notice kinds and the bits of a cause flag set. That a more flag is 1 when set, an absent lost count 0, the reserved byte
of "before first" 0, and the rest of an empty rebuild record absent, is the model's deduction (log 38); that the bytes
and bits which the tables neither name nor call reserved are 0, and that the loop and split bytes are 1 for yes and 0
for no, is its choice (logs 50, 53). -/
def Obligations.FrameRoundTrip : Prop :=
  (∀ (code tag : Nat) (body : List Byte), code < 65536 → tag < 65536 → body.length ≤ 16392 →
     receiveFrame (frameBytes 1 code tag body) = .sound code tag body) ∧
  (∀ (n : Nat) (r : RecordItem),
     let bs := Item.bytes { number := n, body := .record r }
     FieldIs bs 0 1 (if r.full.isSome then 1 else 2) ∧ FieldIs bs 2 2 n ∧
       FieldIs bs 4 8 (r.time % 2 ^ 64).toNat ∧ FieldIs bs 12 2 r.point.val ∧ FieldIs bs 14 1 (swStateCode r.state) ∧
       FieldIs bs 15 1 (qualityCode r.quality) ∧
       ((byteAt bs 1).testBit 0 = r.late ∧ (byteAt bs 1).testBit 1 = r.repositioned ∧
         (byteAt bs 1).testBit 2 = r.corroborated ∧ (byteAt bs 1).testBit 3 = r.noChange ∧
         byteAt bs 1 / 16 = r.presentation.code) ∧
       (r.full = none → bs.length = 16) ∧
       ∀ f, r.full = some f →
         bs.length = 24 + 16 * f.sources.length ∧ FieldIs bs 16 1 (f.cause.getD 0) ∧
           FieldIs bs 17 1 f.sources.length ∧ FieldIs bs 18 2 0 ∧ FieldIs bs 20 4 f.commit ∧
           ∀ (i : Nat) (x : Source), f.sources[i]? = some x →
             FieldIs bs (24 + 16 * i) 1 x.recorder.val ∧ FieldIs bs (25 + 16 * i) 1 0 ∧
               FieldIs bs (26 + 16 * i) 2 x.seq ∧ FieldIs bs (28 + 16 * i) 2 x.idx ∧ FieldIs bs (30 + 16 * i) 2 0 ∧
               FieldIs bs (32 + 16 * i) 8 x.recorderTime) ∧
  (∀ (n : Nat) (p : PointId) (st : PtState) (t commit : Option Nat),
     let bs := Item.bytes { number := n, body := .snap p st t commit }
     bs.length = 24 ∧ FieldIs bs 0 1 3 ∧ FieldIs bs 1 1 (ptStateCode st) ∧ FieldIs bs 2 2 n ∧ FieldIs bs 4 2 p.val ∧
       FieldIs bs 6 2 0 ∧ FieldIs bs 8 8 (t.getD (2 ^ 64 - 1)) ∧ FieldIs bs 16 4 (commit.getD 0) ∧
       FieldIs bs 20 4 0) ∧
  (∀ (n : Nat) (m : Marker),
     let bs := Item.bytes { number := n, body := .marker m }
     let laid (code : Nat) (time : Option Nat) : Prop :=
       FieldIs bs 1 1 code ∧ FieldIs bs 4 8 (time.getD (2 ^ 64 - 1))
     let gap (r : RecId) (i : Nat) : Prop := FieldIs bs 12 1 r.val ∧ FieldIs bs 13 1 0 ∧ FieldIs bs 14 2 i
     bs.length = 16 ∧ FieldIs bs 0 1 4 ∧ FieldIs bs 2 2 n ∧
       match m with
       | .seekDone t => laid 1 (some t) ∧ FieldIs bs 12 4 0
       | .wrap t => laid 2 (some t) ∧ FieldIs bs 12 4 0
       | .rebase t count => laid 3 (some t) ∧ FieldIs bs 12 2 count ∧ FieldIs bs 14 2 0
       | .watch w => laid 4 none ∧ FieldIs bs 12 1 w.val ∧ FieldIs bs 13 3 0
       | .gapOpen r i t => laid 5 (some t) ∧ gap r i
       | .gapClose r i t => laid 6 (some t) ∧ gap r i
       | .endPass t => laid 7 (some t) ∧ FieldIs bs 12 4 0
       | .head t => laid 8 (some t) ∧ FieldIs bs 12 4 0) ∧
  (∀ (rs : List ReadRecord) (more : Bool) (phase : Phase) (n : Nat),
     ∃ bs, (RespBody.records rs more phase n).bytes = some bs ∧ FieldIs bs 0 1 rs.length ∧
       FieldIs bs 1 1 (if more then 1 else 0) ∧ FieldIs bs 2 1 phase.code ∧ FieldIs bs 3 1 0 ∧ FieldIs bs 4 4 n ∧
       bs.drop 8 = rs.flatMap fun x => Item.bytes
         { number := 0
           body := .record
             { presentation := x.presentation, time := x.time, point := x.record.point, state := x.record.state
               quality := x.record.quality, late := x.record.late, repositioned := x.record.repositioned
               corroborated := x.corroborated, noChange := false
               full := some
                 { cause := x.record.cause, commit := x.record.commit
                   sources := x.record.timing :: x.record.others } } }) ∧
  (∀ (gs : List (Nat × Gap)) (more : Bool) (held : Nat),
     ∃ bs, (RespBody.gaps gs more held).bytes = some bs ∧ bs.length = 8 + 24 * gs.length ∧ FieldIs bs 0 1 gs.length ∧
       FieldIs bs 1 1 (if more then 1 else 0) ∧ FieldIs bs 2 2 held ∧ FieldIs bs 4 4 0 ∧
       ∀ (i n : Nat) (g : Gap), gs[i]? = some (n, g) →
         FieldIs bs (8 + 24 * i) 2 n ∧ FieldIs bs (10 + 24 * i) 1 g.recorder.val ∧
           FieldIs bs (11 + 24 * i) 1 ((if g.stop = none then 0 else 1) + if g.lost = none then 0 else 2) ∧
           FieldIs bs (12 + 24 * i) 4 (g.lost.getD 0) ∧ FieldIs bs (16 + 24 * i) 8 g.start ∧
           FieldIs bs (24 + 24 * i) 8 (g.stop.getD (2 ^ 64 - 1))) ∧
  (∀ k : Slot, (RespBody.freeSlot k).bytes = some [BitVec.ofNat 8 k.val, 0#8]) ∧
  (∀ (k : Slot) (r : CursorReport),
     let o := r.options
     let b := r.buffer
     ∃ bs, (RespBody.cursor k r).bytes = some bs ∧ bs.length = 104 + 4 * b.completed.length ∧
       (FieldIs bs 0 1 k.val ∧ FieldIs bs 1 1 r.state.code ∧ FieldIs bs 2 1 r.owner.val ∧
         FieldIs bs 3 1 (armedFromCode r.armedFrom)) ∧
       (FieldIs bs 4 1 o.pacing.code ∧ FieldIs bs 5 1 (if o.loop then 1 else 0) ∧ FieldIs bs 6 1 o.mode.code ∧
         FieldIs bs 7 1 o.batchSize ∧ FieldIs bs 8 1 (if o.split then 1 else 0) ∧ FieldIs bs 9 1 o.form.code ∧
         FieldIs bs 10 1 o.presentation.code ∧ FieldIs bs 11 1 o.source.code ∧ FieldIs bs 12 1 o.action.code ∧
         FieldIs bs 13 7 0 ∧ FieldIs bs 20 8 o.windowStart ∧ FieldIs bs 28 8 (o.windowEnd.getD (2 ^ 64 - 1))) ∧
       (FieldIs bs 36 8 ((r.position.map Key.time).getD (2 ^ 64 - 1)) ∧
         FieldIs bs 44 1 ((r.position.map Key.slot).getD 255) ∧ FieldIs bs 45 1 0 ∧
         FieldIs bs 46 2 ((r.position.map Key.seq).getD 65535) ∧
         FieldIs bs 48 2 ((r.position.map Key.idx).getD 65535)) ∧
       (FieldIs bs 50 2 r.stepsLeft ∧ FieldIs bs 52 8 (r.instant.getD (2 ^ 64 - 1)) ∧
         FieldIs bs 60 8 ((r.overtaken.map Overtake.earliest).getD (2 ^ 64 - 1)) ∧
         FieldIs bs 68 2 ((r.overtaken.map Overtake.count).getD 0)) ∧
       ((byteAt bs 70).testBit 0 = r.overtaken.isSome ∧ (byteAt bs 70).testBit 1 = r.chain ∧
         (byteAt bs 70).testBit 2 = r.trailFrozen ∧ byteAt bs 70 / 8 = pendingHoldCode r.pendingHold) ∧
       ((byteAt bs 71).testBit 0 = r.activity.stalled ∧ (byteAt bs 71).testBit 1 = r.activity.lagging ∧
         (byteAt bs 71).testBit 2 = r.activity.atHead ∧ (byteAt bs 71).testBit 3 = r.activity.waiting ∧
         (byteAt bs 71).testBit 4 = r.activity.probing ∧ (byteAt bs 71).testBit 5 = r.activity.rebasing ∧
         (byteAt bs 71).testBit 6 = r.activity.snapshot ∧ (byteAt bs 71).testBit 7 = false) ∧
       (FieldIs bs 72 1 (halfCode b.half) ∧ FieldIs bs 73 1 b.writing ∧ FieldIs bs 74 1 b.completed.length ∧
         FieldIs bs 75 1 b.outgoing ∧ FieldIs bs 76 2 b.nextNumber ∧ FieldIs bs 78 1 r.watchesFilled ∧
         FieldIs bs 79 1 r.probes) ∧
       (r.rebuildRecord = none →
         FieldIs bs 80 8 0 ∧ FieldIs bs 88 8 (2 ^ 64 - 1) ∧ FieldIs bs 96 8 (2 ^ 64 - 1)) ∧
       (∀ x, r.rebuildRecord = some x →
         FieldIs bs 80 1 x.kind.code ∧ FieldIs bs 81 1 x.outcome.code ∧ FieldIs bs 82 2 0 ∧
           FieldIs bs 84 4 x.applied ∧ FieldIs bs 88 8 x.target ∧ FieldIs bs 96 8 (x.start.getD (2 ^ 64 - 1))) ∧
       ∀ (i : Nat) (h : Option Half) (count first : Nat), b.completed[i]? = some (h, count, first) →
         FieldIs bs (104 + 4 * i) 1 (halfCode h) ∧ FieldIs bs (105 + 4 * i) 1 count ∧
           FieldIs bs (106 + 4 * i) 2 first) ∧
  (∀ (r : RecId) (c : Context) (attention inProgress : Bool) (queued : Nat),
     let t := c.timing
     ∃ bs, (RespBody.recorder r c attention queued inProgress).bytes = some bs ∧
       bs.length = 64 + 16 * t.pendingList.length ∧ FieldIs bs 0 1 r.val ∧ FieldIs bs 1 1 t.state.code ∧
       FieldIs bs 2 1 ((t.baseQuality.map AnchorQuality.code).getD 0) ∧ FieldIs bs 3 1 t.pendingList.length ∧
       FieldIs bs 4 2 (t.openGap.getD 65535) ∧ (∀ x, t.lastSeq = some x → FieldIs bs 6 2 x) ∧
       FieldIs bs 8 2 c.flags.toNat ∧ FieldIs bs 10 2 c.mask.toNat ∧
       ((byteAt bs 12).testBit 0 = attention ∧ (byteAt bs 12).testBit 1 = c.noted ∧
         (byteAt bs 12).testBit 2 = inProgress ∧ (byteAt bs 12).testBit 3 = t.lastSeq.isSome ∧
         byteAt bs 12 < 16) ∧
       FieldIs bs 13 1 queued ∧ FieldIs bs 14 2 0 ∧ FieldIs bs 16 8 (t.running.getD (2 ^ 64 - 1)) ∧
       FieldIs bs 24 8 (t.driftBase.getD (2 ^ 64 - 1)) ∧ FieldIs bs 32 8 (t.lastKnown.getD (2 ^ 64 - 1)) ∧
       FieldIs bs 40 8 (t.lastRecord.getD (2 ^ 64 - 1)) ∧ FieldIs bs 48 8 (t.lastAnchor.getD (2 ^ 64 - 1)) ∧
       FieldIs bs 56 8 t.tickCount ∧
       ∀ (i : Nat) (x : PendingEntry), t.pendingList[i]? = some x →
         FieldIs bs (64 + 16 * i) 2 x.seq ∧ FieldIs bs (66 + 16 * i) 2 x.idx ∧
           FieldIs bs (68 + 16 * i) 2 x.point.val ∧ FieldIs bs (70 + 16 * i) 1 (swStateCode x.state) ∧
           FieldIs bs (71 + 16 * i) 1 (x.cause.getD 0) ∧ FieldIs bs (72 + 16 * i) 8 x.ticks) ∧
  (∀ b : Batch,
     ∃ bs, (RespBody.batch b).bytes = some bs ∧ FieldIs bs 0 1 (halfCode b.half) ∧ FieldIs bs 1 1 b.items.length ∧
       FieldIs bs 2 2 b.first ∧ bs.drop 4 = b.items.flatMap Item.bytes) ∧
  (∀ (k : Slot) (tag : Nat) (point : PointId) (instant : Nat) (a : ProbeAnswer),
     ∃ bs, (Notice.probeResult k tag point instant a).bytes = some bs ∧ bs.length = 32 ∧ FieldIs bs 0 1 k.val ∧
       FieldIs bs 1 1 0 ∧ FieldIs bs 2 2 tag ∧ FieldIs bs 4 2 point.val ∧ FieldIs bs 6 1 (ptStateCode a.state) ∧
       FieldIs bs 7 1 ((a.quality.map qualityCode).getD 0) ∧ FieldIs bs 8 8 instant ∧
       FieldIs bs 16 8 (a.time.getD (2 ^ 64 - 1)) ∧ FieldIs bs 24 4 (a.commit.getD 0) ∧ FieldIs bs 28 4 0) ∧
  ([SwState.opened, .closed, .intermediate, .faulty].map swStateCode = [1, 2, 3, 4] ∧
     (∀ st : SwState, ptStateCode (.known st) = swStateCode st) ∧ ptStateCode .unknown = 5 ∧
     [Quality.locked, .free, .estimated].map qualityCode = [1, 2, 3] ∧
     [AnchorQuality.locked, .free].map AnchorQuality.code = [1, 2] ∧
     [Phase.setup, .collecting, .sealed].map Phase.code = [1, 2, 3] ∧
     [TimingState.unanchored, .anchored, .estimating].map TimingState.code = [1, 2, 3] ∧
     [CursorState.idle, .armed, .seeking, .held, .running, .ended, .unsettled].map CursorState.code =
       [1, 2, 3, 4, 5, 6, 7] ∧
     [Presentation.absolute, .zeroRelative, .previousRelative, .recorderLocal].map Presentation.code = [0, 1, 2, 3] ∧
     [none, some ArmedFrom.idle, some .held].map armedFromCode = [0, 1, 4] ∧
     [Pacing.freeRun, .bound].map Pacing.code = [0, 1] ∧ [DeliveryMode.notice, .push].map DeliveryMode.code = [0, 1] ∧
     [ItemForm.full, .compact].map ItemForm.code = [0, 1] ∧
     [TriggerSource.request, .line, .clockMark].map TriggerSource.code = [0, 1, 2] ∧
     (∀ k : Slot, (TriggerSource.cursor k).code = 16 + k.val) ∧
     [TriggerAction.play, .seekPlay].map TriggerAction.code = [0, 1] ∧
     [none, some PendingHold.hold, some .stop].map pendingHoldCode = [0, 1, 2] ∧
     [none, some Half.a, some .b].map halfCode = [0, 1, 2] ∧
     [RebuildKind.seek, .rebase, .wrap].map RebuildKind.code = [1, 2, 3] ∧
     [RebuildOutcome.inFlight, .completed, .abandoned, .restarted].map RebuildOutcome.code = [1, 2, 3, 4]) ∧
  [RespCode.done, .accepted, .queued, .nothingReady, .wrongPhase, .tableFault, .notOwner, .noCursor, .badCursor,
      .cursorBusy, .notSettled, .atEnd, .badArgument, .queueFull, .tooLate, .notFound, .probeFull, .clockBusy,
      .notController, .ingestActive, .cursorsOpen, .frameError, .unknownRequest].map RespCode.code = List.range 23 ∧
  [NoticeKind.batchReady, .cursorState, .watchFired, .probeResult, .segmentDone, .recorderAttention, .clock,
      .clockGranted, .clockLost, .store, .resync].map NoticeKind.code = [1, 2, 3, 4, 5, 6, 7, 8, 9, 10, 11] ∧
  ((∀ (n : Nat) (st : SwState), swStateOf n = some st ↔ swStateCode st = n) ∧
     (∀ (n : Nat) (st : PtState), ptStateOf n = some st ↔ ptStateCode st = n) ∧
     (∀ (n : Nat) (k : DeviceKind), deviceKindOf n = some k ↔ DeviceKind.code k = n) ∧
     [DeviceKind.breaker, .disconnector, .earthSwitch].map DeviceKind.code = [1, 2, 3] ∧
     [none, some DeviceKind.breaker, some .disconnector, some .earthSwitch].map watchPointKindCode = [0, 1, 2, 3] ∧
     [QualityThreshold.atOrBelowFree, .estimatedOnly].map QualityThreshold.code = [1, 2] ∧
     [FaultKind.noRecorder, .noPoint, .blockChannelRange, .blockPointRange, .blockOverlap].map FaultKind.code =
       [1, 2, 3, 4, 5] ∧
     [SegOutcome.committed, .cancelled, .duplicate, .malformed, .storeFull, .noTimeBase, .cleared].map
       SegOutcome.code = [1, 2, 3, 4, 5, 6, 7] ∧
     [ClockCause.run, .pause, .set, .rate, .control, .limit].map ClockCause.code = [1, 2, 3, 4, 5, 6] ∧
     [StateCause.trigger, .windowEnd, .sealTaken, .clockSet].map StateCause.code = [1, 2, 3, 4]) ∧
  ((∀ (f : CauseSet) (x : Cause), f.holds x = f.toNat.testBit x.bit ∧ x.set.toNat = 2 ^ x.bit) ∧
     [Cause.segmentGap, .loss, .pendingSpill, .clockStep, .backward, .unmapped, .timeRange, .corrobFull, .gapListFull,
       .noTimeBase, .segmentFailed].map Cause.bit = [0, 1, 2, 3, 4, 5, 6, 7, 8, 9, 10])

/-- R175, R176: the port answers a faulty frame with tag 0 and FRAME_ERROR, and a sound frame whose code names no
request of Table 10-2 with UNKNOWN_REQUEST; nothing outside the port changes. -/
def Obligations.PortAnswersBadFrames : Prop :=
  ∀ (s : State) (p : PortId), s.resetLow = false → (s.live.port p).up = true → (s.live.port p).response = none →
    ((s.live.port p).requests.head? = some .faulty →
      exec (.frameError p) s = .next (answeredOnly s p 0 { code := .frameError, body := .empty })) ∧
    ∀ (code tag : Nat) (body : List Byte), (s.live.port p).requests.head? = some (.sound code tag body) →
      (code = 0 ∨ 42 < code) →
      exec (.unknownRequest p) s = .next (answeredOnly s p tag { code := .unknownRequest, body := .empty })

/-- R176, Table 10-2: a request whose port cannot take it, or whose code does not stand at the front of the request
queue, changes nothing (log 1). What a request's answer does to the ports, whatever its rule u made of the rest: the
request leaves the queue, the response stands in the holder behind the notices formed before it, and no other port is
touched by the answer. -/
def Obligations.RequestsWaitOrAreAnswered : Prop :=
  (∀ (c : Instr) (s : State) (p : PortId) (code : Nat), requestOf c = some (p, code) →
     (s.resetLow = true ∨ (s.live.port p).up = false ∨ (s.live.port p).response ≠ none ∨
       ∀ tag body, (s.live.port p).requests.head? ≠ some (.sound code tag body)) →
     exec c s = .next s) ∧
  (∀ (s u : State) (p : PortId) (code tag : Nat) (body : List Byte) (r : Response), Taken s p code tag body →
     (s.popRequest p).live.port p = { s.live.port p with requests := (s.live.port p).requests.drop 1 } ∧
     (answered s p tag r u).live.port p =
       { u.live.port p with
         response := some { tag := tag, response := r, ahead := (s.live.port p).notices.length } } ∧
     OthersSame s (s.popRequest p) 0 p ∧ (s.popRequest p).live.cursor 0 = s.live.cursor 0 ∧ SameStore s (s.popRequest p) ∧
     OthersSame u (answered s p tag r u) 0 p ∧ (answered s p tag r u).live.cursor 0 = u.live.cursor 0 ∧
     SameStore u (answered s p tag r u))

/-- R177, R178: the response leaves when no notice was formed before it; else the oldest notice, with a RESYNC in the
freed place when notices were dropped; nothing outside the port changes. With neither response nor notice waiting, a
DELIVERY frame carries the oldest item of the PUSH queue next in turn: from the slot above the delivery turn, wrapping.
R131, R137: an item of a step or a snapshot that waits for the place the DELIVERY frees is written at once, as
ITEM_WRITTEN writes it, put back in front of those still to be written; a marker that waits is written and completes its
seek, rebase, window end, wrap or head of the store. R156: with SEEK_DONE or REBASE written, a probe that waits begins.
R117: with HEAD written, a cursor takes the seal of a store SEALED by then. That it reads on with AT_HEAD clear where a
record has come to stand after its position is the model's deduction (log 17); that a waiting probe begins after the
signal of END, and the cause of a looping cursor's end, are its choice (logs 49, 16). That a bound cursor takes the
clock instant only when its waiting HEAD is written is the model's choice (log 47), and that the HEAD carries the
instant it had before is its deduction (log 17). A notice joins the queue of an UP port, is dropped and recorded when 32
wait, and is dropped without trace when the link is DOWN. R184, R185: the bytes sent are the frame of Table 11-1 with
its kind, code and body; the tag of a NOTICE or DELIVERY frame, and the body where Layouts gives none, are values that
no rule states (logs 6, 40). -/
def Obligations.PortTransmits : Prop :=
  (∀ (s : State) (p : PortId), s.resetLow = false → (s.live.port p).up = true →
     ((s.live.port p).response ≠ none ∨ (s.live.port p).notices ≠ []) →
     ∃ t, exec (.frameTransmit p) s = .next t ∧ SameStore s t ∧ t.live.cursors = s.live.cursors ∧
       t.live.checkpoints = s.live.checkpoints ∧ (∀ q : PortId, q ≠ p → t.live.port q = s.live.port q) ∧
       (t.live.port p).requests = (s.live.port p).requests ∧ (t.live.port p).turn = (s.live.port p).turn ∧
       (t.live.port p).subs = (s.live.port p).subs ∧ (t.live.port p).up = true ∧
       (∀ h, (s.live.port p).response = some h → (h.ahead = 0 ∨ (s.live.port p).notices = []) →
         (t.live.port p).response = none ∧ (t.live.port p).notices = (s.live.port p).notices ∧
           (t.live.port p).sent.map SentFrame.frame = some (.response h.tag h.response) ∧
           ∃ body, (t.live.port p).sent.map SentFrame.bytes = some (frameBytes 2 h.response.code.code h.tag body) ∧
             ∀ b, h.response.body.bytes = some b → body = b) ∧
       ∀ n rest, (s.live.port p).notices = n :: rest →
         (∀ h, (s.live.port p).response = some h → h.ahead ≠ 0) →
         (t.live.port p).response = ((s.live.port p).response.map fun h => { h with ahead := h.ahead - 1 }) ∧
           (t.live.port p).sent.map SentFrame.frame = some (.notice n) ∧
           (∃ x body, (t.live.port p).sent.map SentFrame.bytes = some (frameBytes 3 n.kind.code x body) ∧
             ∀ b, n.bytes = some b → body = b) ∧
           ((s.live.port p).lost = false → (t.live.port p).notices = rest) ∧
           ((s.live.port p).lost = true →
             (t.live.port p).notices =
                 rest ++ [.resync (s.live.port p).droppedCount (s.live.port p).droppedKinds] ∧
               (t.live.port p).lost = false ∧ (t.live.port p).droppedCount = 0 ∧ (t.live.port p).droppedKinds = [])) ∧
  (∀ (s : State) (p : PortId) (k : Slot) (c : Cursor) (it : Item) (rest : List Item),
     s.resetLow = false → (s.live.port p).up = true → (s.live.port p).response = none →
     (s.live.port p).notices = [] → s.live.cursor k = some c → c.owner = p → c.buffer.outgoing = it :: rest →
     (∀ (j : Slot) (d : Cursor), s.live.cursor j = some d → d.owner = p → d.buffer.outgoing ≠ [] →
       (k.val + 7 - ((s.live.port p).turn.elim 7 Fin.val)) % 8 ≤ (j.val + 7 - ((s.live.port p).turn.elim 7 Fin.val)) % 8) →
     ∃ t, exec (.frameTransmit p) s = .next t ∧ SameStore s t ∧ (t.live.port p).turn = some k ∧
       (t.live.port p).sent.map SentFrame.frame = some (.delivery k it) ∧
       (∃ x, (t.live.port p).sent.map SentFrame.bytes =
         some (frameBytes 4 it.kind x (BitVec.ofNat 8 k.val :: 0#8 :: it.bytes))) ∧
       (c.buffer.waiting = none →
         t.live.cursor k = some { c with buffer := { c.buffer with outgoing := rest } } ∧ OthersSame s t k p) ∧
       ∀ x : ItemPlan, c.buffer.waiting = some x →
         let free : Buffer := { c.buffer with outgoing := rest, waiting := none }
         let sent : State :=
           { s with
             live :=
               { s.live.setPort p { s.live.port p with turn := some k, sent := (t.live.port p).sent } with
                 draws := s.live.draws + 1 } }
         free.hasRoom c.options = true →
         (∀ f : StepFlight, c.op = .step f →
           exec (.itemWritten k)
               (withCursorAt sent k { c with op := .step { f with todo := x :: f.todo }, buffer := free }) =
             .next t) ∧
         (∀ (w : SnapWork) (y : PointId), c.op = .none → c.snap = some w → w.opening = false → x = .snap y →
           exec (.itemWritten k)
               (withCursorAt sent k { c with snap := some { w with todo := y :: w.todo }, buffer := free }) =
             .next t) ∧
         ∀ m : Marker, x = .marker m → ∃ d, t.live.cursor k = some d ∧ MarkerWritten s t k c free m d) ∧
  (∀ (p : Port) (n : Notice),
     (p.up = false → p.push n = p) ∧
     (p.up = true → p.notices.length < 32 → p.push n = { p with notices := p.notices ++ [n] }) ∧
     (p.up = true → 32 ≤ p.notices.length →
       (p.push n).notices = p.notices ∧ (p.push n).lost = true ∧
         (p.push n).droppedCount = min (p.droppedCount + 1) 65535 ∧
         (∀ k : NoticeKind, k ∈ (p.push n).droppedKinds ↔ k ∈ p.droppedKinds ∨ k = n.kind) ∧
         (p.push n).requests = p.requests ∧ (p.push n).response = p.response ∧ (p.push n).subs = p.subs))

/-- R179, R186: SUBSCRIBE replaces the port's set whole and answers the new set; no notice is sent. That a reserved bit
of the set is BAD_ARGUMENT is the model's reading (log 38). R181: DESCRIBE in any phase; its family code and revision
are values that no rule states (log 6). -/
def Obligations.DescribeAndSubscribe : Prop :=
  (∀ (s : State) (p : PortId) (tag : Nat) (body : List Byte) (set : Byte), Taken s p 2 tag body →
     (set.toNat < 16 →
       ∃ x : Subs, x.attention = set.getLsbD 0 ∧ x.segmentsAll = set.getLsbD 1 ∧ x.clock = set.getLsbD 2 ∧
         x.store = set.getLsbD 3 ∧
         exec (.subscribe p set) s =
           .next (answered s p tag { code := .done, body := .subscriptions x }
             ((s.popRequest p).withLive
               ((s.popRequest p).live.setPort p { (s.popRequest p).live.port p with subs := x })))) ∧
     (16 ≤ set.toNat →
       exec (.subscribe p set) s = .next (answeredOnly s p tag { code := .badArgument, body := .empty }))) ∧
  (∀ (s : State) (p : PortId) (tag : Nat) (body : List Byte), Taken s p 1 tag body →
     exec (.describe p) s =
       .next (answeredOnly s p tag
         { code := .done
           body := .description
             { family := Config.familyCode, revision := Config.revision, ports := 4, points := 4096, recorders := 64
               store := 262144, cursors := 8, checkpoints := 64, gapList := 512, epoch := s.tables.study.epoch
               eventZero := s.tables.study.eventZero, phase := s.history.phase, commitCount := s.history.commitCount
               port := p } }))

/-! ### The phases of the store -/

/-- R6, R5: BEGIN_COLLECTION in SETUP with valid tables opens collection and tells the ports subscribed to STORE; with a
table fault it is refused TABLE_FAULT with the fault, and in any other phase WRONG_PHASE. -/
def Obligations.BeginCollectionOpens : Prop :=
  ∀ (s : State) (p : PortId) (tag : Nat) (body : List Byte), Taken s p 3 tag body →
    (s.history.phase = .setup → tableFault s.tables = none →
      exec (.beginCollection p) s =
        .next (answered s p tag { code := .done, body := .empty }
          { s.popRequest p with
            history := { s.history with phase := .collecting }
            live := (s.popRequest p).live.notifyWhere (fun _ q => q.subs.store)
              (.store .collecting s.history.commitCount) })) ∧
    (∀ f, s.history.phase = .setup → tableFault s.tables = some f →
      exec (.beginCollection p) s = .next (answeredOnly s p tag { code := .tableFault, body := .tableFault f })) ∧
    (s.history.phase ≠ .setup →
      exec (.beginCollection p) s = .next (answeredOnly s p tag { code := .wrongPhase, body := .empty }))

/-- R37, Table 2-5: over tables whose blocks hold at least one channel, validation finds no fault exactly when some
recorder and some point are enabled and every present block of an enabled recorder stays within 65,536 channels and
4,096 points and shares no channel with a lower-numbered one. R37, R38, Table 2-6: else it reports the first check that
fails: NO_RECORDER, then NO_POINT, then the first block at fault by slot and block number, with its channel range before
its point range and that before its overlap with the lowest-numbered block; each fault record carries the fields of
Table 2-6 and no other. -/
def Obligations.ValidationIsExact : Prop :=
  ∀ t : Tables,
    (∀ (r : RecId) (i : BlockId) (b : MapBlock), (t.recorders.get r).blocks.get i = some b → 1 ≤ b.count) →
    (tableFault t = none ↔
      (∃ r : RecId, (t.recorders.get r).enabled = true) ∧ (∃ p : PointId, (t.points.get p).enabled = true) ∧
        ∀ (r : RecId) (i : BlockId) (b : MapBlock), (t.recorders.get r).enabled = true →
          (t.recorders.get r).blocks.get i = some b →
          b.first + b.count ≤ 65536 ∧ b.base + b.count ≤ 4096 ∧
            ∀ (j : BlockId) (x : MapBlock), j.val < i.val → (t.recorders.get r).blocks.get j = some x →
              x.first + x.count ≤ b.first ∨ b.first + b.count ≤ x.first) ∧
    ((∀ r : RecId, (t.recorders.get r).enabled = false) →
      tableFault t = some { kind := .noRecorder, recorder := none, block := none, otherBlock := none, point := none }) ∧
    ((∃ r : RecId, (t.recorders.get r).enabled = true) → (∀ p : PointId, (t.points.get p).enabled = false) →
      tableFault t = some { kind := .noPoint, recorder := none, block := none, otherBlock := none, point := none }) ∧
    ((∃ p : PointId, (t.points.get p).enabled = true) →
      let meets (r : RecId) (b : MapBlock) (j : BlockId) : Prop :=
        ∃ x, (t.recorders.get r).blocks.get j = some x ∧ b.first < x.first + x.count ∧ x.first < b.first + b.count
      let faulty (r : RecId) (i : BlockId) : Prop :=
        (t.recorders.get r).enabled = true ∧ ∃ b, (t.recorders.get r).blocks.get i = some b ∧
          (65536 < b.first + b.count ∨ 4096 < b.base + b.count ∨ ∃ j : BlockId, j.val < i.val ∧ meets r b j)
      ∀ (r : RecId) (i : BlockId) (b : MapBlock), faulty r i → (t.recorders.get r).blocks.get i = some b →
        (∀ (q : RecId) (j : BlockId), q.val < r.val → ¬faulty q j) →
        (∀ j : BlockId, j.val < i.val → ¬faulty r j) →
        (65536 < b.first + b.count →
          tableFault t =
            some { kind := .blockChannelRange, recorder := some r, block := some i, otherBlock := none
                   point := none }) ∧
        (b.first + b.count ≤ 65536 → 4096 < b.base + b.count →
          tableFault t =
            some { kind := .blockPointRange, recorder := some r, block := some i, otherBlock := none
                   point := some (b.base + b.count - 1) }) ∧
        ∀ j : BlockId, b.first + b.count ≤ 65536 → b.base + b.count ≤ 4096 → j.val < i.val → meets r b j →
          (∀ l : BlockId, l.val < j.val → ¬meets r b l) →
          tableFault t =
            some { kind := .blockOverlap, recorder := some r, block := some i, otherBlock := some j, point := none })

/-- R7, R8, R9: SEAL_HISTORY in COLLECTING with an empty Segment Queue spills every pending list and seals the store.
Each entry of a recorder with a base is placed ESTIMATED at the base plus its ticks (R56); the candidates are admitted
in staging order while their sources are new and the store has room, and taken by R16 to R19; the recorder is ESTIMATING
and raises PENDING_SPILL, with SEGMENT_FAILED for a candidate discarded; without a base the entries are discarded and
NO_TIME_BASE raised. The response counts what was committed, corroborated and discarded; each port takes the
RECORDER_ATTENTION notices in slot order, the STORE notice, then the cursors' own. R22, R114, R117, R122, R158: the
commit of the spill reaches every open cursor, as a segment's does. R9, R116, R117, R169: a cursor then still at the
head ends, wraps where it loops over a pass that applied a record, and waits for the clock where it is bound and ends
later; without room its marker waits (R131) and LAGGING is tested (R170); its owner takes CURSOR_STATE, in slot order
(R7), and a cursor that waits for its signal starts (R120); no other cursor changes. R10, R11, R83: CLEAR_HISTORY with
every slot FREE ends each queued segment CLEARED and empties the store, the Gap List, the Segment Queue and the
Checkpoint Table and resets every context; the tables and the clock stand. R7, R10: their refusals change nothing but
the port. That a later candidate of the spill with the source of an earlier one is discarded, and that one meeting a
full source list counts neither way, is the model's (logs 15, 38). That the running time of a spill stays at 2^48 − 1,
that an entry past it leaves the last known time, and that the tick count stands where entries are discarded for want of
a base, is the model's deduction (log 25). That the rebase of an overtaken one starts in this event is its deduction too
(log 20), and the cause of a looping cursor's end its choice (log 16). -/
def Obligations.SealAndClear : Prop :=
  (∀ (s : State) (p : PortId) (tag : Nat) (body : List Byte), Taken s p 4 tag body →
     s.history.phase = .collecting → s.merge.queue = [] →
     let tm (r : RecId) : Timing := (s.contexts.get r).timing
     let unit (r : RecId) : Nat := (s.tables.recorders.get r).tickUnit
     let base (r : RecId) : Option Nat := (tm r).lastKnown.orElse fun _ => (s.tables.recorders.get r).fallback
     let timed (r : RecId) : List (PendingEntry × Option Nat) :=
       (base r).elim [] fun b => estimated b (unit r) (tm r).pendingList
     let placed (r : RecId) : List Candidate := placedAll (s.procEnv r) (tm r).driftBase .estimated (timed r)
     let split := sealAdmit s.history.records (262144 - s.history.commitCount) [] ((List.finRange 64).flatMap placed)
     let acc := takeCandidates s.tables.study.window s.history split.1
     let raised (r : RecId) (c : Cause) : Prop := (tm r).pendingList ≠ [] ∧
       (c = .pendingSpill ∧ base r ≠ none ∨ c = .noTimeBase ∧ base r = none ∨
         placingRaises (s.procEnv r) (tm r).driftBase (tm r).lastRecord .estimated (timed r) c ∨
         c = .segmentFailed ∧ (∃ x ∈ split.2, x.source.recorder = r) ∨ c = .corrobFull ∧ r ∈ acc.full)
     let stop (c : Cursor) : Nat :=
       max (c.instant.getD 0) (c.options.windowEnd.getD ((greatestTime acc.history.records).getD 0))
     let atHead (c : Cursor) : Prop := c.state = .running ∧ c.atHead = true ∧ c.op = .none
     let single (c : Cursor) : Prop := c.options.loop = false ∨ c.applied = false
     let ends (c : Cursor) : Prop := atHead c ∧ (c.options.pacing = .bound → stop c ≤ s.clock.instant)
     let cause (c : Cursor) : StateCause := if c.options.loop then .windowEnd else .sealTaken
     let room (c : Cursor) : Prop := c.buffer.hasRoom c.options = true
     ∃ (u : State) (discarded : Nat) (v : Vector (Option Cursor) 8),
       exec (.sealHistory p) s =
         .next (answered s p tag
           { code := .done, body := .sealCounts acc.committed acc.corroborated discarded } u) ∧
       discarded + split.1.length = ((List.finRange 64).map fun r => (tm r).pendingList.length).sum ∧
       u.history.phase = .sealed ∧ u.history.records = acc.history.records ∧
       u.history.commitCount = acc.history.commitCount ∧ u.history.greatest = greatestTime acc.history.records ∧
       (∀ r : RecId, Merged (s.contexts.get r) (u.contexts.get r) (raised r) ∧
         ((tm r).pendingList = [] → (u.contexts.get r).timing = tm r) ∧
         ((tm r).pendingList ≠ [] → base r = none →
           (u.contexts.get r).timing = { tm r with pendingList := [] }) ∧
         ∀ b : Nat, (tm r).pendingList ≠ [] → base r = some b →
           (u.contexts.get r).timing =
             { tm r with
               state := .estimating
               running := some (min (b + (tm r).tickCount * unit r) (2 ^ 48 - 1))
               pendingList := [], tickCount := 0
               lastKnown := lastKnownAfter (tm r).lastKnown (timed r)
               lastRecord := lastRecordAfter (tm r).lastRecord (placed r) }) ∧
       Invalidated (commitReach acc.touched []) s.live.checkpoints u.live.checkpoints ∧
       (∀ q : PortId, ∃ ns : List Notice,
         u.live.port q =
           ((s.popRequest p).live.port q).takes
             (((List.finRange 64).flatMap fun r =>
                 risen r (s.contexts.get r) (u.contexts.get r) (s.live.port q).subs) ++
               storeTold .sealed acc.history.commitCount (s.live.port q).subs ++ ns) ∧
         (∀ n ∈ ns, n.kind = .batchReady ∨ n.kind = .cursorState) ∧
         ((∀ k : Slot, s.live.cursor k = none) → ns = []) ∧
         let told (k : Slot) (c : Cursor) : Notice := .cursorState k .ended (cause c) (some (stop c))
         let tells (k : Slot) (c : Cursor) : Prop := v.get k = some c ∧ ends c ∧ single c ∧ room c ∧ c.owner = q
         (∀ (k : Slot) (c : Cursor), tells k c → told k c ∈ ns) ∧
         ∀ (j k : Slot) (b c : Cursor), tells j b → tells k c → j.val < k.val → [told j b, told k c].Sublist ns) ∧
       (∀ k : Slot, s.live.cursor k = none → v.get k = none) ∧
       (∀ (k : Slot) (b : Cursor), s.live.cursor k = some b → ∃ c, v.get k = some c ∧ AfterCommit u acc.touched b c) ∧
       (∀ (k : Slot) (c : Cursor), v.get k = some c → ends c → single c → room c →
         ∃ d, u.live.cursor k = some d ∧ d.state = .ended ∧ d.instant = some (stop c) ∧ d.image = c.image ∧
           d.position = c.position ∧ d.overtaken = c.overtaken ∧
           d.buffer = c.buffer.delivered c.options true (.marker (.endPass (stop c)))) ∧
       (∀ (k : Slot) (c : Cursor), v.get k = some c → ends c → single c → ¬room c →
         ∃ d, u.live.cursor k = some d ∧
           Stalls u
             { c with
               op := .ending (cause c), instant := some (stop c), atHead := false, parked := false
               buffer := { c.buffer with waiting := some (.marker (.endPass (stop c))) } } d) ∧
       (∀ (k : Slot) (c : Cursor), v.get k = some c → ends c → ¬single c → room c →
         ∃ d, u.live.cursor k = some d ∧ d.state = .running ∧ d.atHead = false ∧ d.stepsLeft = c.stepsLeft ∧
           RebuildBegun u.live.checkpoints .wrap c.options.windowStart none d ∧
           d.buffer = c.buffer.delivered c.options false (.marker (.wrap c.options.windowStart))) ∧
       (∀ (k : Slot) (c : Cursor), v.get k = some c → ends c → ¬single c → ¬room c →
         ∃ d, u.live.cursor k = some d ∧
           Stalls u
             { c with
               op := .wrapping, atHead := false, parked := false
               buffer := { c.buffer with waiting := some (.marker (.wrap c.options.windowStart)) } } d) ∧
       (∀ (k : Slot) (c : Cursor), v.get k = some c → atHead c → c.options.pacing = .bound → s.clock.instant < stop c →
         u.live.cursor k = some { c with atHead := false, waiting := true, parked := true, sealEnd := true }) ∧
       (∀ (j k : Slot) (b c : Cursor), v.get j = some b → ends b → single b → room b → v.get k = some c → Awaits j c →
         c.atHead = false → ∃ d, u.live.cursor k = some d ∧ Triggered u s.clock.instant c d) ∧
       (∀ (k : Slot) (c : Cursor), v.get k = some c → ¬atHead c →
         (∀ (j : Slot) (b : Cursor), v.get j = some b → Awaits j c → ¬(ends b ∧ single b ∧ room b)) →
         u.live.cursor k = some c) ∧
       u.tables = s.tables ∧ u.gaps = s.gaps ∧ u.merge = s.merge ∧ u.clock = s.clock ∧ u.resetLow = s.resetLow ∧
       u.pending = s.pending ∧
       ∀ k : Slot, (u.live.cursor k).map Cursor.owner = (s.live.cursor k).map Cursor.owner) ∧
  (∀ (rs : List Record) (room : Nat) (seen : List Source) (c : Candidate) (cs : List Candidate),
     sealAdmit rs room seen [] = ([], []) ∧
     (let free := (∀ r ∈ rs, ∀ x ∈ r.sources, c.source.same x = false) ∧ (∀ x ∈ seen, c.source.same x = false) ∧
        0 < room
      (free → sealAdmit rs room seen (c :: cs) =
        (c :: (sealAdmit rs (room - 1) (c.source :: seen) cs).1, (sealAdmit rs (room - 1) (c.source :: seen) cs).2)) ∧
      (¬free → sealAdmit rs room seen (c :: cs) =
        ((sealAdmit rs room seen cs).1, c :: (sealAdmit rs room seen cs).2)))) ∧
  (∀ (s : State) (p : PortId) (tag : Nat) (body : List Byte), Taken s p 5 tag body →
     (∀ k : Slot, s.live.cursor k = none) →
     ∃ u, exec (.clearHistory p) s = .next (answered s p tag { code := .done, body := .empty } u) ∧
       u.history = { phase := .setup, records := [], commitCount := 0, greatest := none } ∧ u.gaps = [] ∧
       (∀ r : RecId, u.contexts.get r = Context.reset) ∧ u.merge.queue = [] ∧ u.merge.work = none ∧
       (∀ q : PortId, (s.merge.finished.get q).length ≤ 8 →
         let all := s.merge.finished.get q ++
           (s.merge.queue.filter fun g => g.port == q).map fun g =>
             { recorder := g.recorder, seq := g.seq, outcome := .cleared }
         u.merge.finished.get q = all.drop (all.length - 8)) ∧
       (∀ q : PortId,
         u.live.port q =
           ((s.popRequest p).live.port q).takes
             ((s.merge.queue.flatMap fun g => segmentTold g .cleared 0 0 none q (s.live.port q).subs) ++
               storeTold .setup 0 (s.live.port q).subs)) ∧
       (∀ q : PortId, (∀ g ∈ s.merge.queue, g.port ≠ q) → u.merge.finished.get q = s.merge.finished.get q) ∧
       (∀ i : CkptId, (u.live.checkpoints.entries.get i).valid = false) ∧ u.live.checkpoints.counter = 0 ∧
       (∀ k : Slot, u.live.cursor k = none) ∧ u.tables = s.tables ∧ u.clock = s.clock ∧ u.resetLow = s.resetLow ∧
       u.pending = s.pending) ∧
  (∀ (s : State) (p : PortId) (tag : Nat) (body : List Byte),
     (Taken s p 4 tag body → s.history.phase ≠ .collecting →
       exec (.sealHistory p) s = .next (answeredOnly s p tag { code := .wrongPhase, body := .empty })) ∧
     (Taken s p 4 tag body → s.history.phase = .collecting → s.merge.queue ≠ [] →
       exec (.sealHistory p) s = .next (answeredOnly s p tag { code := .ingestActive, body := .empty })) ∧
     (Taken s p 5 tag body → (∃ k c, s.live.cursor k = some c) →
       exec (.clearHistory p) s = .next (answeredOnly s p tag { code := .cursorsOpen, body := .empty })))

/-- R23: READ_RECORDS with arguments in range answers the first records selected, and changes nothing else; else it is
refused BAD_ARGUMENT (a start key's time is compared with the end instant alone, log 32). R63: READ_GAPS answers the
entries selected, with their indices. -/
def Obligations.ReadsOfTheStoreSelect : Prop :=
  (∀ (s : State) (p : PortId) (tag : Nat) (body : List Byte) (st : ReadStart) (last : Option Nat) (count : Nat)
     (zero : Bool), Taken s p 6 tag body →
     let inRange := 1 ≤ count ∧ count ≤ 32 ∧ (∀ t, st = .instant t → t ≤ 2 ^ 40 - 1 ∧ ∀ e ∈ last, t ≤ e) ∧
       (∀ k, st = .key k → ∀ e ∈ last, k.time ≤ e) ∧ ∀ e ∈ last, e ≤ 2 ^ 40 - 1
     let sel := s.history.records.filter fun r =>
       (match st with
        | .instant t => decide (t ≤ r.time)
        | .key k => keyBefore k r.key) && last.elim true fun e => decide (r.time ≤ e)
     (inRange →
       exec (.readRecords p st last count zero) s =
         .next (answeredOnly s p tag
           { code := .done
             body := .records
               ((sel.take count).map fun r =>
                 { record := r
                   presentation := if zero then .zeroRelative else .absolute
                   time := if zero then (r.time : Int) - s.tables.study.eventZero else r.time
                   corroborated := decide (2 ≤ r.sources.length) })
               (decide (count < sel.length)) s.history.phase s.history.commitCount })) ∧
     (¬inRange →
       exec (.readRecords p st last count zero) s =
         .next (answeredOnly s p tag { code := .badArgument, body := .empty }))) ∧
  (∀ (s : State) (p : PortId) (tag : Nat) (body : List Byte) (start count : Nat) (recorder : Option Nat),
     Taken s p 7 tag body →
     let inRange := start ≤ 511 ∧ 1 ≤ count ∧ count ≤ 32 ∧ ∀ r ∈ recorder, r ≤ 63
     let sel := (s.gaps.zipIdx.map fun g => (g.2, g.1)).filter fun x =>
       decide (start ≤ x.1) && recorder.elim true fun r => x.2.recorder.val == r
     (inRange →
       exec (.readGaps p start count recorder) s =
         .next (answeredOnly s p tag
           { code := .done, body := .gaps (sel.take count) (decide (count < sel.length)) s.gaps.length })) ∧
     (¬inRange →
       exec (.readGaps p start count recorder) s =
         .next (answeredOnly s p tag { code := .badArgument, body := .empty })))

/-! ### The Configuration Tables -/

/-- R32: SET_POINT in SETUP writes a run of entries, each whole, and no other; a run out of range, a station above 255
or an undefined code is BAD_ARGUMENT and writes nothing. -/
def Obligations.SetPointWritesRun : Prop :=
  ∀ (s : State) (p : PortId) (tag : Nat) (body : List Byte) (first : Nat) (xs : List PointSetting),
    Taken s p 8 tag body → s.history.phase = .setup →
    let fits := 1 ≤ xs.length ∧ xs.length ≤ 1024 ∧ first + xs.length ≤ 4096 ∧
      ∀ x ∈ xs, x.station ≤ 255 ∧ (deviceKindOf x.kindCode).isSome = true ∧ (ptStateOf x.stateCode).isSome = true
    (fits →
      ∃ t : Tables,
        exec (.setPoint p first xs) s =
          .next (answered s p tag { code := .done, body := .pointsWritten xs.length }
            { s.popRequest p with tables := t }) ∧
        t.recorders = s.tables.recorders ∧ t.study = s.tables.study ∧
        (∀ i : PointId, (i.val < first ∨ first + xs.length ≤ i.val) → t.points.get i = s.tables.points.get i) ∧
        ∀ (i : PointId) (x : PointSetting), first ≤ i.val → xs[i.val - first]? = some x →
          (t.points.get i).enabled = x.enabled ∧ (t.points.get i).station = x.station ∧
            some (t.points.get i).kind = deviceKindOf x.kindCode ∧
            some (t.points.get i).initial = ptStateOf x.stateCode) ∧
    (¬fits →
      exec (.setPoint p first xs) s = .next (answeredOnly s p tag { code := .badArgument, body := .empty }))

/-- R33: SET_RECORDER in SETUP writes the slot's enable, tick unit, corrections and fallback base, and keeps its blocks;
arguments out of range are BAD_ARGUMENT. R34: SET_MAP_BLOCK in SETUP replaces one block whole or makes it absent; each
field is checked against its own range alone, where the first channel's range is the model's reading (log 32). -/
def Obligations.SetRecorderAndMapBlockWrite : Prop :=
  (∀ (s : State) (p : PortId) (tag : Nat) (body : List Byte) (r : Nat) (on : Bool) (unit : Nat) (offset drift : Int)
     (fb : Option Nat), Taken s p 9 tag body → s.history.phase = .setup →
     let fits := (unit = 1 ∨ unit = 10 ∨ unit = 100 ∨ unit = 1000) ∧ -(2 ^ 40 - 1) ≤ offset ∧ offset ≤ 2 ^ 40 - 1 ∧
       -500 ≤ drift ∧ drift ≤ 500 ∧ ∀ b ∈ fb, b ≤ 2 ^ 48 - 1
     (∀ x : RecId, x.val = r → fits →
       exec (.setRecorder p r on unit offset drift fb) s =
         .next (answered s p tag { code := .done, body := .empty }
           { s.popRequest p with
             tables :=
               { s.tables with
                 recorders := vput s.tables.recorders x
                   { enabled := on, tickUnit := unit, offset := offset, drift := drift, fallback := fb
                     blocks := (s.tables.recorders.get x).blocks } } })) ∧
     (64 ≤ r ∨ ¬fits →
       exec (.setRecorder p r on unit offset drift fb) s =
         .next (answeredOnly s p tag { code := .badArgument, body := .empty }))) ∧
  (∀ (s : State) (p : PortId) (tag : Nat) (body : List Byte) (r i : Nat) (fields : Option BlockArgs),
     Taken s p 10 tag body → s.history.phase = .setup →
     let fits := ∀ b ∈ fields, b.first ≤ 65535 ∧ 1 ≤ b.count ∧ b.count ≤ 4096 ∧ b.base ≤ 4095
     (∀ (x : RecId) (y : BlockId), x.val = r → y.val = i → fits →
       exec (.setMapBlock p r i fields) s =
         .next (answered s p tag { code := .done, body := .empty }
           { s.popRequest p with
             tables :=
               { s.tables with
                 recorders := vput s.tables.recorders x
                   { s.tables.recorders.get x with
                     blocks := vput (s.tables.recorders.get x).blocks y
                       (fields.map fun b => { first := b.first, count := b.count, base := b.base }) } } })) ∧
     (64 ≤ r ∨ 8 ≤ i ∨ ¬fits →
       exec (.setMapBlock p r i fields) s = .next (answeredOnly s p tag { code := .badArgument, body := .empty })))

/-- R35: SET_STUDY in SETUP writes every present parameter and keeps every absent one; it is refused BAD_ARGUMENT with
no parameter or one out of range. -/
def Obligations.SetStudyWritesPresent : Prop :=
  ∀ (s : State) (p : PortId) (tag : Nat) (body : List Byte) (epoch : Option (BitVec 64)) (w th iv : Option Nat),
    Taken s p 11 tag body → s.history.phase = .setup →
    let fits := (epoch ≠ none ∨ w ≠ none ∨ th ≠ none ∨ iv ≠ none) ∧ (∀ x ∈ w, x ≤ 65535) ∧
      (∀ x ∈ th, 1 ≤ x ∧ x ≤ 1000000) ∧ ∀ x ∈ iv, 1 ≤ x ∧ x ≤ 3600
    (fits →
      exec (.setStudy p epoch w th iv) s =
        .next (answered s p tag { code := .done, body := .empty }
          { s.popRequest p with
            tables :=
              { s.tables with
                study :=
                  { epoch := epoch.getD s.tables.study.epoch
                    eventZero := s.tables.study.eventZero
                    window := w.getD s.tables.study.window
                    stepThreshold := th.getD s.tables.study.stepThreshold
                    interval := iv.getD s.tables.study.interval } } })) ∧
    (¬fits → exec (.setStudy p epoch w th iv) s = .next (answeredOnly s p tag { code := .badArgument, body := .empty }))

/-- R36: SET_EVENT_ZERO writes Event Zero in every phase, answers DONE and touches nothing else; a time above 2^40 − 1
is BAD_ARGUMENT. -/
def Obligations.SetEventZeroWrites : Prop :=
  ∀ (s : State) (p : PortId) (tag : Nat) (body : List Byte) (t : Nat), Taken s p 12 tag body →
    (t ≤ 2 ^ 40 - 1 →
      exec (.setEventZero p t) s =
        .next (answered s p tag { code := .done, body := .empty }
          { s.popRequest p with
            tables := { s.tables with study := { s.tables.study with eventZero := t } } })) ∧
    (2 ^ 40 - 1 < t →
      exec (.setEventZero p t) s = .next (answeredOnly s p tag { code := .badArgument, body := .empty }))

/-- R31: the four phase-gated table writes are refused WRONG_PHASE outside SETUP, whatever their arguments. -/
def Obligations.TableWritesRefusedOutsideSetup : Prop :=
  ∀ (c : Instr) (s : State) (p : PortId) (code tag : Nat) (body : List Byte), requestOf c = some (p, code) →
    code = 8 ∨ code = 9 ∨ code = 10 ∨ code = 11 → Taken s p code tag body → s.history.phase ≠ .setup →
    exec c s = .next (answeredOnly s p tag { code := .wrongPhase, body := .empty })

/-! ### Segments and recorder contexts -/

/-- R65, R66: LOAD_SEGMENT of an enabled recorder in COLLECTING joins a queue that holds fewer than 8; into an empty
queue it is taken into processing at once. R65, R176: its refusals, in their order, change nothing but the port (a
header reserved field that is not zero is BAD_ARGUMENT, log 13). -/
def Obligations.LoadSegmentQueuesOrRefuses : Prop :=
  (∀ (s : State) (p : PortId) (tag : Nat) (body : List Byte) (r : RecId), Taken s p 13 tag body →
     s.history.phase = .collecting → 8 ≤ body.length → byteAt body 0 = r.val → byteAt body 1 = 0 →
     leAt body 6 2 = 0 → (s.tables.recorders.get r).enabled = true → s.merge.queue.length < 8 →
     exec (.loadSegment p) s =
       .next (answered s p tag { code := .accepted, body := .queuePosition s.merge.queue.length }
         { s.popRequest p with
           merge :=
             { s.merge with
               queue := s.merge.queue ++ [{ port := p, recorder := r, seq := leAt body 2 2, body := body }]
               work :=
                 if s.merge.queue = [] then
                   some { saved := s.contexts.get r, working := (s.contexts.get r).timing, staged := []
                          stagedGaps := [], raised := 0 }
                 else s.merge.work } })) ∧
  (∀ (s : State) (p : PortId) (tag : Nat) (body : List Byte), Taken s p 13 tag body →
     let named := 8 ≤ body.length ∧ byteAt body 1 = 0 ∧ leAt body 6 2 = 0 ∧
       ∃ r : RecId, r.val = byteAt body 0 ∧ (s.tables.recorders.get r).enabled = true
     (s.history.phase ≠ .collecting →
       exec (.loadSegment p) s = .next (answeredOnly s p tag { code := .wrongPhase, body := .empty })) ∧
     (s.history.phase = .collecting → ¬named →
       exec (.loadSegment p) s = .next (answeredOnly s p tag { code := .badArgument, body := .empty })) ∧
     (s.history.phase = .collecting → named → 8 ≤ s.merge.queue.length →
       exec (.loadSegment p) s = .next (answeredOnly s p tag { code := .queueFull, body := .empty })))

/-- R73, R70, R72: CANCEL_SEGMENT takes the oldest segment the port submitted under the name out of the queue, whatever
stands there of other ports; the contexts, the store and the Gap List are untouched, and the next segment is taken into
processing when the one in progress was cancelled. R71: that port and each port subscribed to SEGMENTS_ALL takes its
SEGMENT_DONE, outcome CANCELLED with counts of 0, and no port takes another notice. Otherwise it is NOT_OWNER, TOO_LATE
with the outcome, or NOT_FOUND. -/
def Obligations.CancelSegmentRules : Prop :=
  ∀ (s : State) (p : PortId) (tag : Nat) (body : List Byte) (r : RecId) (seq : Nat), Taken s p 14 tag body →
    let mine : QueuedSegment → Prop := fun g => g.recorder = r ∧ g.seq = seq ∧ g.port = p
    (∀ (before after : List QueuedSegment) (g : QueuedSegment), s.merge.queue = before ++ g :: after → mine g →
      (∀ h ∈ before, ¬mine h) →
      ∃ t, exec (.cancelSegment p r.val seq) s = .next t ∧ Responded t p tag { code := .done, body := .empty } ∧
        t.merge.queue = before ++ after ∧
        (before ≠ [] → t.merge.work = s.merge.work) ∧
        (before = [] → t.merge.work = after.head?.map fun h => workOf (s.contexts.get h.recorder)) ∧
        (t.merge.finished.get p).getLast? = some { recorder := r, seq := seq, outcome := .cancelled } ∧
        (∀ q : PortId, q ≠ p → t.merge.finished.get q = s.merge.finished.get q) ∧
        (∀ q : PortId,
          t.live.port q =
            { ((s.popRequest p).live.port q).takes (segmentTold g .cancelled 0 0 none q (s.live.port q).subs) with
              response := (t.live.port q).response } ∧
          (q ≠ p → (t.live.port q).response = (s.live.port q).response)) ∧
        t.history = s.history ∧ t.contexts = s.contexts ∧ t.gaps = s.gaps ∧ t.tables = s.tables ∧
        t.clock = s.clock ∧ t.live.cursors = s.live.cursors ∧ t.live.checkpoints = s.live.checkpoints ∧
        t.resetLow = s.resetLow ∧ t.pending = s.pending) ∧
    ((∀ g ∈ s.merge.queue, ¬mine g) →
      ((∃ g ∈ s.merge.queue, g.recorder = r ∧ g.seq = seq) →
        exec (.cancelSegment p r.val seq) s = .next (answeredOnly s p tag { code := .notOwner, body := .empty })) ∧
      ((∀ g ∈ s.merge.queue, ¬(g.recorder = r ∧ g.seq = seq)) →
        (∀ (older newer : List FinishedSegment) (x : FinishedSegment),
          s.merge.finished.get p = older ++ x :: newer → x.recorder = r → x.seq = seq →
          (∀ y ∈ newer, ¬(y.recorder = r ∧ y.seq = seq)) →
          exec (.cancelSegment p r.val seq) s =
            .next (answeredOnly s p tag { code := .tooLate, body := .outcome x.outcome })) ∧
        ((∀ y ∈ s.merge.finished.get p, ¬(y.recorder = r ∧ y.seq = seq)) →
          exec (.cancelSegment p r.val seq) s =
            .next (answeredOnly s p tag { code := .notFound, body := .empty })))) ∧
    ∀ n : Nat, 64 ≤ n →
      exec (.cancelSegment p n seq) s = .next (answeredOnly s p tag { code := .badArgument, body := .empty })

/-- R81: READ_RECORDER answers the committed context, its attention, the number of its queued segments and whether one
is in progress. R77, R78, R187: SET_ATTENTION_MASK replaces one recorder's mask; a rising edge of its attention tells
the ports subscribed to ATTENTION. R79, R187: CLEAR_CAUSES clears the named flags, and noted when asked, answers what
stands after it and sends no notice. Bodies that do not fit are BAD_ARGUMENT; that bits 1 to 7 of the clear-noted byte
count as reserved is the model's choice (log 41). -/
def Obligations.RecorderContextRequests : Prop :=
  (∀ (s : State) (p : PortId) (tag : Nat) (body : List Byte), Taken s p 15 tag body →
     (∀ r : RecId,
       exec (.readRecorder p r.val) s =
         .next (answeredOnly s p tag
           { code := .done
             body := .recorder r (s.contexts.get r) (decide ((s.contexts.get r).flags &&& (s.contexts.get r).mask ≠ 0))
               (s.merge.queue.filter fun g => g.recorder == r).length
               (s.merge.work.isSome && s.merge.queue.head?.elim false fun g => g.recorder == r) })) ∧
     ∀ n : Nat, 64 ≤ n →
       exec (.readRecorder p n) s = .next (answeredOnly s p tag { code := .badArgument, body := .empty })) ∧
  (∀ (s : State) (p : PortId) (tag : Nat) (body : List Byte), Taken s p 16 tag body →
     (∀ r : RecId, body.length = 4 → byteAt body 0 = r.val → byteAt body 1 = 0 → leAt body 2 2 < 2048 →
       let c := s.contexts.get r
       let d : Context := { c with mask := BitVec.ofNat 11 (leAt body 2 2) }
       exec (.setAttentionMask p) s =
         .next (answered s p tag { code := .done, body := .empty }
           { s.popRequest p with
             contexts := vput s.contexts r d
             live :=
               if c.flags &&& c.mask = 0 ∧ d.flags &&& d.mask ≠ 0 then
                 (s.popRequest p).live.notifyWhere (fun _ q => q.subs.attention)
                   (.recorderAttention r d.flags d.mask d.noted)
               else (s.popRequest p).live })) ∧
     ((body.length ≠ 4 ∨ 64 ≤ byteAt body 0 ∨ byteAt body 1 ≠ 0 ∨ 2048 ≤ leAt body 2 2) →
       exec (.setAttentionMask p) s = .next (answeredOnly s p tag { code := .badArgument, body := .empty }))) ∧
  (∀ (s : State) (p : PortId) (tag : Nat) (body : List Byte), Taken s p 17 tag body →
     (∀ r : RecId, body.length = 5 → byteAt body 0 = r.val → byteAt body 1 = 0 → leAt body 2 2 < 2048 →
       byteAt body 4 < 2 →
       let c := s.contexts.get r
       let flags := c.flags &&& ~~~BitVec.ofNat 11 (leAt body 2 2)
       let noted := c.noted && !(byteAt body 4 == 1)
       exec (.clearCauses p) s =
         .next (answered s p tag { code := .done, body := .causes flags noted }
           { s.popRequest p with contexts := vput s.contexts r { c with flags := flags, noted := noted } })) ∧
     ((body.length ≠ 5 ∨ 64 ≤ byteAt body 0 ∨ byteAt body 1 ≠ 0 ∨ 2048 ≤ leAt body 2 2 ∨ 2 ≤ byteAt body 4) →
       exec (.clearCauses p) s = .next (answeredOnly s p tag { code := .badArgument, body := .empty })))

/-- R12, R20, R21, R68, R71, R72, R75 to R77: the commit of the segment in progress, when its processing has come to one
and the store refuses it for neither source identity nor capacity: its candidates and gap changes are in the store, its
timing is the recorder's, its causes are merged, every checkpoint at or after the reach is invalid, and the next segment
is in progress. Each port takes the SEGMENT_DONE with the counts, the RECORDER_ATTENTION of a rising edge, and the
BATCH_READY of the cursors that become HELD. R22: a touched record at or before a cursor's comparison time marks it
overtaken. R114, R117, R122, R158, R170: a RUNNING cursor at a step boundary rebases when it is overtaken; a touched
record after its position releases a cursor at the head; a touched record of its point at or before its instant restarts
a computing probe. What the segment's candidates do one by one is stated of takeCandidates. R66, R67: what processing
comes to is that of the oldest queued segment, from the working copy that is in progress, with nothing staged when it
was taken. R14: the identity check fails exactly when a candidate's source stands in a record of the store; that it also
compares the candidates with each other is the model's reading (log 15). R21: the reach is the least of the touched
records' times and of the starts of the gaps added or closed, absent when there is none of either. R20: the gap changes
act in order. R4: the greatest committed time is that of the records as they then stand. -/
def Obligations.SegmentCommitInstalls : Prop :=
  (∀ (s : State) (g : QueuedSegment) (x : Proc), s.resetLow = false → s.verdict = some (g, .commit x) →
     identityFails s.history.records x.staged = false → s.history.commitCount + x.staged.length ≤ 262144 →
     let acc := takeCandidates s.tables.study.window s.history x.staged
     ∃ t, exec .segmentCommit s = .next t ∧
       t.history.records = acc.history.records ∧ t.history.commitCount = acc.history.commitCount ∧
       t.history.phase = s.history.phase ∧ t.history.greatest = greatestTime acc.history.records ∧
       t.gaps = applyGaps s.gaps x.gapChanges ∧
       (t.contexts.get g.recorder).timing = x.timing ∧
       (t.contexts.get g.recorder).flags =
         (s.contexts.get g.recorder).flags ||| x.raised ||| (if acc.full = [] then 0 else Cause.corrobFull.set) ∧
       Merged (s.contexts.get g.recorder) (t.contexts.get g.recorder)
         (fun c => x.raised.holds c = true ∨ c = .corrobFull ∧ acc.full ≠ []) ∧
       (∀ r : RecId, r ≠ g.recorder → t.contexts.get r = s.contexts.get r) ∧
       t.merge.queue = s.merge.queue.drop 1 ∧
       t.merge.work = (s.merge.queue.drop 1).head?.map (fun h => workOf (t.contexts.get h.recorder)) ∧
       (t.merge.finished.get g.port).getLast? =
         some { recorder := g.recorder, seq := g.seq, outcome := .committed } ∧
       (∀ i : CkptId, (t.live.checkpoints.entries.get i).valid = true ↔
         (s.live.checkpoints.entries.get i).valid = true ∧
           ∀ reach ∈ commitReach acc.touched (gapStarts (applyGaps s.gaps x.gapChanges) x.gapChanges),
             (s.live.checkpoints.entries.get i).instant < reach) ∧
       t.tables = s.tables ∧ t.clock = s.clock ∧ t.resetLow = s.resetLow ∧ t.pending = s.pending ∧
       (∀ q : PortId, ∃ ns : List Notice,
         t.live.port q =
           (s.live.port q).takes
             (segmentTold g .committed acc.committed acc.corroborated none q (s.live.port q).subs ++
               risen g.recorder (s.contexts.get g.recorder) (t.contexts.get g.recorder) (s.live.port q).subs ++ ns) ∧
         (∀ n ∈ ns, n.kind = .batchReady) ∧
         ((∀ (k : Slot) (c : Cursor), s.live.cursor k = some c → c.owner ≠ q) → ns = [])) ∧
       (∀ k : Slot, s.live.cursor k = none → t.live.cursor k = none) ∧
       ∀ (k : Slot) (c : Cursor), s.live.cursor k = some c →
         ∃ d, t.live.cursor k = some d ∧ AfterCommit t acc.touched c d) ∧
  (∀ (s : State) (g : QueuedSegment) (v : Verdict),
     (s.verdict = some (g, v) ↔
       ∃ (rest : List QueuedSegment) (w : Work), s.merge.queue = g :: rest ∧ s.merge.work = some w ∧
         v = processSegment (s.procEnv g.recorder) w g) ∧
     s.procEnv g.recorder =
       { slot := g.recorder, entry := s.tables.recorders.get g.recorder, tables := s.tables
         gapsHeld := s.gaps.length }) ∧
  (∀ (w : Work) (c : Context),
     Proc.begin w =
         { timing := w.working, staged := w.staged, gapChanges := w.stagedGaps, opened := 0, raised := w.raised } ∧
       workOf c = { saved := c, working := c.timing, staged := [], stagedGaps := [], raised := 0 }) ∧
  (∀ (rs : List Record) (cs : List Candidate),
     let one (a b : Source) : Prop := a.recorder = b.recorder ∧ a.seq = b.seq ∧ a.idx = b.idx
     identityFails rs cs = true ↔
       (∃ c ∈ cs, ∃ r ∈ rs, ∃ x ∈ r.sources, one c.source x) ∨
         ¬cs.Pairwise fun a b => ¬one a.source b.source) ∧
  (∀ (touched : List Touched) (starts : List Nat),
     let times := touched.flatMap Touched.times ++ starts
     (commitReach touched starts = none ↔ times = []) ∧
       ∀ t : Nat, commitReach touched starts = some t ↔ t ∈ times ∧ ∀ x ∈ times, t ≤ x) ∧
  (∀ (gs : List Gap) (cs : List GapChange) (c : GapChange) (t : Nat),
     applyGaps gs [] = gs ∧ applyGaps gs (cs ++ [c]) = applyGap (applyGaps gs cs) c ∧
       (t ∈ gapStarts gs cs ↔
         (∃ r lost, GapChange.opening r t lost ∈ cs) ∨
           ∃ i x g, GapChange.closing i x ∈ cs ∧ gs[i]? = some g ∧ g.start = t)) ∧
  ∀ rs : List Record, (greatestTime rs = none ↔ rs = []) ∧
    ∀ t : Nat, greatestTime rs = some t ↔ (∃ r ∈ rs, r.time = t) ∧ ∀ r ∈ rs, r.time ≤ t

/-- R14, R15, R69 to R72: a segment that fails, in processing or at the store's checks, leaves the store, the Gap List,
every cursor, checkpoint and recorder timing as they stood, merges its failure set (R75, R76: flags and noted rise, the
enable mask stands), and the next segment is in progress. R71, R77: each port takes its SEGMENT_DONE with the outcome,
counts of 0 and the entry index that processing reports (none from the store's checks), then the RECORDER_ATTENTION of a
rising edge, and no other notice. That the identity check also compares the commit's own candidates with each other is
the model's reading (log 15). -/
def Obligations.SegmentFailureDiscards : Prop :=
  ∀ (s : State) (g : QueuedSegment) (o : SegOutcome) (entry : Option Nat) (cmd : Instr), s.resetLow = false →
    ((cmd = .segmentFailure ∧ s.verdict = some (g, .failed o entry)) ∨
      (cmd = .segmentCommit ∧ entry = none ∧ ∃ x, s.verdict = some (g, .commit x) ∧
        ((identityFails s.history.records x.staged = true ∧ o = .duplicate) ∨
          (identityFails s.history.records x.staged = false ∧ 262144 < s.history.commitCount + x.staged.length ∧
            o = .storeFull)))) →
    ∃ t, exec cmd s = .next t ∧ t.history = s.history ∧ t.gaps = s.gaps ∧ t.tables = s.tables ∧ t.clock = s.clock ∧
      t.live.cursors = s.live.cursors ∧ t.live.checkpoints = s.live.checkpoints ∧
      (∀ r : RecId, (t.contexts.get r).timing = (s.contexts.get r).timing) ∧
      (let raised : CauseSet :=
         match o with
         | .noTimeBase => Cause.segmentFailed.set ||| Cause.noTimeBase.set
         | .cancelled | .cleared | .committed => 0
         | _ => Cause.segmentFailed.set
       (t.contexts.get g.recorder).flags = (s.contexts.get g.recorder).flags ||| raised ∧
         Merged (s.contexts.get g.recorder) (t.contexts.get g.recorder) fun c => raised.holds c = true) ∧
      (∀ r : RecId, r ≠ g.recorder → t.contexts.get r = s.contexts.get r) ∧
      t.merge.queue = s.merge.queue.drop 1 ∧
      t.merge.work = (s.merge.queue.drop 1).head?.map (fun h => workOf (t.contexts.get h.recorder)) ∧
      (t.merge.finished.get g.port).getLast? = some { recorder := g.recorder, seq := g.seq, outcome := o } ∧
      (∀ q : PortId,
        t.live.port q =
          (s.live.port q).takes
            (segmentTold g o 0 0 entry q (s.live.port q).subs ++
              risen g.recorder (s.contexts.get g.recorder) (t.contexts.get g.recorder) (s.live.port q).subs)) ∧
      t.resetLow = s.resetLow ∧ t.pending = s.pending

/-- R41, R188, Tables 11-3 and 11-4: the form check passes exactly the bodies that lay out a header without reserved
bits and the 1 to 1,024 entries of Table 3-1 that it declares, and reads those entries; a body it does not pass is
MALFORMED, with the index of the first entry at fault: the entries before it are laid out in full, and it is not; and
where header and count are sound, it has that index. A body without header, with a count out of range, with a count that
its entries read unit by unit do not number, or which those entries do not exhaust, has no index; that one whose count
and entries are both at fault has none is the model's deduction (log 14). R42, R58, R69: the sequence check of a sound
segment against the recorder's last sequence: distance 1 is the successor; 2 to 32,767 is a segment gap, which acts as a
LOSS of unknown count with its own cause; 0 and 32,768 to 65,535 fail DUPLICATE. A recorder with no last sequence takes
any. -/
def Obligations.SequenceCheck : Prop :=
  (∀ (body : List Byte) (es : List SegEntry),
     formCheck body = .ok es ↔
       8 ≤ body.length ∧ byteAt body 1 = 0 ∧ leAt body 6 2 = 0 ∧ 1 ≤ es.length ∧ es.length ≤ 1024 ∧
         leAt body 4 2 = es.length ∧ (∀ x ∈ es, x.inRange) ∧ body.drop 8 = es.flatMap SegEntry.units) ∧
  (∀ (body : List Byte) (i : Nat), formCheck body = .error (some i) →
     i < leAt body 4 2 ∧ ∃ (es : List SegEntry) (rest : List Byte), es.length = i ∧ (∀ x ∈ es, x.inRange) ∧
       body.drop 8 = es.flatMap SegEntry.units ++ rest ∧
       ∀ (x : SegEntry) (more : List Byte), x.inRange → rest ≠ x.units ++ more) ∧
  (∀ (body : List Byte) (es : List SegEntry) (rest : List Byte) (parts : List (List Byte)), 8 ≤ body.length →
     byteAt body 1 = 0 → leAt body 6 2 = 0 → leAt body 4 2 ≤ 1024 → EntryUnits (body.drop 8) parts →
     parts.length = leAt body 4 2 → es.length < leAt body 4 2 → (∀ x ∈ es, x.inRange) →
     body.drop 8 = es.flatMap SegEntry.units ++ rest →
     (∀ (x : SegEntry) (more : List Byte), x.inRange → rest ≠ x.units ++ more) →
     formCheck body = .error (some es.length)) ∧
  (∀ body : List Byte,
     ((∃ parts, EntryUnits (body.drop 8) parts ∧ parts.length ≠ leAt body 4 2) ∨
       ∀ parts, ¬EntryUnits (body.drop 8) parts) →
     formCheck body = .error none) ∧
  (∀ body : List Byte,
     (body.length < 8 ∨ byteAt body 1 ≠ 0 ∨ leAt body 6 2 ≠ 0 ∨ leAt body 4 2 = 0 ∨ 1024 < leAt body 4 2 ∨
       body.length % 8 ≠ 0) →
     formCheck body = .error none) ∧
  (∀ (v : ProcEnv) (w : Work) (g : QueuedSegment) (i : Option Nat), formCheck g.body = .error i →
     processSegment v w g = .failed .malformed i) ∧
  ∀ (v : ProcEnv) (w : Work) (g : QueuedSegment) (es : List SegEntry), formCheck g.body = .ok es →
    (w.working.lastSeq = none → processSegment v w g = runEntries v g.seq (Proc.begin w) es) ∧
    ∀ last : Nat, w.working.lastSeq = some last → last < 65536 → g.seq < 65536 →
      (g.seq = (last + 1) % 65536 → processSegment v w g = runEntries v g.seq (Proc.begin w) es) ∧
      (∀ d : Nat, 2 ≤ d → d ≤ 32767 → g.seq = (last + d) % 65536 →
        processSegment v w g =
          match (Proc.begin w).loss v .segmentGap none with
          | none => .failed .noTimeBase none
          | some q => runEntries v g.seq q es) ∧
      (∀ d : Nat, 32768 ≤ d → d ≤ 65536 → g.seq = (last + d) % 65536 →
        processSegment v w g = .failed .duplicate none)

/-- R52, R48, R46: in ANCHORED a mapped CHANGE whose corrected time lies on the grid is placed at the running time with
the base quality; below the recorder's last record time it raises BACKWARD. R54, R59: in ANCHORED a LOSS raises LOSS,
opens a gap at the later of last record and last anchor time, and leaves the recorder UNANCHORED with its last known,
record and anchor times and its drift base. R46: the correction, its drift term rounded toward zero. R48, R52, R55: a
CHANGE in ANCHORED or ESTIMATING, dropped or not. R49: a CHANGE in UNANCHORED joins the pending list, and finds 64
entries there only after a spill. R56, R57: a spill places each entry at the estimate base plus its ticks, and there is
none without a base. R47, R50, R53, R55: an ANCHOR in the three states, with the entries it back-places, the CLOCK_STEP
it judges and the gap it closes. R51, R54, R55, R58, R59: a LOSS, or a segment gap with its own cause, in the three
states, with a full Gap List. R20, R60, R61: what a staged gap change does to the Gap List. R44: ticks advance the
running time or, with entries pending, the tick count, up to 2^48 − 1. R28, R45: the one block that covers a channel
gives its point; a channel no block covers, or one of a disabled point, has none; that one which a block maps above
4,095, where validation lets none be, has none is the model's choice (log 57). R40, R45: an entry acts after its tick
delta, a STEP by a second advance, a CHANGE without a point by UNMAPPED alone. R67, R71: the entries act in order; a
spill without a base fails the segment NO_TIME_BASE at its entry. That a spill's running time stays at 2^48 − 1, and
that an entry past it leaves the last known time, is the model's deduction (log 25). -/
def Obligations.AnchoredEntriesAct : Prop :=
  (∀ (v : ProcEnv) (x : PendingEntry) (p : Proc) (r t : Nat) (q : AnchorQuality), p.timing.state = .anchored →
     p.timing.running = some r → p.timing.baseQuality = some q → correct v.entry p.timing.driftBase r = (t : Int) →
     t ≤ 2 ^ 40 - 1 →
     ∃ y : Proc, p.change v x = some y ∧
       y.staged = p.staged ++
         [{ time := t, point := x.point, state := x.state
            quality := match q with
              | .locked => .locked
              | .free => .free
            cause := x.cause
            source := { recorder := v.slot, seq := x.seq, idx := x.idx, recorderTime := r } }] ∧
       y.timing = { p.timing with lastKnown := some r, lastRecord := some t } ∧ y.gapChanges = p.gapChanges ∧
       y.raised = (if ∃ l ∈ p.timing.lastRecord, t < l then p.raised ||| Cause.backward.set else p.raised)) ∧
  (∀ (v : ProcEnv) (lost : Option Nat) (p : Proc), p.timing.state = .anchored → v.gapsHeld + p.opened < 512 →
     ∃ y : Proc, p.loss v .loss lost = some y ∧ y.staged = p.staged ∧ y.raised = p.raised ||| Cause.loss.set ∧
       y.gapChanges = p.gapChanges ++
         [.opening v.slot (max (p.timing.lastRecord.getD 0) (p.timing.lastAnchor.getD 0)) lost] ∧
       y.timing =
         { p.timing with
           state := .unanchored, running := none, baseQuality := none, openGap := some (v.gapsHeld + p.opened) }) ∧
  (∀ (x : RecorderEntry) (r : Nat), correct x none r = (r : Int) + x.offset ∧
     ∀ b : Nat, correct x (some b) r =
       (r : Int) + x.offset + (x.drift * ((r : Int) - (b : Int))).tdiv 1000000) ∧
  (∀ (v : ProcEnv) (x : PendingEntry) (p : Proc) (r : Nat) (q : Quality), p.timing.running = some r →
     (p.timing.state = .anchored ∧
         (p.timing.baseQuality = some .locked ∧ q = .locked ∨ p.timing.baseQuality = some .free ∧ q = .free) ∨
       p.timing.state = .estimating ∧ q = .estimated) →
     let placed := placedAll v p.timing.driftBase q [(x, some r)]
     ∃ y : Proc, p.change v x = some y ∧ y.staged = p.staged ++ placed ∧ y.gapChanges = p.gapChanges ∧
       y.opened = p.opened ∧
       y.timing =
         { p.timing with lastKnown := some r, lastRecord := lastRecordAfter p.timing.lastRecord placed } ∧
       RaisesMore p.raised y.raised (placingRaises v p.timing.driftBase p.timing.lastRecord q [(x, some r)])) ∧
  (∀ (v : ProcEnv) (x : PendingEntry) (p : Proc), p.timing.state = .unanchored →
     (p.timing.pendingList.length < 64 →
       let n := if p.timing.pendingList = [] then 0 else p.timing.tickCount
       p.change v x =
         some
           { p with
             timing :=
               { p.timing with
                 tickCount := n, pendingList := p.timing.pendingList ++ [{ x with ticks := n }] } }) ∧
     (64 ≤ p.timing.pendingList.length →
       (p.spill v = none → p.change v x = none) ∧ ∀ z, p.spill v = some z → p.change v x = z.change v x)) ∧
  (∀ (v : ProcEnv) (p : Proc),
     let base := p.timing.lastKnown.orElse fun _ => v.entry.fallback
     (base = none → p.spill v = none) ∧
     ∀ b : Nat, base = some b →
       let timed := estimated b v.entry.tickUnit p.timing.pendingList
       let placed := placedAll v p.timing.driftBase .estimated timed
       ∃ y : Proc, p.spill v = some y ∧ y.staged = p.staged ++ placed ∧ y.gapChanges = p.gapChanges ∧
         y.opened = p.opened ∧
         y.timing =
           { p.timing with
             state := .estimating
             running := some (min (b + p.timing.tickCount * v.entry.tickUnit) (2 ^ 48 - 1))
             pendingList := [], tickCount := 0, lastKnown := lastKnownAfter p.timing.lastKnown timed
             lastRecord := lastRecordAfter p.timing.lastRecord placed } ∧
         RaisesMore p.raised y.raised
           (fun c => c = .pendingSpill ∨
             placingRaises v p.timing.driftBase p.timing.lastRecord .estimated timed c)) ∧
  (∀ (v : ProcEnv) (a : Nat) (q : AnchorQuality) (p : Proc),
     let base := if q = .locked then a else p.timing.driftBase.getD a
     let g := correct v.entry (some base) a
     let off := g < 0 ∨ 2 ^ 40 - 1 < g
     let time := min g.toNat (2 ^ 40 - 1)
     let stepped := ∃ r, p.timing.running = some r ∧ v.tables.study.stepThreshold < (a - r) + (r - a)
     let y := p.anchor v a q
     y.timing.state = .anchored ∧ y.timing.running = some a ∧ y.timing.baseQuality = some q ∧
       y.timing.driftBase = some base ∧ y.timing.lastKnown = some a ∧ y.timing.lastAnchor = some time ∧
       y.timing.lastSeq = p.timing.lastSeq ∧ y.opened = p.opened ∧
       (p.timing.state = .anchored → y.gapChanges = p.gapChanges ∧ y.timing.openGap = p.timing.openGap) ∧
       (p.timing.state ≠ .anchored →
         y.gapChanges = p.gapChanges ++ (p.timing.openGap.toList.map fun i => .closing i time) ∧
           y.timing.openGap = none) ∧
       (p.timing.state ≠ .unanchored →
         y.staged = p.staged ∧ y.timing.lastRecord = p.timing.lastRecord ∧
           y.timing.pendingList = p.timing.pendingList ∧ y.timing.tickCount = p.timing.tickCount ∧
           RaisesMore p.raised y.raised (fun c => c = .clockStep ∧ stepped ∨ c = .timeRange ∧ off)) ∧
       (p.timing.state = .unanchored →
         let timed := backPlaced a p.timing.tickCount v.entry.tickUnit p.timing.pendingList
         let quality : Quality := if q = .locked then .locked else .free
         let placed := placedAll v (some base) quality timed
         y.staged = p.staged ++ placed ∧ y.timing.lastRecord = lastRecordAfter p.timing.lastRecord placed ∧
           y.timing.pendingList = [] ∧ y.timing.tickCount = 0 ∧
           RaisesMore p.raised y.raised
             (fun c => placingRaises v (some base) p.timing.lastRecord quality timed c ∨ c = .timeRange ∧ off))) ∧
  (∀ (v : ProcEnv) (cause : Cause) (lost : Option Nat) (p : Proc),
     let opens := p.timing.state = .anchored ∨ p.timing.openGap = none
     (p.timing.state = .unanchored → p.timing.pendingList ≠ [] →
       (p.spill v = none → p.loss v cause lost = none) ∧
         ∀ z, p.spill v = some z → p.loss v cause lost = z.loss v cause lost) ∧
     ((p.timing.state ≠ .unanchored ∨ p.timing.pendingList = []) →
       ∃ y : Proc, p.loss v cause lost = some y ∧ y.staged = p.staged ∧
         (p.timing.state = .unanchored →
           y.timing = { p.timing with openGap := y.timing.openGap }) ∧
         (p.timing.state ≠ .unanchored →
           y.timing =
             { p.timing with
               state := .unanchored, running := none, baseQuality := none, openGap := y.timing.openGap }) ∧
         (∀ i, ¬opens → p.timing.openGap = some i →
           y.gapChanges = p.gapChanges ++ [.addLost i lost] ∧ y.timing.openGap = some i ∧ y.opened = p.opened ∧
             y.raised = p.raised ||| cause.set) ∧
         (opens → v.gapsHeld + p.opened < 512 →
           y.gapChanges = p.gapChanges ++
               [.opening v.slot (max (p.timing.lastRecord.getD 0) (p.timing.lastAnchor.getD 0)) lost] ∧
             y.timing.openGap = some (v.gapsHeld + p.opened) ∧ y.opened = p.opened + 1 ∧
             y.raised = p.raised ||| cause.set) ∧
         (opens → 512 ≤ v.gapsHeld + p.opened →
           y.gapChanges = p.gapChanges ∧ y.timing.openGap = none ∧ y.opened = p.opened ∧
             y.raised = p.raised ||| cause.set ||| Cause.gapListFull.set))) ∧
  (∀ (gs : List Gap) (r : RecId) (i j start t : Nat) (lost : Option Nat),
     applyGap gs (.opening r start lost) = gs ++ [{ recorder := r, start := start, stop := none, lost := lost }] ∧
     (j ≠ i → (applyGap gs (.closing i t))[j]? = gs[j]? ∧ (applyGap gs (.addLost i lost))[j]? = gs[j]?) ∧
     (applyGap gs (.closing i t))[i]? = (gs[i]?).map (fun g => { g with stop := some (max t g.start) }) ∧
     (∀ g, gs[i]? = some g →
       ∃ n, (applyGap gs (.addLost i lost))[i]? = some { g with lost := n } ∧
         (∀ a b, g.lost = some a → lost = some b → n = some (min (a + b) 4294967295)) ∧
         ((g.lost = none ∨ lost = none) → n = none))) ∧
  (∀ (v : ProcEnv) (p : Proc) (n : Nat),
     (p.timing.state ≠ .unanchored →
       p.advance v n =
         { p with
           timing :=
             { p.timing with
               running := p.timing.running.map fun r => min (r + n * v.entry.tickUnit) (2 ^ 48 - 1) } }) ∧
     (p.timing.state = .unanchored → p.timing.pendingList ≠ [] →
       p.advance v n =
         { p with timing := { p.timing with tickCount := min (p.timing.tickCount + n) (2 ^ 48 - 1) } }) ∧
     (p.timing.state = .unanchored → p.timing.pendingList = [] → p.advance v n = p)) ∧
  (∀ (v : ProcEnv) (ch : Nat),
     let covers (i : BlockId) (b : MapBlock) : Prop :=
       v.entry.blocks.get i = some b ∧ b.first ≤ ch ∧ ch < b.first + b.count
     ((∀ (i : BlockId) (b : MapBlock), ¬covers i b) → v.pointOf ch = none) ∧
     ∀ (i : BlockId) (b : MapBlock), covers i b →
       (∀ (j : BlockId) (x : MapBlock), covers j x → j = i) →
       (4096 ≤ b.base + (ch - b.first) → v.pointOf ch = none) ∧
       ∀ pt : PointId, pt.val = b.base + (ch - b.first) →
         v.pointOf ch = if (v.tables.points.get pt).enabled then some pt else none) ∧
  (∀ (v : ProcEnv) (seq i : Nat) (p : Proc) (d : Nat),
     let q := p.advance v d
     (∀ (a : Nat) (x : AnchorQuality), p.entry v seq i (.anchor d a x) = some (q.anchor v a x)) ∧
     (∀ n : Nat, p.entry v seq i (.step d n) = some (q.advance v n)) ∧
     (∀ lost : Option Nat, p.entry v seq i (.loss d lost) = q.loss v .loss lost) ∧
     ∀ (ch : Nat) (st : SwState) (cause : Option Nat),
       (v.pointOf ch = none →
         p.entry v seq i (.change d ch st cause) = some { q with raised := q.raised ||| Cause.unmapped.set }) ∧
       ∀ pt : PointId, v.pointOf ch = some pt →
         p.entry v seq i (.change d ch st cause) =
           q.change v { seq := seq, idx := i, point := pt, state := st, cause := cause, ticks := 0 }) ∧
  (∀ (v : ProcEnv) (seq i : Nat) (p : Proc) (x : SegEntry) (es : List SegEntry),
     p.entries v seq i [] = .ok p ∧
     (p.entry v seq i x = none → p.entries v seq i (x :: es) = .error i) ∧
     (∀ q, p.entry v seq i x = some q → p.entries v seq i (x :: es) = q.entries v seq (i + 1) es) ∧
     (∀ j, p.entries v seq 0 es = .error j → runEntries v seq p es = .failed .noTimeBase (some j)) ∧
     ∀ q, p.entries v seq 0 es = .ok q →
       runEntries v seq p es = .commit { q with timing := { q.timing with lastSeq := some seq } })

/-- R16: the match of a candidate is a record of its point and state within the window that holds no source of the
candidate's recorder, the nearest in time, and of two equally near the one earlier in key order; there is none exactly
when no record is such. -/
def Obligations.MatchIsNearest : Prop :=
  ∀ (window : Nat) (c : Candidate) (rs : List Record),
    let fits : Record → Prop := fun r =>
      r.point = c.point ∧ r.state = c.state ∧ r.time ≤ c.time + window ∧ c.time ≤ r.time + window ∧
        ∀ x ∈ r.sources, x.recorder ≠ c.source.recorder
    (findMatch window c rs = none ↔ ∀ r ∈ rs, ¬fits r) ∧
    ∀ m, findMatch window c rs = some m →
      m ∈ rs ∧ fits m ∧
        (∀ r ∈ rs, fits r → (m.time - c.time) + (c.time - m.time) ≤ (r.time - c.time) + (c.time - r.time)) ∧
        ((rs.Pairwise fun a b => keyBefore a.key b.key = true) →
          ∀ r ∈ rs, fits r → (m.time - c.time) + (c.time - m.time) = (r.time - c.time) + (c.time - r.time) →
            r = m ∨ keyBefore m.key r.key = true)

/-- R19, R3: a candidate that matches no record becomes a new record with the next commit number, in its place in key
order; it is LATE when its time is below the greatest committed time before the commit. R17, R18: a candidate that
matches a record with room adds its source; of strictly better quality (LOCKED before FREE before ESTIMATED) it moves
the record to its own time and becomes the timing source, else the record keeps its place; a full source list takes
nothing. R12: a commit takes its candidates one by one in staging order, from the store as it stands. R2: a record takes
its place in key order; the key is the record's time with its timing source, compared field by field as plain numbers.
-/
def Obligations.CandidateBecomesOrCorroborates : Prop :=
  (∀ (window : Nat) (greatest : Option Nat) (a : CommitAcc) (c : Candidate),
     findMatch window c a.history.records = none →
     ∃ (r : Record) (before after : List Record),
       r.time = c.time ∧ r.point = c.point ∧ r.state = c.state ∧ r.quality = c.quality ∧ r.cause = c.cause ∧
       r.sources = [c.source] ∧ r.commit = a.history.commitCount + 1 ∧ r.repositioned = false ∧
       (r.late = true ↔ ∃ g, greatest = some g ∧ c.time < g) ∧
       a.history.records = before ++ after ∧
       (takeCandidate window greatest a c).history =
         { a.history with records := before ++ r :: after, commitCount := a.history.commitCount + 1 } ∧
       (∀ x ∈ before, keyBefore r.key x.key = false) ∧ (∀ x ∈ after.head?, keyBefore r.key x.key = true) ∧
       (takeCandidate window greatest a c).committed = a.committed + 1 ∧
       (takeCandidate window greatest a c).corroborated = a.corroborated ∧
       (takeCandidate window greatest a c).touched =
         a.touched ++ [{ commit := r.commit, point := r.point, times := [r.time], key := r.key }]) ∧
  (∀ (window : Nat) (greatest : Option Nat) (a : CommitAcc) (c : Candidate) (m : Record),
     findMatch window c a.history.records = some m →
     let b := takeCandidate window greatest a c
     let better := c.quality = .locked ∧ m.quality ≠ .locked ∨ c.quality = .free ∧ m.quality = .estimated
     (4 ≤ m.sources.length → b = { a with full := a.full ++ [c.source.recorder] }) ∧
     (m.sources.length < 4 → ¬better →
       b.history.records =
           a.history.records.map (fun x =>
             if x.commit = m.commit then
               { m with others := m.others ++ [c.source], cause := if m.cause = none then c.cause else m.cause }
             else x) ∧
         b.history.commitCount = a.history.commitCount ∧ b.touched = a.touched ∧ b.committed = a.committed ∧
         b.corroborated = a.corroborated + 1) ∧
     (m.sources.length < 4 → better →
       let r : Record :=
         { time := c.time, point := m.point, state := m.state, quality := c.quality
           cause := if m.cause = none then c.cause else m.cause, timing := c.source, others := m.sources
           commit := m.commit, late := m.late, repositioned := true }
       b.history.records = insertRecord r (a.history.records.filter fun x => x.commit != m.commit) ∧
         b.history.commitCount = a.history.commitCount ∧ b.committed = a.committed ∧
         b.corroborated = a.corroborated + 1 ∧
         b.touched =
           a.touched ++ [{ commit := m.commit, point := m.point, times := [m.time, c.time], key := r.key }])) ∧
  (∀ (window : Nat) (h : History) (cs : List Candidate) (c : Candidate),
     takeCandidates window h [] =
         { history := h, touched := [], committed := 0, corroborated := 0, full := [] } ∧
       takeCandidates window h (cs ++ [c]) = takeCandidate window h.greatest (takeCandidates window h cs) c) ∧
  (∀ (r : Record) (rs : List Record), ∃ before after : List Record,
     rs = before ++ after ∧ insertRecord r rs = before ++ r :: after ∧
       (∀ x ∈ before, keyBefore r.key x.key = false) ∧ ∀ x ∈ after.head?, keyBefore r.key x.key = true) ∧
  (∀ r : Record,
     r.key = { time := r.time, slot := r.timing.recorder.val, seq := r.timing.seq, idx := r.timing.idx }) ∧
  (∀ a b : Key,
     keyAfter a none = true ∧ keyAfter b (some a) = keyBefore a b ∧
       (keyBefore a b = true ↔
         a.time < b.time ∨ a.time = b.time ∧ (a.slot < b.slot ∨ a.slot = b.slot ∧
           (a.seq < b.seq ∨ a.seq = b.seq ∧ a.idx < b.idx))))

/-! ### Cursors -/

/-- R100, R176: a controlling request with a body too short to name a slot is BAD_ARGUMENT, one that names no open slot
BAD_CURSOR, one from a port other than the owner NOT_OWNER; nothing but the port changes. -/
def Obligations.ControlRequestsJudgeSlot : Prop :=
  ∀ (c : Instr) (s : State) (p : PortId) (code tag slot : Nat) (body : List Byte), requestOf c = some (p, code) →
    controlledSlot c = some slot → Taken s p code tag body →
    (body = [] → exec c s = .next (answeredOnly s p tag { code := .badArgument, body := .empty })) ∧
    (body ≠ [] → (8 ≤ slot ∨ ∃ k : Slot, k.val = slot ∧ s.live.cursor k = none) →
      exec c s = .next (answeredOnly s p tag { code := .badCursor, body := .empty })) ∧
    ∀ (k : Slot) (d : Cursor), body ≠ [] → k.val = slot → s.live.cursor k = some d → d.owner ≠ p →
      exec c s = .next (answeredOnly s p tag { code := .notOwner, body := .empty })

/-- R103, Tables 6-1, 6-2, 7-3: OPEN_CURSOR opens the lowest-numbered FREE slot at the values of Table 6-1; it is
WRONG_PHASE in SETUP and NO_CURSOR when no slot is FREE. -/
def Obligations.OpenCursorOpensLowest : Prop :=
  ∀ (s : State) (p : PortId) (tag : Nat) (body : List Byte), Taken s p 18 tag body →
    (s.history.phase = .setup →
      exec (.openCursor p) s = .next (answeredOnly s p tag { code := .wrongPhase, body := .empty })) ∧
    (s.history.phase ≠ .setup → (∀ k : Slot, s.live.cursor k ≠ none) →
      exec (.openCursor p) s = .next (answeredOnly s p tag { code := .noCursor, body := .empty })) ∧
    ∀ k : Slot, s.history.phase ≠ .setup → s.live.cursor k = none →
      (∀ j : Slot, j.val < k.val → s.live.cursor j ≠ none) →
      ∃ c : Cursor,
        exec (.openCursor p) s =
          .next (answered s p tag { code := .done, body := .slot k } (withCursorAt (s.popRequest p) k c)) ∧
        c.owner = p ∧ c.state = .idle ∧ c.image = none ∧ c.position = none ∧ c.instant = none ∧ c.stepBase = none ∧
        c.overtaken = none ∧
        c.chain = false ∧ c.armedFrom = none ∧ c.stepsLeft = 0 ∧ c.pendingHold = none ∧ c.op = .none ∧ c.snap = none ∧
        c.probes = [] ∧ c.trail = [] ∧ c.trailFrozen = false ∧ c.rebuildRecord = none ∧
        (∀ w : WatchId, c.watches.get w = none) ∧
        c.options =
          { pacing := .freeRun, windowStart := 0, windowEnd := none, loop := false, mode := .notice, batchSize := 8
            split := false, form := .full, presentation := .absolute, source := .request, action := .seekPlay } ∧
        c.buffer.writing = [] ∧ c.buffer.completed = [] ∧ c.buffer.outgoing = [] ∧ c.buffer.waiting = none ∧
        c.buffer.half = some .a ∧
        c.buffer.nextNumber = 0 ∧ c.buffer.refTime = none ∧ c.activity =
          { stalled := false, lagging := false, atHead := false, waiting := false, probing := false, rebasing := false
            snapshot := false }

/-- R106: READ_CURSOR is taken from any port and changes nothing else; a FREE slot answers its number alone. R130, Table
6-1: the activity flags, the buffer's summary (its writing half as it stands, log 45) and the watches filled. R176: a
body too short to carry the slot is refused BAD_ARGUMENT before any check of the slot; that the empty body alone is too
short is the model's choice (log 2). R105, R140: CLOSE_CURSOR frees the slot in every state, with everything the cursor
held, and touches nothing else. -/
def Obligations.ReadAndCloseCursor : Prop :=
  (∀ (s : State) (p : PortId) (tag : Nat) (body : List Byte) (k : Slot), Taken s p 19 tag body → body ≠ [] →
     (s.live.cursor k = none →
       exec (.readCursor p k.val) s = .next (answeredOnly s p tag { code := .done, body := .freeSlot k })) ∧
     (∀ c : Cursor, s.live.cursor k = some c →
       ∃ r : CursorReport,
         exec (.readCursor p k.val) s = .next (answeredOnly s p tag { code := .done, body := .cursor k r }) ∧
         r.owner = c.owner ∧ r.state = c.state ∧ r.armedFrom = c.armedFrom ∧ r.options = c.options ∧
         r.position = c.position ∧ r.overtaken = c.overtaken ∧ r.chain = c.chain ∧ r.stepsLeft = c.stepsLeft ∧
         r.pendingHold = c.pendingHold ∧ r.trailFrozen = c.trailFrozen ∧ r.rebuildRecord = c.rebuildRecord ∧
         r.probes = c.probes.length ∧
         r.watchesFilled = ((List.finRange 8).filter fun w => (c.watches.get w).isSome).length ∧
         (r.activity.stalled = true ↔ c.buffer.waiting ≠ none) ∧ r.activity.lagging = c.lagging ∧
         r.activity.atHead = c.atHead ∧ r.activity.waiting = c.waiting ∧
         (r.activity.probing = true ↔ c.probes ≠ []) ∧
         (r.activity.rebasing = true ↔
           c.op = .rebaseDone ∨ ∃ f : Rebuild, c.op = .rebuild f ∧ f.kind = .rebase) ∧
         (r.activity.snapshot = true ↔ c.snap ≠ none) ∧
         r.buffer =
           { half := c.buffer.half, writing := c.buffer.writing.length
             completed := c.buffer.completed.map fun x => (x.half, x.items.length, x.first)
             outgoing := c.buffer.outgoing.length, nextNumber := c.buffer.nextNumber } ∧
         (∀ f : Rebuild, c.op = .rebuild f → r.instant = f.standing) ∧
         ((∀ f : Rebuild, c.op ≠ .rebuild f) → r.instant = c.instant)) ∧
     ∀ n : Nat, 8 ≤ n →
       exec (.readCursor p n) s = .next (answeredOnly s p tag { code := .badCursor, body := .empty })) ∧
  (∀ (s : State) (p : PortId) (tag n : Nat), Taken s p 19 tag [] →
     exec (.readCursor p n) s = .next (answeredOnly s p tag { code := .badArgument, body := .empty })) ∧
  (∀ (s : State) (p : PortId) (tag slot : Nat) (body : List Byte) (k : Slot) (c : Cursor), Taken s p 28 tag body →
     Reaches s p slot body k c →
     exec (.closeCursor p slot) s =
       .next (answered s p tag { code := .done, body := .empty }
         ((s.popRequest p).withLive ((s.popRequest p).live.freeCursor k))))

/-- R104, R139, R187, Table 11-9: SET_CURSOR in a state that takes it, with a payload that fits its layout, writes each
present option and keeps each absent one, when the options as they would then stand satisfy the conditions of R104; it
is BAD_ARGUMENT for any other payload. A change of delivery setting empties the buffer, with half A written next, and
keeps the item numbers, the reference time and the notices queued; in ENDED the cursor becomes HELD (R134). How the
frame's body and the payload are laid out, that the fields of absent options are judged too, and that a loop or split
byte is 1 for yes and 0 for no, is the model's choice (logs 12, 53). -/
def Obligations.SetCursorWritesOptions : Prop :=
  (∀ (s : State) (p : PortId) (tag slot : Nat) (body payload : List Byte) (k : Slot) (c : Cursor),
     Taken s p 20 tag body → Reaches s p slot body k c →
     let taken := c.snap = none ∧ (c.state = .idle ∨ c.state = .held ∨ c.state = .ended ∨ c.state = .unsettled)
     let accepts (o : Options) : Prop := body = BitVec.ofNat 8 k.val :: payload ∧ PayloadFits payload ∧
       OptionsWritten c.options payload o ∧ OptionsAgree k payload o
     ((c.snap ≠ none ∨ c.state = .seeking ∨ c.state = .running ∨ c.state = .armed) →
       exec (.setCursor p slot payload) s = .next (answeredOnly s p tag { code := .cursorBusy, body := .empty })) ∧
     (taken → (∀ o, ¬accepts o) →
       exec (.setCursor p slot payload) s = .next (answeredOnly s p tag { code := .badArgument, body := .empty })) ∧
     ∀ o : Options, taken → accepts o →
       ∃ t d, exec (.setCursor p slot payload) s = .next t ∧ Responded t p tag { code := .done, body := .empty } ∧
         SameStore s t ∧ OthersSame s t k p ∧ t.live.checkpoints = s.live.checkpoints ∧ t.live.cursor k = some d ∧
         d.options = o ∧ d.state = (if c.state = .ended then .held else c.state) ∧ d.image = c.image ∧
         d.position = c.position ∧ d.instant = c.instant ∧ d.overtaken = c.overtaken ∧ d.watches = c.watches ∧
         d.probes = c.probes ∧ d.trail = c.trail ∧
         ((o.mode ≠ c.options.mode ∨ o.batchSize ≠ c.options.batchSize ∨ o.split ≠ c.options.split ∨
             o.form ≠ c.options.form ∨ o.presentation ≠ c.options.presentation) →
           d.buffer.writing = [] ∧ d.buffer.completed = [] ∧ d.buffer.outgoing = [] ∧ d.buffer.waiting = none ∧
             d.buffer.half = some .a ∧ d.buffer.nextNumber = c.buffer.nextNumber ∧
             d.buffer.refTime = c.buffer.refTime ∧ (t.live.port p).notices = (s.live.port p).notices) ∧
         (o.mode = c.options.mode → o.batchSize = c.options.batchSize → o.split = c.options.split →
           o.form = c.options.form → o.presentation = c.options.presentation → c.state ≠ .ended →
           d.buffer = c.buffer)) ∧
  (∀ (k : Slot) (now o : Options) (payload : List Byte),
     (optionsOf k now payload = some o ↔
       PayloadFits payload ∧ OptionsWritten now payload o ∧ OptionsAgree k payload o) ∧
     (PayloadFits payload → ∃ x, OptionsWritten now payload x)) ∧
  (∀ (k : Slot) (now o : Options) (payload : List Byte), optionsOf k now payload = some o →
     (∀ e ∈ o.windowEnd, o.windowStart ≤ e) ∧ (o.loop = true → o.windowEnd ≠ none ∧ o.pacing = .freeRun) ∧
       1 ≤ o.batchSize ∧ o.batchSize ≤ (if o.split then 8 else 16) ∧ o.source ≠ .cursor k ∧ payload.length = 34 ∧
       (o.windowStart = now.windowStart ∨ o.windowStart ≤ 2 ^ 40 - 1) ∧
       (o.windowEnd = now.windowEnd ∨ ∀ e ∈ o.windowEnd, e ≤ 2 ^ 40 - 1))

/-- R107, R89, R91, R95, R98: SEEK starts or restarts a seek rebuild: the cursor is SEEKING toward the target from the
best checkpoint at or below it, with a fresh trail and no overtaken mark, no pending hold and no steps remaining. That a
SEEK between SEEK_DONE and the last result of the probes served then starts a new seek is the model's deduction (log
22). -/
def Obligations.SeekStartsRebuild : Prop :=
  ∀ (s : State) (p : PortId) (tag slot target : Nat) (chain : Bool) (body : List Byte) (k : Slot) (c : Cursor),
    Taken s p 21 tag body → Reaches s p slot body k c → c.snap = none →
    (c.state = .idle ∨ c.state = .held ∨ c.state = .ended ∨ c.state = .unsettled ∨ c.state = .seeking ∨
      (c.state = .running ∧ (c.op = .rebaseDone ∨ ∃ r, c.op = .rebuild r))) →
    target ≤ 2 ^ 40 - 1 →
    ∃ t d, exec (.seek p slot target chain) s = .next t ∧ Responded t p tag { code := .accepted, body := .empty } ∧
      SameStore s t ∧ OthersSame s t k p ∧ t.live.cursor k = some d ∧ d.owner = c.owner ∧ d.options = c.options ∧
      d.watches = c.watches ∧ d.probes = c.probes ∧ d.state = .seeking ∧ d.chain = chain ∧ d.pendingHold = none ∧
      d.stepsLeft = 0 ∧ d.trail = [] ∧ d.trailFrozen = false ∧ d.overtaken = none ∧ d.buffer.waiting = none ∧
      d.buffer.nextNumber = c.buffer.nextNumber ∧
      (let chosen := (s.live.checkpoints.choose target).1
       t.live.checkpoints = (s.live.checkpoints.choose target).2 ∧
         d.image = some ((chosen.map Checkpoint.image).getD []) ∧ d.position = chosen.bind Checkpoint.position ∧
         d.op = .rebuild { kind := .seek, target := target, standing := chosen.map Checkpoint.instant, kept := none } ∧
         d.rebuildRecord =
           some { kind := .seek, target := target, start := chosen.map Checkpoint.instant, applied := 0
                  outcome := .inFlight })

/-- R91: a choice takes a valid checkpoint of the greatest instant at or below the limit, and none only when there is
none. R84: a choice that finds an entry advances the use counter by one, the entry takes it as its stamp, and every
other entry stands; where the advance would pass 4,294,967,295 the table is renumbered first: the valid entries 1 to k
in ascending order of their stamps, the others 0, the counter k. That equal stamps count by index is the model's
deduction (log 34). R88: a commit's reach makes every checkpoint at or after it invalid, and no other; images, instants,
positions, use stamps and the use counter stand, and a commit without a reach invalidates nothing. -/
def Obligations.CheckpointChoiceAndReach : Prop :=
  (∀ (t : CheckpointTable) (limit : Nat),
     ((t.choose limit).1 = none ↔
       ∀ i : CkptId, (t.entries.get i).valid = true → limit < (t.entries.get i).instant) ∧
     ((t.choose limit).1 = none → (t.choose limit).2 = t) ∧
     ∀ x : Checkpoint, (t.choose limit).1 = some x →
       (∃ (w : CheckpointTable) (i : CkptId), Advancing t w ∧ t.entries.get i = x ∧
         (t.choose limit).2.counter = w.counter + 1 ∧
         (t.choose limit).2.entries.get i = { x with stamp := w.counter + 1 } ∧
         ∀ j : CkptId, j ≠ i → (t.choose limit).2.entries.get j = w.entries.get j) ∧
         x.valid = true ∧ x.instant ≤ limit ∧
         (∀ i : CkptId, (t.entries.get i).valid = true → (t.entries.get i).instant ≤ limit →
           (t.entries.get i).instant ≤ x.instant) ∧
         ∀ i : CkptId, ((t.choose limit).2.entries.get i).instant = (t.entries.get i).instant ∧
           ((t.choose limit).2.entries.get i).valid = (t.entries.get i).valid ∧
           ((t.choose limit).2.entries.get i).image = (t.entries.get i).image ∧
           ((t.choose limit).2.entries.get i).position = (t.entries.get i).position) ∧
  (∀ (t : CheckpointTable) (reach : Nat),
     (t.invalidate (some reach)).counter = t.counter ∧ t.invalidate none = t ∧
     ∀ i : CkptId, (((t.invalidate (some reach)).entries.get i).valid = true ↔
       (t.entries.get i).valid = true ∧ (t.entries.get i).instant < reach) ∧
       ((t.invalidate (some reach)).entries.get i).image = (t.entries.get i).image ∧
       ((t.invalidate (some reach)).entries.get i).instant = (t.entries.get i).instant ∧
       ((t.invalidate (some reach)).entries.get i).position = (t.entries.get i).position ∧
       ((t.invalidate (some reach)).entries.get i).stamp = (t.entries.get i).stamp)

/-- R109, R91, R122: PLAY of a settled cursor that stands where it plays from: RUNNING, the trail unfrozen; an overtaken
cursor begins with a rebase toward its instant, REBASING set and LAGGING tested (R170; log 33), any other with a step.
PLAY that seeks: a FREE_RUN restart from HELD or RUNNING goes to the window start, a BOUND cursor that stands elsewhere
to the clock instant, both chained and with a flush (R134). R84, R91: either rebuild starts from the best checkpoint at
or below its target. That a restart drops an END, WRAP or HEAD that waits is the model's choice (log 43). -/
def Obligations.PlayRunsOrSeeks : Prop :=
  (∀ (s : State) (p : PortId) (tag slot : Nat) (restart : Bool) (body : List Byte) (k : Slot) (c : Cursor),
     Taken s p 22 tag body → Reaches s p slot body k c → c.state = .held → c.snap = none →
     (c.options.pacing = .freeRun → restart = false) →
     (c.options.pacing = .bound → c.instant = some s.clock.instant) →
     ∃ t d, exec (.play p slot restart) s = .next t ∧ Responded t p tag { code := .accepted, body := .empty } ∧
       SameStore s t ∧ OthersSame s t k p ∧ t.live.cursor k = some d ∧ d.owner = c.owner ∧ d.options = c.options ∧
       d.watches = c.watches ∧ d.probes = c.probes ∧ d.state = .running ∧ d.trailFrozen = false ∧ d.stepsLeft = 0 ∧
       (c.overtaken = none → d.op = .none ∧ d.image = c.image ∧ d.position = c.position ∧ d.instant = c.instant ∧
         d.trail = c.trail ∧ d.buffer = c.buffer ∧ t.live.checkpoints = s.live.checkpoints) ∧
       (c.overtaken ≠ none →
         RebuildBegun s.live.checkpoints .rebase (c.instant.getD 0) c.overtaken d ∧
           LagTestedAfter s.history.records s.clock.instant c d ∧
           t.live.checkpoints = (s.live.checkpoints.choose (c.instant.getD 0)).2)) ∧
  (∀ (s : State) (p : PortId) (tag slot : Nat) (restart : Bool) (body : List Byte) (k : Slot) (c : Cursor)
     (target : Nat), Taken s p 22 tag body → Reaches s p slot body k c → c.snap = none →
     ((c.options.pacing = .freeRun ∧ restart = true ∧ target = c.options.windowStart ∧
         (c.state = .held ∨ (c.state = .running ∧ c.op ≠ .seekDone ∧ c.op ≠ .rebaseDone ∧ ∀ r, c.op ≠ .rebuild r))) ∨
       (c.options.pacing = .bound ∧ c.state = .held ∧ target = s.clock.instant ∧
         c.instant ≠ some s.clock.instant)) →
     ∃ t d, exec (.play p slot restart) s = .next t ∧
       Responded t p tag { code := .accepted, body := .empty } ∧ SameStore s t ∧ OthersSame s t k p ∧
       t.live.cursor k = some d ∧ d.owner = c.owner ∧ d.options = c.options ∧ d.watches = c.watches ∧
       d.probes = c.probes ∧ d.state = .seeking ∧ d.chain = true ∧ d.trailFrozen = false ∧
       RebuildBegun s.live.checkpoints .seek target none d ∧
       t.live.checkpoints = (s.live.checkpoints.choose target).2 ∧
       d.buffer = ({ c.buffer with waiting := none } : Buffer).flushed c.options)

/-- R110: STEP of a HELD FREE_RUN cursor: RUNNING with the count, beginning with a rebase if overtaken, from the best
checkpoint at or below its instant (R91, R122), LAGGING as it stood (R170); a BOUND cursor, and a count outside 1 to
4,096, are BAD_ARGUMENT. -/
def Obligations.StepRunsCount : Prop :=
  ∀ (s : State) (p : PortId) (tag slot count : Nat) (body : List Byte) (k : Slot) (c : Cursor),
    Taken s p 23 tag body → Reaches s p slot body k c → c.state = .held → c.snap = none →
    (c.options.pacing = .freeRun → 1 ≤ count → count ≤ 4096 →
      ∃ t d, exec (.step p slot count) s = .next t ∧ Responded t p tag { code := .accepted, body := .empty } ∧
        SameStore s t ∧ OthersSame s t k p ∧ t.live.cursor k = some d ∧ d.owner = c.owner ∧ d.options = c.options ∧
        d.watches = c.watches ∧ d.probes = c.probes ∧ d.state = .running ∧ d.stepsLeft = count ∧
        d.underStep = true ∧ d.trailFrozen = false ∧ (c.overtaken = none → d.op = .none ∧ d.image = c.image) ∧
        (c.overtaken ≠ none →
          RebuildBegun s.live.checkpoints .rebase (c.instant.getD 0) c.overtaken d ∧ d.lagging = c.lagging ∧
            t.live.checkpoints = (s.live.checkpoints.choose (c.instant.getD 0)).2)) ∧
    ((c.options.pacing = .bound ∨ count = 0 ∨ 4096 < count) →
      exec (.step p slot count) s = .next (answeredOnly s p tag { code := .badArgument, body := .empty }))

/-- R107, R109, R110, R118, R123: what the states that do not take SEEK, PLAY, STEP, ARM and SNAPSHOT answer, and that a
SEEK with a target out of range is BAD_ARGUMENT wherever the state takes SEEK; nothing but the port changes. That a
restart of a RUNNING BOUND cursor is BAD_ARGUMENT also while its rebase is in flight is the model's choice (log 42). -/
def Obligations.CursorStateRefusals : Prop :=
  ∀ (s : State) (p : PortId) (tag slot : Nat) (body : List Byte) (k : Slot) (c : Cursor) (cmd : Instr) (code : Nat),
    requestOf cmd = some (p, code) → controlledSlot cmd = some slot → Taken s p code tag body →
    Reaches s p slot body k c →
    let busy := exec cmd s = .next (answeredOnly s p tag { code := .cursorBusy, body := .empty })
    let bad := exec cmd s = .next (answeredOnly s p tag { code := .badArgument, body := .empty })
    let rebuilds := c.op = .seekDone ∨ c.op = .rebaseDone ∨ ∃ r, c.op = .rebuild r
    (code = 21 → (c.snap ≠ none ∨ c.state = .armed ∨ (c.state = .running ∧ ¬rebuilds)) → busy) ∧
    (∀ target chain, cmd = .seek p slot target chain → c.snap = none →
      (c.state = .idle ∨ c.state = .held ∨ c.state = .ended ∨ c.state = .unsettled ∨ c.state = .seeking ∨
        (c.state = .running ∧ rebuilds)) →
      2 ^ 40 - 1 < target → bad) ∧
    (∀ restart, cmd = .play p slot restart → c.snap = none → c.state = .running →
      (restart = false → busy) ∧ (restart = true → c.options.pacing = .bound → bad) ∧
        (restart = true → c.options.pacing = .freeRun → rebuilds → busy)) ∧
    (code = 22 ∨ code = 23 ∨ code = 26 ∨ code = 27 →
      ((c.snap ≠ none ∨ c.state = .seeking ∨ c.state = .armed) → busy) ∧
      (c.snap = none → c.state = .unsettled ∨ (c.state = .idle ∧ code ≠ 26) →
        exec cmd s = .next (answeredOnly s p tag { code := .notSettled, body := .empty })) ∧
      (c.snap = none → c.state = .running → code ≠ 22 → busy) ∧
      (c.snap = none → c.state = .ended → code ≠ 27 →
        exec cmd s = .next (answeredOnly s p tag { code := .atEnd, body := .empty })))

/-- R111, R112, R96: HOLD and STOP in each state. At a step boundary a RUNNING cursor with no probe becomes HELD at
once, keeping image, position, instant and overtaken mark; with an operation in flight, a probe computing or an aborted
step to be executed again the hold is pending. An ARMED cursor returns to its armed-from state. HOLD of a SEEKING cursor
clears the chain flag. STOP abandons a rebuild in flight at its standing instant, 0 when it is absent (log 24), and the
cursor becomes UNSETTLED with the working image and position. R156, R97: a probe that waits begins then, with its
choice. R129, R131, R134: the reference time is that instant, an item that waits is dropped, and the batch being written
completes; so it does where HOLD or STOP makes the cursor HELD. That STOP clears a pending hold, and that a cursor
serving probes after its SEEK_DONE becomes UNSETTLED too, are the model's readings (logs 19, 22). That a later HOLD or
STOP takes the place of a pending one, and that STOP clears the chain flag of the seek it abandons, are its choices
(logs 44, 51). -/
def Obligations.HoldAndStop : Prop :=
  ∀ (s : State) (p : PortId) (slot : Nat) (body : List Byte) (k : Slot) (c : Cursor), Reaches s p slot body k c →
    let done : Response := { code := .done, body := .empty }
    let rebuilds := c.op = .seekDone ∨ c.op = .rebaseDone ∨ ∃ r, c.op = .rebuild r
    (∀ (cmd : Instr) (code tag : Nat) (h : PendingHold),
      (cmd = .hold p slot ∧ code = 24 ∧ h = .hold) ∨ (cmd = .stop p slot ∧ code = 25 ∧ h = .stop) →
      Taken s p code tag body →
      (c.snap ≠ none → exec cmd s = .next (answeredOnly s p tag { code := .cursorBusy, body := .empty })) ∧
      (c.snap = none → (c.state = .idle ∨ c.state = .held ∨ c.state = .ended ∨ c.state = .unsettled) →
        exec cmd s = .next (answeredOnly s p tag done)) ∧
      (c.snap = none → c.state = .running → ¬rebuilds →
        (c.op ≠ .none ∨ (c.probes = [] ∧ c.redo = true) ∨ ∃ q rest, c.probes = q :: rest ∧ q.work ≠ none) →
        exec cmd s = .next (answered s p tag done (withCursorAt (s.popRequest p) k { c with pendingHold := some h }))) ∧
      (c.snap = none → c.state = .running → c.op = .none → c.probes = [] → c.redo = false →
        ∃ t d, exec cmd s = .next t ∧ Responded t p tag done ∧ SameStore s t ∧ OthersSame s t k p ∧
          t.live.checkpoints = s.live.checkpoints ∧ t.live.cursor k = some d ∧ d.state = .held ∧
          d.pendingHold = none ∧ d.image = c.image ∧ d.position = c.position ∧ d.instant = c.instant ∧
          d.overtaken = c.overtaken ∧ d.trail = c.trail ∧ d.watches = c.watches ∧ d.options = c.options ∧
          d.stepsLeft = 0 ∧ d.lagging = false ∧ d.atHead = false ∧ d.waiting = false ∧ d.probes = [] ∧
          d.buffer = c.buffer.flushed c.options) ∧
      (c.snap = none → c.state = .armed →
        ∃ t d, exec cmd s = .next t ∧ Responded t p tag done ∧ SameStore s t ∧ OthersSame s t k p ∧
          t.live.checkpoints = s.live.checkpoints ∧ t.live.cursor k = some d ∧
          d.state = (if c.armedFrom = some .held then .held else .idle) ∧ d.armedFrom = none ∧ d.image = c.image ∧
          d.instant = c.instant ∧ d.position = c.position ∧ d.watches = c.watches ∧ d.options = c.options)) ∧
    (∀ tag : Nat, Taken s p 24 tag body → c.snap = none →
      (c.state = .seeking →
        exec (.hold p slot) s =
          .next (answered s p tag done (withCursorAt (s.popRequest p) k { c with chain := false }))) ∧
      (c.state = .running → rebuilds →
        exec (.hold p slot) s =
          .next (answered s p tag done (withCursorAt (s.popRequest p) k { c with pendingHold := some .hold })))) ∧
    ∀ tag : Nat, Taken s p 25 tag body → c.snap = none → (c.state = .seeking ∨ (c.state = .running ∧ rebuilds)) →
      ∃ t d, exec (.stop p slot) s = .next t ∧ Responded t p tag done ∧ SameStore s t ∧ OthersSame s t k p ∧
        t.live.cursor k = some d ∧ d.state = .unsettled ∧ d.op = .none ∧ d.chain = false ∧ d.pendingHold = none ∧
        d.image = c.image ∧ d.position = c.position ∧ d.overtaken = c.overtaken ∧ d.stepsLeft = 0 ∧
        d.watches = c.watches ∧ d.options = c.options ∧ d.trail = c.trail ∧ d.lagging = false ∧ d.waiting = false ∧
        ProbeBegins s c d ∧ ProbeChose c s.live.checkpoints t.live.checkpoints ∧
        (∀ r : Rebuild, c.op = .rebuild r → d.instant = some (r.standing.getD 0) ∧
          d.rebuildRecord = (c.rebuildRecord.map fun x => { x with outcome := .abandoned }) ∧
          d.buffer =
            ({ c.buffer with waiting := none, refTime := some (r.standing.getD 0) } : Buffer).flushed c.options) ∧
        ((∀ r : Rebuild, c.op ≠ .rebuild r) → d.instant = c.instant ∧ d.rebuildRecord = c.rebuildRecord ∧
          d.buffer = ({ c.buffer with waiting := none } : Buffer).flushed c.options) ∧
        t.live.port p =
          { ((s.popRequest p).live.port p).takes (c.buffer.flushTold k c.options) with
            response := (t.live.port p).response }

/-- R118: ARM in IDLE or HELD makes a cursor whose trigger source is not REQUEST ARMED, keeps its armed-from state, its
image and its instant; a cursor whose trigger source is REQUEST refuses it BAD_ARGUMENT. -/
def Obligations.ArmArms : Prop :=
  ∀ (s : State) (p : PortId) (tag slot : Nat) (body : List Byte) (k : Slot) (c : Cursor),
    Taken s p 26 tag body → Reaches s p slot body k c → c.snap = none → (c.state = .idle ∨ c.state = .held) →
    (c.options.source = .request →
      exec (.arm p slot) s = .next (answeredOnly s p tag { code := .badArgument, body := .empty })) ∧
    (c.options.source ≠ .request →
      ∃ t d, exec (.arm p slot) s = .next t ∧ Responded t p tag { code := .done, body := .empty } ∧ SameStore s t ∧
        OthersSame s t k p ∧ t.live.checkpoints = s.live.checkpoints ∧ t.live.cursor k = some d ∧ d.state = .armed ∧
        d.armedFrom = some (if c.state = .held then .held else .idle) ∧ d.image = c.image ∧
        d.position = c.position ∧ d.instant = c.instant ∧ d.overtaken = c.overtaken ∧ d.options = c.options ∧
        d.watches = c.watches ∧ d.probes = c.probes ∧ d.trail = c.trail)

/-- R123: SNAPSHOT of a settled cursor answers the number of enabled points counted, keeps the cursor's state, and
leaves those points, ascending, to be written; an overtaken cursor rebases first, from the best checkpoint at or below
its instant (R91, R122), LAGGING as it stood (R170). R123, R134: one that counts no point ends at acceptance with a
flush and changes nothing else; that an overtaken cursor then keeps its mark and does not rebase is the model's
deduction (log 38). That SNAPSHOT itself writes no SNAP item is the model's reading (log 7). -/
def Obligations.SnapshotCountsPoints : Prop :=
  ∀ (s : State) (p : PortId) (tag slot first last : Nat) (station : Option Nat) (body : List Byte) (k : Slot)
    (c : Cursor), Taken s p 27 tag body → Reaches s p slot body k c → c.snap = none →
    (c.state = .held ∨ c.state = .ended) →
    let fits := first ≤ last ∧ last ≤ 4095 ∧ ∀ x ∈ station, x ≤ 255
    (fits →
      ∃ (t : State) (points : List PointId), points.Pairwise (fun a b => a.val < b.val) ∧
        (∀ q : PointId, q ∈ points ↔ first ≤ q.val ∧ q.val ≤ last ∧ (s.tables.points.get q).enabled = true ∧
          ∀ x ∈ station, (s.tables.points.get q).station = x) ∧
        exec (.snapshot p slot first last station) s = .next t ∧
        Responded t p tag { code := .accepted, body := .snapCount points.length } ∧ SameStore s t ∧
        OthersSame s t k p ∧ (c.overtaken = none → t.live.checkpoints = s.live.checkpoints) ∧
        (points = [] →
          let r : Response := { code := .accepted, body := .snapCount 0 }
          (c.options.mode = .push ∨ c.buffer.writing = [] → t = answeredOnly s p tag r) ∧
            (c.options.mode = .notice → c.buffer.writing ≠ [] →
              let batch : Batch :=
                { half := if c.options.split then c.buffer.half else none
                  first := (c.buffer.writing.head?.map Item.number).getD c.buffer.nextNumber
                  items := c.buffer.writing }
              let u := withCursorAt (s.popRequest p) k
                { c with
                  buffer :=
                    { c.buffer with
                      writing := [], completed := c.buffer.completed ++ [batch]
                      half := if c.options.split then nextHalf c.buffer.completed c.buffer.half else c.buffer.half } }
              t = answered s p tag r
                (u.withLive (u.live.notify p (.batchReady k batch.half c.buffer.writing.length batch.first))))) ∧
        (c.overtaken = none → points ≠ [] →
          t.live.cursor k = some { c with snap := some { todo := points, opening := false } }) ∧
        (c.overtaken ≠ none → points ≠ [] →
          ∃ d, t.live.cursor k = some d ∧ d.state = c.state ∧ d.snap = some { todo := points, opening := true } ∧
            RebuildBegun s.live.checkpoints .rebase (c.instant.getD 0) c.overtaken d ∧ d.lagging = c.lagging ∧
            t.live.checkpoints = (s.live.checkpoints.choose (c.instant.getD 0)).2)) ∧
    (¬fits →
      exec (.snapshot p slot first last station) s =
        .next (answeredOnly s p tag { code := .badArgument, body := .empty }))

/-- R136: FETCH takes the oldest completed batch of a NOTICE cursor; with none, and in PUSH mode, it is NOTHING_READY.
R131, R136: an item that waits is written at once where the batch taken makes room, and its operation goes on: an item
of a step or a snapshot as ITEM_WRITTEN writes it, put back in front of those still to be written; a marker completes
its seek, rebase, window end, wrap or head of the store. R156: with SEEK_DONE or REBASE written, a probe that waits
begins. R117: with HEAD written, a cursor takes the seal of a store SEALED by then. That it reads on with AT_HEAD clear
where a record has come to stand after its position is the model's deduction (log 17); that a waiting probe begins after
the signal of END, and the cause of a looping cursor's end, are its choice (logs 49, 16). That a bound cursor takes the
clock instant only when its waiting HEAD is written is the model's choice (log 47), and that the HEAD carries the
instant it had before is its deduction (log 17). R153: READ_TRAIL answers the frozen flag and the entries, oldest first,
in every state, and changes nothing. -/
def Obligations.FetchAndReadTrail : Prop :=
  (∀ (s : State) (p : PortId) (tag slot : Nat) (body : List Byte) (k : Slot) (c : Cursor),
     Taken s p 29 tag body → Reaches s p slot body k c →
     (∀ (b : Batch) (rest : List Batch), c.options.mode = .notice → c.buffer.completed = b :: rest →
       let taken : Buffer :=
         { c.buffer with completed := rest, half := if c.buffer.half = none then b.half else c.buffer.half }
       let free : Buffer := { taken with waiting := none }
       (c.buffer.waiting = none ∨ taken.hasRoom c.options = false →
         exec (.fetch p slot) s =
           .next (answered s p tag { code := .done, body := .batch b }
             (withCursorAt (s.popRequest p) k { c with buffer := taken }))) ∧
       (∀ (f : StepFlight) (x : ItemPlan), c.buffer.waiting = some x → taken.hasRoom c.options = true →
         c.op = .step f →
         ∃ u,
           exec (.itemWritten k)
               (withCursorAt (s.popRequest p) k
                 { c with op := .step { f with todo := x :: f.todo }, buffer := free }) = .next u ∧
             exec (.fetch p slot) s = .next (answered s p tag { code := .done, body := .batch b } u)) ∧
       (∀ (w : SnapWork) (x : PointId), c.buffer.waiting = some (.snap x) → taken.hasRoom c.options = true →
         c.op = .none → c.snap = some w → w.opening = false →
         ∃ u,
           exec (.itemWritten k)
               (withCursorAt (s.popRequest p) k
                 { c with snap := some { w with todo := x :: w.todo }, buffer := free }) = .next u ∧
             exec (.fetch p slot) s = .next (answered s p tag { code := .done, body := .batch b } u)) ∧
       ∀ m : Marker, c.buffer.waiting = some (.marker m) → taken.hasRoom c.options = true →
         ∃ t d, exec (.fetch p slot) s = .next t ∧ Responded t p tag { code := .done, body := .batch b } ∧
           SameStore s t ∧ t.live.cursor k = some d ∧ MarkerWritten s t k c free m d) ∧
     ((c.options.mode = .push ∨ c.buffer.completed = []) →
       exec (.fetch p slot) s = .next (answeredOnly s p tag { code := .nothingReady, body := .empty }))) ∧
  (∀ (s : State) (p : PortId) (tag slot : Nat) (body : List Byte) (k : Slot) (c : Cursor),
     Taken s p 34 tag body → Reaches s p slot body k c →
     exec (.readTrail p slot) s =
       .next (answeredOnly s p tag { code := .done, body := .trail c.trailFrozen c.trail }))

/-- R154, R155, R157: PROBE joins a queue of fewer than 4; where no other probe is queued, a cursor in IDLE, ARMED,
HELD, ENDED or UNSETTLED, a RUNNING one at a step boundary, and one whose step is withdrawn begin it at once: the choice
of the best checkpoint at or below its instant, and the copy of its point's entry. R156, R157: it waits behind another
probe, for a rebuild, and for a step that cannot be withdrawn or a marker that waits. Image, position, instant, trail,
watches and buffer stand, but for a step in flight none of whose items has left the place items are written into: that
step is undone, to be executed again; R138: its items leave the batch being written or the outgoing queue, and the
completed batches and the half stand. R170: where no other probe is queued, PROBING is set and LAGGING tested, of a
withdrawn step as it stands undone; a REBASING cursor is tested as log 33 reads it. That WAITING, which the read of the
withdrawn step cleared, stays clear is the model's choice (log 46). That a tag above 65,535 is BAD_ARGUMENT, and that a
probe begins at once during the rebase of a snapshot, are the model's readings (logs 38, 23). -/
def Obligations.ProbeJoinsQueue : Prop :=
  ∀ (s : State) (p : PortId) (tag slot ptag point instant : Nat) (body : List Byte) (k : Slot) (c : Cursor),
    Taken s p 30 tag body → Reaches s p slot body k c →
    let fits := point ≤ 4095 ∧ instant ≤ 2 ^ 40 - 1 ∧ ptag ≤ 65535
    (¬fits →
      exec (.probe p slot ptag point instant) s =
        .next (answeredOnly s p tag { code := .badArgument, body := .empty })) ∧
    (fits → 4 ≤ c.probes.length →
      exec (.probe p slot ptag point instant) s =
        .next (answeredOnly s p tag { code := .probeFull, body := .empty })) ∧
    (fits → c.probes.length < 4 →
      ∃ t d, exec (.probe p slot ptag point instant) s = .next t ∧
        Responded t p tag { code := .accepted, body := .empty } ∧ SameStore s t ∧ OthersSame s t k p ∧
        t.live.cursor k = some d ∧
        (∃ q : Probe, d.probes.getLast? = some q ∧ q.tag = ptag ∧ q.point.val = point ∧ q.instant = instant ∧
          (let stands := if c.options.mode = .push then c.buffer.outgoing.length else c.buffer.writing.length
           let withdrawn := ∃ f, c.op = .step f ∧ f.written ≤ stands
           let choice := s.live.checkpoints.choose instant
           let img : Image := (choice.1.map Checkpoint.image).getD []
           (c.probes = [] →
             c.state ≠ .seeking ∧ c.state ≠ .running ∨ c.state = .running ∧ (c.op = .none ∨ withdrawn) →
             q.work =
                 some
                   { chosen := choice.1.map Checkpoint.instant, lastRead := none
                     answer :=
                       { state := Image.stateOf s.tables img q.point
                         time := (Image.cell img q.point).map ImageCell.time
                         commit := (Image.cell img q.point).map ImageCell.commit, quality := none } } ∧
               t.live.checkpoints = choice.2) ∧
           (c.probes ≠ [] → q.work = none) ∧
           ((c.state = .seeking ∧ c.op ≠ .serving ∨ c.state = .running ∧ c.op ≠ .none ∧ ¬withdrawn) →
             q.work = none ∧ t.live.checkpoints = s.live.checkpoints))) ∧
        d.probes.length = c.probes.length + 1 ∧ d.state = c.state ∧ d.watches = c.watches ∧ d.options = c.options ∧
        (c.probes = [] → LagTestedAfter s.history.records s.clock.instant c d) ∧
        (c.probes ≠ [] → d.lagging = c.lagging) ∧
        ((c.state ≠ .running ∨ ∀ f, c.op ≠ .step f) →
          d.image = c.image ∧ d.position = c.position ∧ d.instant = c.instant ∧ d.trail = c.trail ∧
            d.buffer = c.buffer ∧ d.op = c.op) ∧
        ∀ f : StepFlight, c.state = .running → c.op = .step f →
          let stands := if c.options.mode = .push then c.buffer.outgoing.length else c.buffer.writing.length
          (stands < f.written → d.image = c.image ∧ d.position = c.position ∧ d.buffer = c.buffer ∧ d.op = c.op) ∧
            (f.written ≤ stands → d.op = .none ∧ d.redo = true ∧ d.position = f.undo.position ∧
              d.instant = f.undo.instant ∧ d.stepBase = f.undo.stepBase ∧ d.trail = f.undo.trail ∧
              d.stepsLeft = f.undo.stepsLeft ∧ d.applied = f.undo.applied ∧ d.waiting = c.waiting ∧
              d.image = some (Image.restore (c.image.getD []) f.undo.point f.undo.cell) ∧
              (c.options.mode = .notice →
                d.buffer =
                  { c.buffer with
                    writing := c.buffer.writing.take (stands - f.written), waiting := none
                    nextNumber := f.undo.nextNumber, refTime := f.undo.refTime }) ∧
              (c.options.mode = .push →
                d.buffer =
                  { c.buffer with
                    outgoing := c.buffer.outgoing.take (stands - f.written), waiting := none
                    nextNumber := f.undo.nextNumber, refTime := f.undo.refTime })))

/-- R148, R149, R150: the requests on watches. They are CURSOR_BUSY in SEEKING, RUNNING and ARMED, but READ_WATCHES,
which clears what it is asked to after answering. R148, R186, Table 8-2: the conditions a SET_WATCH can give a watch:
each parameter in its range, each code defined. That a reserved bit of the action set is BAD_ARGUMENT is the model's
reading (log 38). -/
def Obligations.WatchRequests : Prop :=
  (∀ (s : State) (p : PortId) (tag slot : Nat) (body : List Byte) (k : Slot) (c : Cursor), Reaches s p slot body k c →
     let done : Response := { code := .done, body := .empty }
     let fixed := c.state = .seeking ∨ c.state = .running ∨ c.state = .armed
     (∀ (w : WatchId) (args : WatchArgs) (cond : WatchCond) (acts : Byte), Taken s p 31 tag body → ¬fixed →
       watchCondOf args = some cond → acts.toNat < 8 →
       exec (.setWatch p slot w.val args acts) s =
         .next (answered s p tag done
           (withCursorAt (s.popRequest p) k
             { c with
               watches := vput c.watches w
                 (some
                   { cond := cond
                     actions := { hold := acts.getLsbD 0, mark := acts.getLsbD 1, signal := acts.getLsbD 2 }
                     fired := false, hits := 0 }) }))) ∧
     (∀ (n : Nat) (args : WatchArgs) (acts : Byte), Taken s p 31 tag body →
       (fixed → exec (.setWatch p slot n args acts) s =
         .next (answeredOnly s p tag { code := .cursorBusy, body := .empty })) ∧
       (¬fixed → (8 ≤ n ∨ watchCondOf args = none ∨ 8 ≤ acts.toNat) → exec (.setWatch p slot n args acts) s =
         .next (answeredOnly s p tag { code := .badArgument, body := .empty }))) ∧
     (∀ w : WatchId, Taken s p 32 tag body → ¬fixed →
       exec (.clearWatch p slot w.val) s =
         .next (answered s p tag done
           (withCursorAt (s.popRequest p) k { c with watches := vput c.watches w none }))) ∧
     (∀ n : Nat, Taken s p 32 tag body →
       (fixed → exec (.clearWatch p slot n) s =
         .next (answeredOnly s p tag { code := .cursorBusy, body := .empty })) ∧
       (¬fixed → 8 ≤ n → exec (.clearWatch p slot n) s =
         .next (answeredOnly s p tag { code := .badArgument, body := .empty }))) ∧
     (∀ ws : List Nat, Taken s p 33 tag body →
       ((∀ n ∈ ws, n < 8) →
         ∃ v : Vector (Option Watch) 8,
           exec (.readWatches p slot ws) s =
             .next (answered s p tag { code := .done, body := .watches c.watches }
               (withCursorAt (s.popRequest p) k { c with watches := v })) ∧
           ∀ i : WatchId, v.get i =
             if i.val ∈ ws then (c.watches.get i).map fun x => { x with fired := false, hits := 0 }
             else c.watches.get i) ∧
       ((∃ n ∈ ws, 8 ≤ n) →
         exec (.readWatches p slot ws) s = .next (answeredOnly s p tag { code := .badArgument, body := .empty })))) ∧
  (∀ cond : WatchCond,
     (∀ point st : Nat, watchCondOf (.pointState point st) = some cond ↔
       ∃ (x : PointId) (y : SwState), x.val = point ∧ swStateCode y = st ∧ cond = .pointState x y) ∧
     (∀ station kind st n : Nat, watchCondOf (.stationCount station kind st n) = some cond ↔
       station ≤ 255 ∧ 1 ≤ n ∧ n ≤ 4096 ∧
         ∃ (x : Option DeviceKind) (y : SwState), watchPointKindCode x = kind ∧ swStateCode y = st ∧
           cond = .stationCount station x y n) ∧
     (∀ th : Nat, watchCondOf (.quality th) = some cond ↔ ∃ y : QualityThreshold, y.code = th ∧ cond = .quality y) ∧
     (∀ t : Nat, watchCondOf (.instant t) = some cond ↔ t ≤ 2 ^ 40 - 1 ∧ cond = .instant t) ∧
     (watchCondOf (.gap none) = some cond ↔ cond = .gap none) ∧
     (∀ r : Nat, watchCondOf (.gap (some r)) = some cond ↔ ∃ x : RecId, x.val = r ∧ cond = .gap (some x)) ∧
     ∀ n : Nat, watchCondOf (.undefinedKind n) = none)

/-! ### The Common Clock -/

/-- R162, R164, R167: TAKE_CLOCK of a free clock, by the controlling port, and by any other port with and without wait.
R163, R167: RELEASE_CLOCK by the controlling port hands the clock to the head of the waiting list, or frees it; by a
waiting port takes it off the list; by any other port is NOT_FOUND. R168: READ_CLOCK answers the clock's parts and the
requester's role, and starts no timer. -/
def Obligations.ClockArbitration : Prop :=
  (∀ (s : State) (p : PortId) (tag : Nat) (body : List Byte) (wait : Bool), Taken s p 35 tag body →
     let c := s.clock
     (c.controller = none →
       let d : Clock := { c with controller := some p, leaseLeft := some (c.leasePeriod * 1000) }
       exec (.takeClock p wait) s =
         .next (answered s p tag { code := .done, body := .granted }
           { s.popRequest p with
             clock := d
             live := (s.popRequest p).live.notifyWhere (fun _ q => q.subs.clock)
               (.clock .control d.instant d.run d.rate d.controller d.waitList.length) })) ∧
     (c.controller = some p →
       exec (.takeClock p wait) s =
         .next (answered s p tag { code := .done, body := .renewed }
           { s.popRequest p with clock := { c with leaseLeft := some (c.leasePeriod * 1000) } })) ∧
     ∀ q : PortId, c.controller = some q → q ≠ p →
       (wait = false → exec (.takeClock p wait) s = .next (answeredOnly s p tag { code := .clockBusy, body := .empty })) ∧
       (wait = true → p ∉ c.waitList →
         exec (.takeClock p wait) s =
           .next (answered s p tag { code := .queued, body := .place (c.waitList.length + 1) }
             { s.popRequest p with clock := { c with waitList := c.waitList ++ [p] } })) ∧
       ∀ (before after : List PortId), wait = true → c.waitList = before ++ p :: after → p ∉ before →
         exec (.takeClock p wait) s =
           .next (answeredOnly s p tag { code := .queued, body := .place (before.length + 1) })) ∧
  (∀ (s : State) (p : PortId) (tag : Nat) (body : List Byte), Taken s p 36 tag body →
     let c := s.clock
     let told (d : Clock) (l : Live) : Live := l.notifyWhere (fun _ q => q.subs.clock)
       (.clock .control d.instant d.run d.rate d.controller d.waitList.length)
     (c.controller = some p → c.waitList = [] →
       let d : Clock := { c with controller := none, leaseLeft := none }
       exec (.releaseClock p) s =
         .next (answered s p tag { code := .done, body := .empty }
           { s.popRequest p with clock := d, live := told d (s.popRequest p).live })) ∧
     (∀ (q : PortId) (rest : List PortId), c.controller = some p → c.waitList = q :: rest →
       let d : Clock :=
         { c with controller := some q, waitList := rest, leaseLeft := some (c.leasePeriod * 1000) }
       exec (.releaseClock p) s =
         .next (answered s p tag { code := .done, body := .empty }
           { s.popRequest p with
             clock := d
             live := told d ((s.popRequest p).live.notify q (.clockGranted d.instant d.run d.rate d.leasePeriod)) })) ∧
     (c.controller ≠ some p → p ∈ c.waitList →
       exec (.releaseClock p) s =
         .next (answered s p tag { code := .done, body := .empty }
           { s.popRequest p with clock := { c with waitList := c.waitList.filter fun q => q != p } })) ∧
     (c.controller ≠ some p → p ∉ c.waitList →
       exec (.releaseClock p) s = .next (answeredOnly s p tag { code := .notFound, body := .empty }))) ∧
  (∀ (s : State) (p : PortId) (tag : Nat) (body : List Byte), Taken s p 37 tag body →
     ∃ role : ClockRole, exec (.readClock p) s = .next (answeredOnly s p tag
       { code := .done
         body :=
           .clock
             { instant := s.clock.instant, run := s.clock.run, rate := s.clock.rate, controller := s.clock.controller
               waitList := s.clock.waitList, leasePeriod := s.clock.leasePeriod, leaseLeft := s.clock.leaseLeft
               role := role } }) ∧
       (s.clock.controller = some p → role = .controlling) ∧
       (s.clock.controller ≠ some p → p ∉ s.clock.waitList → role = .none) ∧
       ∀ (before after : List PortId), s.clock.controller ≠ some p → s.clock.waitList = before ++ p :: after →
         p ∉ before → role = .waiting (before.length + 1))

/-- R165, R164, R167: a control request from a port that does not control the clock, or with an argument out of range,
is refused and changes nothing, the lease timer included. CLOCK_PAUSE, CLOCK_RATE and SET_LEASE from the controlling
port start the lease timer again with the period that stands after them. CLOCK_RUN: a STOPPED clock below 2^40 − 1 runs
and its pacing timer starts; at 2^40 − 1 it stays STOPPED, with a CLOCK notice of cause LIMIT; a RUNNING clock is left
as it stands. R169, R170: a CLOCK_RUN that makes the clock run gives a RUNNING bound cursor that waits for the clock the
instant, and changes nothing else of a bound cursor but LAGGING, by its test; one whose operation is in flight keeps its
instant, a choice of the model where HEAD or END waits (logs 47, 56) and its deduction for a rebase (log 37). That
CLOCK_RUN reaches the bound cursors only where it makes the clock run, and that it only makes a waiting cursor's read
due, are the model's readings (logs 31, 35), and the question put to a REBASING cursor that is also STALLED or PROBING
is its deduction (log 33). -/
def Obligations.ClockControlRequests : Prop :=
  (∀ (c : Instr) (s : State) (p : PortId) (code tag : Nat) (body : List Byte), requestOf c = some (p, code) →
     38 ≤ code → Taken s p code tag body →
     (s.clock.controller ≠ some p →
       exec c s = .next (answeredOnly s p tag { code := .notController, body := .empty })) ∧
     (s.clock.controller = some p →
       ((∃ t, c = .clockSet p t ∧ 2 ^ 40 - 1 < t) ∨ (∃ r, c = .clockRate p r ∧ (r = 0 ∨ 65535 < r)) ∨
         ∃ n, c = .setLease p n ∧ (n = 0 ∨ 3600 < n)) →
       exec c s = .next (answeredOnly s p tag { code := .badArgument, body := .empty }))) ∧
  (∀ (s : State) (p : PortId) (tag : Nat) (body : List Byte), s.clock.controller = some p →
     let c := s.clock
     let done : Response := { code := .done, body := .empty }
     let lease (n : Nat) : Option Nat := some (n * 1000)
     let told (cause : ClockCause) (d : Clock) : Live :=
       (s.popRequest p).live.notifyWhere (fun _ q => q.subs.clock)
         (.clock cause d.instant d.run d.rate d.controller d.waitList.length)
     (Taken s p 39 tag body → c.run = .stopped →
       exec (.clockPause p) s =
         .next (answered s p tag done { s.popRequest p with clock := { c with leaseLeft := lease c.leasePeriod } })) ∧
     (Taken s p 39 tag body → c.run = .running →
       exec (.clockPause p) s =
         .next (answered s p tag done
           { s.popRequest p with
             clock := { c with run := .stopped, pacing := none, leaseLeft := lease c.leasePeriod }
             live := told .pause { c with run := .stopped, pacing := none } })) ∧
     (∀ r : Nat, Taken s p 41 tag body → 1 ≤ r → r ≤ 65535 → r ≠ c.rate →
       exec (.clockRate p r) s =
         .next (answered s p tag done
           { s.popRequest p with
             clock := { c with rate := r, leaseLeft := lease c.leasePeriod }
             live := told .rate { c with rate := r } })) ∧
     (Taken s p 41 tag body → 1 ≤ c.rate → c.rate ≤ 65535 →
       exec (.clockRate p c.rate) s =
         .next (answered s p tag done { s.popRequest p with clock := { c with leaseLeft := lease c.leasePeriod } })) ∧
     ∀ n : Nat, Taken s p 42 tag body → 1 ≤ n → n ≤ 3600 →
       exec (.setLease p n) s =
         .next (answered s p tag done
           { s.popRequest p with clock := { c with leasePeriod := n, leaseLeft := lease n } })) ∧
  (∀ (s : State) (p : PortId) (tag : Nat) (body : List Byte), Taken s p 38 tag body → s.clock.controller = some p →
     let c := s.clock
     let done : Response := { code := .done, body := .empty }
     let lease : Option Nat := some (c.leasePeriod * 1000)
     let told (cause : ClockCause) (d : Clock) : Live :=
       (s.popRequest p).live.notifyWhere (fun _ q => q.subs.clock)
         (.clock cause d.instant d.run d.rate d.controller d.waitList.length)
     (c.run = .running →
       exec (.clockRun p) s =
         .next (answered s p tag done { s.popRequest p with clock := { c with leaseLeft := lease } })) ∧
     (c.run = .stopped → 2 ^ 40 - 1 ≤ c.instant →
       exec (.clockRun p) s =
         .next (answered s p tag done
           { s.popRequest p with clock := { c with leaseLeft := lease }, live := told .limit c })) ∧
     (c.run = .stopped → c.instant < 2 ^ 40 - 1 →
       ∃ v : Vector (Option Cursor) 8,
         exec (.clockRun p) s =
           .next (answered s p tag done
             { s.popRequest p with
               clock := { c with run := .running, pacing := some 1, leaseLeft := lease }
               live := { told .run { c with run := .running, pacing := some 1 } with cursors := v } }) ∧
         ∀ k : Slot, (s.live.cursor k = none → v.get k = none) ∧
           ∀ d : Cursor, s.live.cursor k = some d →
             ((d.state ≠ .running ∨ d.options.pacing = .freeRun) → v.get k = some d) ∧
             (d.state = .running → d.options.pacing = .bound →
               ∃ lag : Bool, LagTested s.history.records c.instant d lag ∧
                 (d.waiting = true → d.op = .none →
                   v.get k = some { d with instant := some c.instant, parked := false, lagging := lag }) ∧
                 (d.waiting = false ∨ d.op ≠ .none → v.get k = some { d with lagging := lag }))))

/-- R166, R171: CLOCK_SET from the controlling port replaces the instant and nothing else of the clock but the lease
timer; a RUNNING bound cursor becomes SEEKING toward the new instant, chained unless a hold was pending; a chained
SEEKING bound cursor restarts toward it. R173, R172: an ARMED cursor whose source is CLOCK_MARK and whose window start
lies above the instant before and at or below the new one is triggered, a BOUND one toward the new instant; every other
cursor is untouched. R131, R134, R171: an item that waits is dropped, and the batch that a RUNNING one was writing is
flushed. R84, R91: each rebuild starts from the best checkpoint at or below its target, the choices made one after the
other in some order. The owner of a RUNNING bound cursor takes the BATCH_READY of the flush and its CURSOR_STATE, and
that of a triggered one its, after the CLOCK notice of R167. R170: the rebase of a triggered one sets REBASING, and
LAGGING is tested as log 33 reads it. That one CLOCK_SET leaves every such cursor re-seeking in its own event is the
model's choice (log 5), and so is that the re-seek of a cursor whose END, WRAP or HEAD waits drops that marker (log 43).
That a CURSOR_STATE of state SEEKING carries the instant the cursor stood at is the model's deduction (log 27), and so
is that a chained bound cursor which serves probes after its SEEK_DONE re-seeks (log 22). -/
def Obligations.ClockSetReseeks : Prop :=
  ∀ (s : State) (p : PortId) (tag t : Nat) (body : List Byte), Taken s p 40 tag body →
    s.clock.controller = some p → t ≤ 2 ^ 40 - 1 →
    ∃ u, exec (.clockSet p t) s = .next u ∧ Responded u p tag { code := .done, body := .empty } ∧
      u.clock = { s.clock with instant := t, leaseLeft := some (s.clock.leasePeriod * 1000) } ∧
      (∀ (k : Slot) (c : Cursor), s.live.cursor k = some c → c.state = .running → c.options.pacing = .bound →
        ∃ d, u.live.cursor k = some d ∧ d.state = .seeking ∧ d.chain = c.pendingHold.isNone ∧
          d.pendingHold = none ∧ d.waiting = false ∧ d.lagging = false ∧ d.stepsLeft = 0 ∧ d.probes = c.probes ∧
          d.options = c.options ∧ RebuildBegun s.live.checkpoints .seek t none d ∧
          d.buffer = ({ c.buffer with waiting := none } : Buffer).flushed c.options) ∧
      (∀ (k : Slot) (c : Cursor), s.live.cursor k = some c → c.state = .seeking → c.options.pacing = .bound →
        c.chain = true →
        ∃ d, u.live.cursor k = some d ∧ d.state = .seeking ∧ d.chain = c.pendingHold.isNone ∧
          d.pendingHold = none ∧ d.probes = c.probes ∧ d.options = c.options ∧
          RebuildBegun s.live.checkpoints .seek t none d ∧ d.buffer = { c.buffer with waiting := none }) ∧
      (∀ (k : Slot) (c : Cursor), s.live.cursor k = some c →
        (c.state = .idle ∨ c.state = .held ∨ c.state = .ended ∨ c.state = .unsettled ∨
          (c.state = .seeking ∧ c.chain = false) ∨ (c.state = .armed ∧ ¬MarkReaches s.clock.instant t c)) →
        u.live.cursor k = some c) ∧
      (∀ (k : Slot) (c : Cursor), s.live.cursor k = some c → MarkReaches s.clock.instant t c →
        ∃ d, u.live.cursor k = some d ∧ Triggered s t c d) ∧
      (∀ q : PortId, ∃ ns : List Notice,
        u.live.port q =
          { ((s.popRequest p).live.port q).takes
              ((if (s.live.port q).subs.clock then
                  [.clock .set t s.clock.run s.clock.rate (some p) s.clock.waitList.length] else []) ++ ns) with
            response := (u.live.port q).response } ∧
        (∀ n ∈ ns, n.kind = .batchReady ∨ n.kind = .cursorState) ∧
        (∀ (k : Slot) (c : Cursor), s.live.cursor k = some c → c.owner = q → c.state = .running →
          c.options.pacing = .bound →
          (({ c.buffer with waiting := none } : Buffer).flushTold k c.options ++
            [Notice.cursorState k .seeking .clockSet c.instant]).Sublist ns) ∧
        ∀ (k : Slot) (c : Cursor), s.live.cursor k = some c → c.owner = q → MarkReaches s.clock.instant t c →
          ns.count (triggerNotice t k c) = 1) ∧
      (∀ (k : Slot) (c : Cursor), s.live.cursor k = some c → c.options.pacing = .freeRun → c.state ≠ .armed →
        u.live.cursor k = some c) ∧
      (∀ k : Slot, s.live.cursor k = none → u.live.cursor k = none) ∧
      ChosenInSomeOrder
        (fun c =>
          if c.options.pacing = .bound ∧ (c.state = .running ∨ c.state = .seeking ∧ c.chain = true) then some t
          else if
            c.state = .armed ∧ c.options.source = .clockMark ∧ s.clock.instant < c.options.windowStart ∧
              c.options.windowStart ≤ t
          then triggerRebuild t c
          else none)
        s u ∧
      u.history = s.history ∧ u.tables = s.tables ∧ u.contexts = s.contexts ∧ u.gaps = s.gaps ∧ u.merge = s.merge ∧
      u.resetLow = s.resetLow ∧ u.pending = s.pending

/-- R160, R164: with no command waiting, a step lets a millisecond of wall time pass, or takes the event of a timer that
has run out (the form of the tick is the model's choice, log 3). An advance of a RUNNING clock adds the rate to the
instant, or stops the clock at 2^40 − 1 when the sum would pass it; the wall time the pacing timer had left passes at
the lease timer too (log 4); cursors that are neither bound nor ARMED are untouched. R160, R167: the advance that meets
the limit sends CLOCK with cause LIMIT to the ports subscribed to CLOCK, before the notices of the cursors. R173, R172:
an ARMED cursor whose source is CLOCK_MARK and whose window start lies above the instant before and at or below the
instant after is triggered, with its CURSOR_STATE; any other ARMED one is untouched. R84, R91: each rebuild so started
starts from the best checkpoint at or below its target, the choices made one after the other in some order. R164, R163,
R167: a lease expiry acts as the controlling port's release, and tells that port CLOCK_LOST. That an advance only makes
a waiting bound cursor's read due is the model's reading (log 35). That an advance leaves the instant of a waiting bound
cursor as it stands while its rebase is in flight is the model's deduction (log 37), and that it does so while HEAD or
END waits is its choice (logs 47, 56). R170: the LAGGING test that an advance makes of each RUNNING bound cursor, and
the one that the rebase of a triggered one makes. That the test of one that is REBASING and also STALLED or PROBING asks
REBASING's question, with the cursor instant as target where REBASE waits, is the model's deduction (log 33). That a
CURSOR_STATE of state SEEKING carries the instant the cursor stood at is its deduction too (log 27). -/
def Obligations.WallTimePasses : Prop :=
  (∀ s : State, s.pending = [] →
     Machine.step s =
       .next
         (if s.resetLow then s
          else if s.clock.pacing = some 0 then clockAdvance s
          else if s.clock.leaseLeft = some 0 then expireLease s
          else
            { s with
              clock :=
                { s.clock with
                  pacing := s.clock.pacing.map fun t => t - 1, leaseLeft := s.clock.leaseLeft.map fun t => t - 1 } })) ∧
  (∀ s : State, s.resetLow = false → s.clock.run = .running →
     ∃ t, exec .clockAdvance s = .next t ∧
       t.clock.rate = s.clock.rate ∧ t.clock.controller = s.clock.controller ∧ t.clock.waitList = s.clock.waitList ∧
       t.clock.leasePeriod = s.clock.leasePeriod ∧
       t.clock.leaseLeft = s.clock.leaseLeft.map (fun x => x - s.clock.pacing.getD 0) ∧
       (s.clock.instant + s.clock.rate ≤ 2 ^ 40 - 1 →
         t.clock.instant = s.clock.instant + s.clock.rate ∧ t.clock.run = .running ∧ t.clock.pacing = some 1) ∧
       (2 ^ 40 - 1 < s.clock.instant + s.clock.rate →
         t.clock.instant = 2 ^ 40 - 1 ∧ t.clock.run = .stopped ∧ t.clock.pacing = none) ∧
       (∀ (k : Slot) (c : Cursor), s.live.cursor k = some c → c.state ≠ .running ∨ c.options.pacing = .freeRun →
         ¬MarkReaches s.clock.instant t.clock.instant c → t.live.cursor k = some c) ∧
       (∀ (k : Slot) (c : Cursor), s.live.cursor k = some c → MarkReaches s.clock.instant t.clock.instant c →
         ∃ d, t.live.cursor k = some d ∧ Triggered s t.clock.instant c d) ∧
       (∀ q : PortId, ∃ ns : List Notice,
         t.live.port q =
           (s.live.port q).takes
             ((if (s.live.port q).subs.clock ∧ 2 ^ 40 - 1 < s.clock.instant + s.clock.rate then
                 [.clock .limit (2 ^ 40 - 1) .stopped s.clock.rate s.clock.controller s.clock.waitList.length]
               else []) ++ ns) ∧
         TriggersTold t.clock.instant (MarkReaches s.clock.instant t.clock.instant) s q ns) ∧
       ChosenInSomeOrder
         (fun c =>
           if
             c.state = .armed ∧ c.options.source = .clockMark ∧ s.clock.instant < c.options.windowStart ∧
               c.options.windowStart ≤ t.clock.instant
           then triggerRebuild t.clock.instant c
           else none)
         s t ∧
       (∀ k : Slot, s.live.cursor k = none → t.live.cursor k = none) ∧
       (∀ (k : Slot) (c : Cursor), s.live.cursor k = some c → c.state = .running → c.options.pacing = .bound →
         c.waiting = true → c.op = .none →
         ∃ d, t.live.cursor k = some d ∧ d.instant = some t.clock.instant ∧ d.parked = false ∧ d.image = c.image ∧
           d.position = c.position ∧ d.state = .running) ∧
       (∀ (k : Slot) (c : Cursor), s.live.cursor k = some c → c.state = .running → c.options.pacing = .bound →
         ∃ d, t.live.cursor k = some d ∧ LagTested s.history.records t.clock.instant c d.lagging ∧
           (c.waiting = false ∨ c.op ≠ .none → d = { c with lagging := d.lagging })) ∧
       t.history = s.history ∧ t.tables = s.tables ∧ t.contexts = s.contexts ∧ t.gaps = s.gaps ∧ t.merge = s.merge ∧
       t.resetLow = s.resetLow ∧ t.pending = s.pending) ∧
  (∀ (s : State) (p : PortId), s.resetLow = false → s.clock.leaseLeft ≠ none → s.clock.controller = some p →
     let c := s.clock
     let told (d : Clock) (l : Live) : Live := l.notifyWhere (fun _ q => q.subs.clock)
       (.clock .control d.instant d.run d.rate d.controller d.waitList.length)
     (c.waitList = [] →
       let d : Clock := { c with controller := none, leaseLeft := none }
       exec .leaseExpiry s =
         .next { s with clock := d, live := told d (s.live.notify p (.clockLost d.instant d.controller)) }) ∧
     ∀ (q : PortId) (rest : List PortId), c.waitList = q :: rest →
       let d : Clock :=
         { c with controller := some q, waitList := rest, leaseLeft := some (c.leasePeriod * 1000) }
       exec .leaseExpiry s =
         .next
           { s with
             clock := d
             live := told d
               ((s.live.notify p (.clockLost d.instant d.controller)).notify q
                 (.clockGranted d.instant d.run d.rate d.leasePeriod)) })

/-! ### The cursors' own events -/

/-- R113, R151, R169: a RUNNING cursor at a step boundary, not overtaken, reads the first record after its position,
within its window and, bound, at or below the clock instant: the record is applied to the image, and position, instant
and step base are the record's. R113: the record a step's read returns is the first in key order after the position. R85
to R87, R113, R143, R144: the step so begun: a checkpoint that its read creates, its gap markers, its RECORD, the
watches that fire and their WATCH markers; its first item is written in the event of the read (log 7). R138, R157: what
a withdrawal of the step would restore is what stood before its read, and so the image's entries; a record put in an
image changes its point's entry alone, and a point without an entry has its initial state (R26, R92). R131, R134, R135:
each item of a step is delivered in order, or waits for room, and LAGGING is tested with it (R170), as it is where the
step's end begins a rebase (log 33). R144 to R147, R114: with its last item the step ends: the flags and hit counts of
the watches that fired, then HELD with WATCH_FIRED where one of them holds, else the step boundary, and the signal of a
SIGNAL watch. R127, R129: what a RECORD item carries. That steps remaining is lowered in the event of the read is the
model's choice (log 52), so is that an INSTANT watch is judged on the cursor instant as it stands where that has gone
back (log 55), and so is that the standing instant of a step is the cursor instant also where the cursor stands past it
(log 58). -/
def Obligations.StepReadApplies : Prop :=
  (∀ (s : State) (k : Slot) (c : Cursor) (r : Record), s.resetLow = false → s.live.cursor k = some c →
     c.state = .running → c.op = .none → c.probes = [] → c.parked = false → c.overtaken = none →
     nextAfter c.position s.history.records = some r → (∀ e ∈ c.options.windowEnd, r.time ≤ e) →
     (c.options.pacing = .bound → r.time ≤ s.clock.instant) →
     ∃ t d, exec (.stepRead k) s = .next t ∧ SameStore s t ∧ t.live.cursor k = some d ∧
       d.image = some (Image.put (c.image.getD []) r.point { state := r.state, time := r.time, commit := r.commit }) ∧
       d.position = some r.key ∧ d.instant = some r.time ∧ d.stepBase = some r.time ∧ d.owner = c.owner ∧
       d.options = c.options ∧
       (c.trailFrozen = true → d.trail = c.trail) ∧
       (c.trailFrozen = false → ∃ x, d.trail.getLast? = some x ∧ x.key = r.key ∧ x.point = r.point ∧
         x.state = r.state ∧ x.quality = r.quality ∧ x.commit = r.commit ∧
         x.before = Image.stateOf s.tables (c.image.getD []) r.point) ∧
       ∀ (j : Slot) (x : Cursor), j ≠ k → s.live.cursor j = some x → x.state ≠ .armed → t.live.cursor j = some x) ∧
  (∀ (rs : List Record) (pos : Option Key), (rs.Pairwise fun a b => keyBefore a.key b.key = true) →
     (nextAfter pos rs = none ↔ ∀ r ∈ rs, keyAfter r.key pos = false) ∧
     ∀ r, nextAfter pos rs = some r →
       r ∈ rs ∧ keyAfter r.key pos = true ∧
         ∀ x ∈ rs, keyAfter x.key pos = true → x = r ∨ keyBefore r.key x.key = true) ∧
  (∀ (s : State) (k : Slot) (c : Cursor) (r : Record), s.resetLow = false → s.live.cursor k = some c →
     c.state = .running → c.op = .none → c.probes = [] → c.parked = false → c.overtaken = none →
     c.buffer.waiting = none → nextAfter c.position s.history.records = some r →
     (∀ e ∈ c.options.windowEnd, r.time ≤ e) → (c.options.pacing = .bound → r.time ≤ s.clock.instant) →
     ∃ (fired : List WatchId) (items : List ItemPlan) (u : CheckpointTable) (trail : List TrailEntry) (f : StepFlight),
       f.undo =
         { point := r.point, cell := Image.cell (c.image.getD []) r.point, position := c.position, instant := c.instant
           stepBase := c.stepBase, trail := c.trail, stepsLeft := c.stepsLeft, applied := c.applied
           refTime := c.buffer.refTime, nextNumber := c.buffer.nextNumber } ∧
       StepItems s c r fired items ∧
       CheckpointRule s.tables.study c c.instant (fun b => b < r.time) s.live.checkpoints u ∧
       f.todo = items ∧ f.written = 0 ∧ f.fired = fired ∧ f.commit = r.commit ∧ f.time = r.time ∧
       (c.trailFrozen = true → trail = c.trail) ∧
       (c.trailFrozen = false → ∃ x, trail = (c.trail ++ [x]).drop (c.trail.length + 1 - 8) ∧ x.key = r.key ∧
         x.late = r.late ∧ x.repositioned = r.repositioned) ∧
       exec (.stepRead k) s =
         exec (.itemWritten k)
           (s.withLive
             (Live.setCursor { s.live with checkpoints := u } k
               { c with
                 image := some (Image.put (c.image.getD []) r.point { state := r.state, time := r.time, commit := r.commit })
                 position := some r.key, instant := some r.time, stepBase := some r.time
                 stepsLeft := c.stepsLeft - 1, applied := true, waiting := false, parked := false, redo := false
                 trail := trail, op := .step f }))) ∧
  (∀ (s : State) (k : Slot) (c : Cursor) (f : StepFlight) (x : ItemPlan) (rest : List ItemPlan), s.resetLow = false →
     s.live.cursor k = some c → c.state = .running → c.op = .step f → f.todo = x :: rest → c.buffer.waiting = none →
     let it := renderItem s.env c x
     let flushes : Bool :=
       match x with
       | .marker (.watch w) => (c.watches.get w).elim false fun y => y.actions.hold
       | .marker (.endPass _) => true
       | .marker (.head _) => true
       | _ => false
     let refTime : Option Nat :=
       match x with
       | .record r _ => some r.time
       | _ => c.buffer.refTime
     let holds := SomeFired WatchActions.hold f.fired c
     let signals := SomeFired WatchActions.signal f.fired c
     let stops := holds ∨ c.probes = [] ∧ c.redo = false ∧
       (c.pendingHold ≠ none ∨ c.underStep = true ∧ c.stepsLeft = 0)
     ∃ t d, exec (.itemWritten k) s = .next t ∧ SameStore s t ∧ t.live.cursor k = some d ∧
       (c.buffer.hasRoom c.options = false →
         Stalls s { c with op := .step { f with todo := rest }, buffer := { c.buffer with waiting := some x } } d ∧
           OthersSame s t k c.owner ∧ t.live.port c.owner = s.live.port c.owner ∧
           t.live.checkpoints = s.live.checkpoints) ∧
       (c.buffer.hasRoom c.options = true → rest ≠ [] →
         d = { c with
               op := .step { f with todo := rest, written := f.written + 1 }
               buffer := { c.buffer.delivered c.options flushes it with refTime := refTime } } ∧
           OthersSame s t k c.owner ∧ t.live.checkpoints = s.live.checkpoints ∧
           t.live.port c.owner = (s.live.port c.owner).takes (c.buffer.announced k c.options flushes it)) ∧
       (c.buffer.hasRoom c.options = true → rest = [] →
         d.owner = c.owner ∧ d.options = c.options ∧
         (∀ i : WatchId, d.watches.get i =
           if i ∈ f.fired then
             (c.watches.get i).map fun y => { y with fired := true, hits := min (y.hits + 1) 65535 }
           else c.watches.get i) ∧
         (stops → d.state = .held ∧ d.op = .none ∧ d.pendingHold = none ∧ d.stepsLeft = 0 ∧ d.image = c.image ∧
           d.position = c.position ∧ d.instant = c.instant ∧ d.overtaken = c.overtaken ∧ d.trail = c.trail ∧
           d.buffer = { c.buffer.delivered c.options true it with refTime := refTime }) ∧
         (holds → d.trailFrozen = true) ∧
         (¬holds → c.probes = [] → d.probes = [] ∧ d.trailFrozen = c.trailFrozen) ∧
         (¬holds → c.probes ≠ [] → d.state = .running ∧ d.op = .none ∧ d.probes.length = c.probes.length) ∧
         (¬stops → d.state = .running ∧ d.stepsLeft = c.stepsLeft ∧
           d.buffer = { c.buffer.delivered c.options flushes it with refTime := refTime }) ∧
         (¬stops → c.overtaken = none →
           d.op = .none ∧ d.image = c.image ∧ d.position = c.position ∧ d.instant = c.instant ∧ d.trail = c.trail ∧
             d.lagging = c.lagging) ∧
         (¬stops → c.probes = [] → c.redo = false → c.overtaken ≠ none →
           RebuildBegun s.live.checkpoints .rebase (c.instant.getD 0) c.overtaken d ∧
             LagTestedAfter s.history.records s.clock.instant c d ∧
             (¬signals → t.live.checkpoints = (s.live.checkpoints.choose (c.instant.getD 0)).2)) ∧
         (signals → Signalled k s t) ∧
         (∀ (j : Slot) (y : Cursor), j ≠ k → s.live.cursor j = some y → ¬(signals ∧ Awaits k y) →
           t.live.cursor j = some y) ∧
         ∀ q : PortId, ∃ own more : List Notice, t.live.port q = (s.live.port q).takes (own ++ more) ∧
           (q ≠ c.owner → own = []) ∧
           (q = c.owner → holds →
             own = c.buffer.announced k c.options true it ++
               [.watchFired k f.fired f.commit f.time c.instant]) ∧
           (q = c.owner → ¬holds → stops → own = c.buffer.announced k c.options true it) ∧
           (q = c.owner → ¬stops → own = c.buffer.announced k c.options flushes it) ∧
           (∀ n ∈ more, n.kind = .batchReady ∨ n.kind = .cursorState) ∧ (¬signals → more = []))) ∧
  (∀ (s : State) (c : Cursor) (r : Record) (n : Bool) (m : Marker),
     renderItem s.env c (.marker m) = .marker m ∧
     ∃ y : RecordItem, renderItem s.env c (.record r n) = .record y ∧ y.presentation = c.options.presentation ∧
       y.point = r.point ∧ y.state = r.state ∧ y.quality = r.quality ∧ y.late = r.late ∧
       y.repositioned = r.repositioned ∧ y.corroborated = decide (2 ≤ r.sources.length) ∧ y.noChange = n ∧
       (c.options.presentation = .absolute → y.time = (r.time : Int)) ∧
       (c.options.presentation = .zeroRelative → y.time = (r.time : Int) - (s.tables.study.eventZero : Int)) ∧
       (∀ t : Nat, c.options.presentation = .previousRelative → c.buffer.refTime = some t →
         y.time = (r.time : Int) - (t : Int)) ∧
       (c.options.presentation = .recorderLocal → y.time = (r.timing.recorderTime : Int)) ∧
       (c.options.form = .compact → y.full = none) ∧
       (c.options.form = .full → y.full = some { cause := r.cause, commit := r.commit, sources := r.sources })) ∧
  (∀ (t : Tables) (img : Image) (p q : PointId) (x : ImageCell),
     Image.cell [] p = none ∧ Image.cell (Image.put img p x) q = (if p = q then some x else Image.cell img q) ∧
       Image.cell (Image.restore (Image.put img p x) p (Image.cell img p)) q = Image.cell img q ∧
       Image.stateOf t img p = (Image.cell img p).elim (t.points.get p).initial fun y => .known y.state)

/-- R169: a RUNNING bound cursor whose next record lies after the clock instant, within its window, or whose window or
SEALED store would end after the clock instant, waits for the clock: it sets WAITING, takes the clock instant, applies
nothing and clears LAGGING, and the batch being written is flushed (R134). R117: a RUNNING cursor that finds no record
while the store is COLLECTING delivers HEAD with its instant, where there is room, sets AT_HEAD and waits; a bound one
also sets WAITING and takes the clock instant (R169). That HEAD carries the instant it had before that is the model's
deduction (log 17). R115, R124: a RUNNING pass whose next record lies beyond its window end, or which finds no record in
a SEALED store, ends, a FREE_RUN one at once, a bound one once the clock has reached the instant that END sets (R169):
END with it is written where there is room, the cursor is ENDED at the greater of its instant and the window end (or the
greatest committed time), its owner takes CURSOR_STATE, and every ARMED cursor that waits for its signal starts (R120).
R116: at the same ends a looping pass that applied a record writes WRAP with the window start and starts a wrap rebuild
toward it, and a looping pass that applied none ends. HEAD and END flush, WRAP does not (R134, R135, Table 7-2). R131:
without room HEAD, END or WRAP waits, and with it what follows; LAGGING is tested (R170). R117, R169: with AT_HEAD set,
a read again that finds no record delivers no second HEAD; a bound cursor takes the clock instant, clears LAGGING and
waits as before. The cause of a cursor that a seal reached before, and of an empty looping pass, is the model's choice
(log 16). That a bound pass takes its window end at that instant, although the record beyond the window lies past the
clock too, is the model's deduction (log 35), and so is that a cursor past the clock that waits for it takes the clock
instant (log 39). That a bound cursor whose HEAD waits keeps its instant is its choice (log 47). -/
def Obligations.StepReadWaitsOrEnds : Prop :=
  (∀ (s : State) (k : Slot) (c : Cursor), s.resetLow = false → s.live.cursor k = some c →
     c.state = .running → c.op = .none → c.probes = [] → c.parked = false → c.overtaken = none →
     c.pendingHold = none → (c.underStep = true → c.stepsLeft ≠ 0) → c.options.pacing = .bound →
     (let next := nextAfter c.position s.history.records
      let stop := max (c.instant.getD 0) (c.options.windowEnd.getD (s.history.greatest.getD 0))
      (∃ r, next = some r ∧ s.clock.instant < r.time ∧ ∀ e ∈ c.options.windowEnd, r.time ≤ e) ∨
        (∃ r e, next = some r ∧ c.options.windowEnd = some e ∧ e < r.time ∧ s.clock.instant < stop) ∨
        next = none ∧ s.history.phase = .sealed ∧ s.clock.instant < stop) →
     ∃ t d, exec (.stepRead k) s = .next t ∧ SameStore s t ∧ OthersSame s t k c.owner ∧ t.live.cursor k = some d ∧
       d.state = .running ∧ d.waiting = true ∧ d.lagging = false ∧ d.instant = some s.clock.instant ∧
       d.image = c.image ∧ d.position = c.position ∧ d.trail = c.trail ∧
       (c.options.mode = .notice → c.buffer.writing ≠ [] →
         d.buffer.writing = [] ∧ ∃ b : Batch, d.buffer.completed = c.buffer.completed ++ [b] ∧
           b.items = c.buffer.writing ∧ b.first = (c.buffer.writing.head?.map Item.number).getD 0 ∧
           t.live.port c.owner = (s.live.port c.owner).push (.batchReady k b.half b.items.length b.first)) ∧
       (c.options.mode = .push ∨ c.buffer.writing = [] →
         d.buffer = c.buffer ∧ t.live.port c.owner = s.live.port c.owner) ∧
       t.live.checkpoints = s.live.checkpoints) ∧
  (∀ (s : State) (k : Slot) (c : Cursor), s.resetLow = false → s.live.cursor k = some c → c.state = .running →
     c.op = .none → c.probes = [] → c.parked = false → c.overtaken = none → c.pendingHold = none →
     (c.underStep = true → c.stepsLeft ≠ 0) → c.atHead = false → s.history.phase = .collecting →
     nextAfter c.position s.history.records = none → c.buffer.hasRoom c.options = true →
     let head : ItemBody := .marker (.head (c.instant.getD 0))
     ∃ t d, exec (.stepRead k) s = .next t ∧ SameStore s t ∧ OthersSame s t k c.owner ∧ t.live.cursor k = some d ∧
       d.state = .running ∧ d.atHead = true ∧ d.op = .none ∧ d.image = c.image ∧ d.position = c.position ∧
       (c.options.pacing = .freeRun → d.instant = c.instant ∧ d.waiting = c.waiting) ∧
       (c.options.pacing = .bound → d.instant = some s.clock.instant ∧ d.waiting = true ∧ d.lagging = false) ∧
       d.buffer.nextNumber = (c.buffer.nextNumber + 1) % 65536 ∧
       d.buffer = c.buffer.delivered c.options true head ∧
       t.live.port c.owner = (s.live.port c.owner).takes (c.buffer.announced k c.options true head) ∧
       t.live.checkpoints = s.live.checkpoints) ∧
  (∀ (s : State) (k : Slot) (c : Cursor), s.resetLow = false → s.live.cursor k = some c → c.state = .running →
     c.op = .none → c.probes = [] → c.parked = false → (c.options.loop = false ∨ c.applied = false) →
     c.buffer.hasRoom c.options = true →
     ((∃ r e, nextAfter c.position s.history.records = some r ∧ c.options.windowEnd = some e ∧ e < r.time) ∨
       (nextAfter c.position s.history.records = none ∧ s.history.phase = .sealed)) →
     let stop := max (c.instant.getD 0) (c.options.windowEnd.getD (s.history.greatest.getD 0))
     (c.options.pacing = .bound → stop ≤ s.clock.instant) →
     let last : ItemBody := .marker (.endPass stop)
     ∃ t d, exec (.stepRead k) s = .next t ∧ SameStore s t ∧ t.live.cursor k = some d ∧ d.state = .ended ∧
       d.instant = some stop ∧ d.image = c.image ∧ d.position = c.position ∧ d.overtaken = c.overtaken ∧
       d.stepsLeft = 0 ∧ d.pendingHold = none ∧ d.op = .none ∧
       d.buffer.nextNumber = (c.buffer.nextNumber + 1) % 65536 ∧
       d.buffer = c.buffer.delivered c.options true last ∧ Signalled k s t ∧
       (∀ (j : Slot) (x : Cursor), j ≠ k → s.live.cursor j = some x → ¬Awaits k x → t.live.cursor j = some x) ∧
       ∀ q : PortId, ∃ more : List Notice,
         t.live.port q =
           (s.live.port q).takes
             ((if q = c.owner then
                 c.buffer.announced k c.options true last ++
                   [.cursorState k .ended (if c.sealEnd = true ∧ c.options.loop = false then .sealTaken else .windowEnd)
                     (some stop)]
               else []) ++ more) ∧
         (∀ n ∈ more, n.kind = .batchReady ∨ n.kind = .cursorState) ∧
         ((∀ (j : Slot) (x : Cursor), s.live.cursor j = some x → ¬Awaits k x) → more = [])) ∧
  (∀ (s : State) (k : Slot) (c : Cursor), s.resetLow = false → s.live.cursor k = some c → c.state = .running →
     c.op = .none → c.probes = [] → c.parked = false → c.options.loop = true → c.applied = true →
     c.buffer.hasRoom c.options = true →
     ((∃ r e, nextAfter c.position s.history.records = some r ∧ c.options.windowEnd = some e ∧ e < r.time) ∨
       (nextAfter c.position s.history.records = none ∧ s.history.phase = .sealed)) →
     (c.options.pacing = .bound →
       max (c.instant.getD 0) (c.options.windowEnd.getD (s.history.greatest.getD 0)) ≤ s.clock.instant) →
     let wrap : ItemBody := .marker (.wrap c.options.windowStart)
     ∃ t d, exec (.stepRead k) s = .next t ∧ SameStore s t ∧ OthersSame s t k c.owner ∧
       t.live.cursor k = some d ∧ d.state = .running ∧
       RebuildBegun s.live.checkpoints .wrap c.options.windowStart none d ∧
       t.live.checkpoints = (s.live.checkpoints.choose c.options.windowStart).2 ∧
       d.stepsLeft = c.stepsLeft ∧ d.buffer.nextNumber = (c.buffer.nextNumber + 1) % 65536 ∧
       d.buffer = c.buffer.delivered c.options false wrap ∧
       t.live.port c.owner = (s.live.port c.owner).takes (c.buffer.announced k c.options false wrap)) ∧
  (∀ (s : State) (k : Slot) (c : Cursor), s.resetLow = false → s.live.cursor k = some c → c.state = .running →
     c.op = .none → c.probes = [] → c.parked = false → c.buffer.hasRoom c.options = false →
     let ends := (∃ r e, nextAfter c.position s.history.records = some r ∧ c.options.windowEnd = some e ∧ e < r.time) ∨
       (nextAfter c.position s.history.records = none ∧ s.history.phase = .sealed)
     let stop := max (c.instant.getD 0) (c.options.windowEnd.getD (s.history.greatest.getD 0))
     let waits (m : Marker) : Buffer := { c.buffer with waiting := some (.marker m) }
     ∃ t d, exec (.stepRead k) s = .next t ∧ t.live.cursor k = some d ∧
       (ends → (c.options.pacing = .bound → stop ≤ s.clock.instant) → (c.options.loop = false ∨ c.applied = false) →
         SameStore s t ∧ OthersSame s t k c.owner ∧ t.live.ports = s.live.ports ∧
           Stalls s
             { c with
               op := .ending (if c.sealEnd = true ∧ c.options.loop = false then .sealTaken else .windowEnd)
               instant := some stop, atHead := false, parked := false, buffer := waits (.endPass stop) } d) ∧
       (ends → (c.options.pacing = .bound → stop ≤ s.clock.instant) → c.options.loop = true → c.applied = true →
         SameStore s t ∧ OthersSame s t k c.owner ∧ t.live.ports = s.live.ports ∧
           Stalls s
             { c with op := .wrapping, atHead := false, parked := false, buffer := waits (.wrap c.options.windowStart) }
             d) ∧
       (nextAfter c.position s.history.records = none → s.history.phase = .collecting → c.atHead = false →
         SameStore s t ∧ OthersSame s t k c.owner ∧ t.live.ports = s.live.ports ∧
           Stalls s { c with op := .heading, buffer := waits (.head (c.instant.getD 0)) } d)) ∧
  (∀ (s : State) (k : Slot) (c : Cursor), s.resetLow = false → s.live.cursor k = some c → c.state = .running →
     c.op = .none → c.probes = [] → c.parked = false → c.overtaken = none → c.pendingHold = none →
     (c.underStep = true → c.stepsLeft ≠ 0) → c.atHead = true → (c.options.pacing = .bound → c.waiting = true) →
     s.history.phase = .collecting → nextAfter c.position s.history.records = none →
     let bound := c.options.pacing = .bound
     ∃ t, exec (.stepRead k) s = .next t ∧ SameStore s t ∧ OthersSame s t k c.owner ∧ t.live.ports = s.live.ports ∧
       t.live.checkpoints = s.live.checkpoints ∧
       t.live.cursor k =
         some
           { c with
             parked := true, redo := false, lagging := if bound then false else c.lagging
             instant := if bound then some s.clock.instant else c.instant })

/-- R92, R86: one read of a rebuild that brings a record applies it to the working image; a checkpoint may be created
before it, never by an overtaken cursor. R93, R108, R116, R122: the read that finds no further record at or below the
target completes the rebuild: with room for its marker and no probe waiting, an unchained seek leads to HELD and a
chained one that is not overtaken to RUNNING, a rebase and a wrap to RUNNING, at the target. R85 to R87: the checkpoint
that a read creates, at the eligible boundary, in the victim. R93, R129, Table 7-2: SEEK_DONE carries the target, REBASE
the kept overtake record, a wrap writes no marker, and the reference time is the target. That the completing read of a
rebuild without a standing instant finds boundary 0 eligible is the model's deduction (log 24). R131: without room the
marker waits, and LAGGING is tested (R170), of a REBASING cursor as log 33 reads it. R94, R121: a cursor overtaken at
completion rebases at once, with its LAGGING test (R170), or is HELD with the mark. R156: probes that wait begin before
the cursor goes on. R122, R123: the rebase of a snapshot leaves the state and the snapshot as they were. That the count
of records applied goes on past 262,144 where records are applied again is the model's choice (log 48), and that the
marker is written in the event of the completing read is its deduction (log 7). -/
def Obligations.RebuildReadsApplyOrComplete : Prop :=
  (∀ (s : State) (k : Slot) (c : Cursor) (f : Rebuild) (r : Record), s.resetLow = false → s.live.cursor k = some c →
     c.op = .rebuild f → nextAfter c.position s.history.records = some r → r.time ≤ f.target →
     ∃ t, exec (.rebuildRead k) s = .next t ∧ SameStore s t ∧ t.live.ports = s.live.ports ∧
       (∀ j : Slot, j ≠ k → t.live.cursor j = s.live.cursor j) ∧
       t.live.cursor k =
         some
           { c with
             image := some (Image.put (c.image.getD []) r.point { state := r.state, time := r.time, commit := r.commit })
             position := some r.key
             op := .rebuild { f with standing := some r.time }
             rebuildRecord := c.rebuildRecord.map fun y => { y with applied := y.applied + 1 } } ∧
       CheckpointRule s.tables.study c f.standing (fun b => b < r.time) s.live.checkpoints t.live.checkpoints ∧
       (c.overtaken ≠ none → t.live.checkpoints = s.live.checkpoints)) ∧
  (∀ (s : State) (k : Slot) (c : Cursor) (f : Rebuild), s.resetLow = false → s.live.cursor k = some c →
     c.op = .rebuild f → (∀ r ∈ nextAfter c.position s.history.records, f.target < r.time) →
     c.buffer.hasRoom c.options = true → c.probes = [] → c.overtaken = none → c.pendingHold = none →
     (c.underStep = true → c.stepsLeft ≠ 0) → c.snap = none → (c.state = .running ∨ f.kind = .seek) →
     ∃ t d, exec (.rebuildRead k) s = .next t ∧ SameStore s t ∧ OthersSame s t k c.owner ∧
       t.live.cursor k = some d ∧ d.op = .none ∧ d.instant = some f.target ∧ d.stepBase = some f.target ∧
       d.image = c.image ∧ d.position = c.position ∧
       d.rebuildRecord = (c.rebuildRecord.map fun x => { x with outcome := .completed }) ∧
       (f.kind = .seek → d.state = (if c.chain then .running else .held) ∧ d.chain = false) ∧
       (f.kind ≠ .seek → d.state = .running) ∧
       d.buffer.nextNumber = (if f.kind = .wrap then c.buffer.nextNumber else (c.buffer.nextNumber + 1) % 65536) ∧
       CheckpointRule s.tables.study c f.standing (fun b => b ≤ f.target) s.live.checkpoints t.live.checkpoints ∧
       (let done : ItemBody := .marker (.seekDone f.target)
        f.kind = .seek →
          d.buffer = { c.buffer.delivered c.options (!c.chain) done with refTime := some f.target } ∧
            t.live.port c.owner = (s.live.port c.owner).takes (c.buffer.announced k c.options (!c.chain) done)) ∧
       (∀ o : Overtake, f.kind = .rebase → f.kept = some o →
          let done : ItemBody := .marker (.rebase o.earliest o.count)
          d.buffer = { c.buffer.delivered c.options false done with refTime := some f.target } ∧
            t.live.port c.owner = (s.live.port c.owner).takes (c.buffer.announced k c.options false done)) ∧
       (f.kind = .wrap →
          d.buffer = { c.buffer with refTime := some f.target } ∧ t.live.port c.owner = s.live.port c.owner)) ∧
  (∀ (s : State) (k : Slot) (c : Cursor) (f : Rebuild), s.resetLow = false → s.live.cursor k = some c →
     c.op = .rebuild f → (∀ r ∈ nextAfter c.position s.history.records, f.target < r.time) →
     let marker : Marker :=
       if f.kind = .seek then .seekDone f.target
       else .rebase ((f.kept.map Overtake.earliest).getD 0) ((f.kept.map Overtake.count).getD 0)
     let body : ItemBody := .marker marker
     let buffer (flushes : Bool) : Buffer :=
       if f.kind = .wrap then { c.buffer with refTime := some f.target }
       else { c.buffer.delivered c.options flushes body with refTime := some f.target }
     let room := f.kind = .wrap ∨ c.buffer.hasRoom c.options = true
     let held := c.pendingHold ≠ none ∨ c.underStep = true ∧ c.stepsLeft = 0
     let boundary := c.probes = [] ∧ (f.kind = .seek ∧ c.chain = true ∨ f.kind ≠ .seek ∧ c.state = .running)
     ∃ t d, exec (.rebuildRead k) s = .next t ∧ SameStore s t ∧ OthersSame s t k c.owner ∧ t.live.cursor k = some d ∧
       d.owner = c.owner ∧ d.options = c.options ∧ d.watches = c.watches ∧ d.snap = c.snap ∧
       d.instant = some f.target ∧
       (¬room →
         Stalls s
           { c with
             op := if f.kind = .seek then .seekDone else .rebaseDone
             instant := some f.target, stepBase := some f.target, applied := false
             buffer := { c.buffer with waiting := some (.marker marker), refTime := some f.target }
             rebuildRecord := c.rebuildRecord.map fun x => { x with outcome := .completed } } d ∧
           t.live.ports = s.live.ports) ∧
       (room → f.kind = .rebase → c.state ≠ .running →
         d.state = c.state ∧ d.op = .none ∧ d.overtaken = c.overtaken ∧ d.image = c.image ∧ d.position = c.position ∧
           d.probes = c.probes ∧ d.buffer = buffer false) ∧
       (room → c.probes = [] → f.kind = .seek → c.chain = false →
         d.state = .held ∧ d.op = .none ∧ d.overtaken = c.overtaken ∧ d.image = c.image ∧ d.position = c.position ∧
           d.buffer = buffer true) ∧
       (room → boundary →
         (f.kind = .seek → d.chain = false) ∧ AtBoundary t { c with instant := some f.target } d) ∧
       (room → boundary → c.redo = false → held → f.kind ≠ .wrap → d.buffer = buffer true) ∧
       (room → boundary → c.redo = true ∨ ¬held → c.buffer.waiting = none → d.buffer = buffer false) ∧
       ∀ (q : Probe) (rest : List Probe), room → c.probes = q :: rest → q.work = none →
         (f.kind = .seek ∨ c.state = .running) →
         d.state = (if f.kind = .seek then c.state else .running) ∧
           d.op = (if f.kind = .seek then .serving else .none) ∧ d.overtaken = c.overtaken ∧ d.image = c.image ∧
           d.position = c.position ∧ d.chain = c.chain ∧ d.buffer = buffer false ∧
           (c.state = .seeking ∨ f.kind ≠ .seek →
             ∃ v, d.probes = { q with work := some v } :: rest ∧ v.lastRead = none ∧
               v.chosen = (t.live.checkpoints.choose q.instant).1.map Checkpoint.instant))

/-- R155, R97: a computing probe reads the next record of its point after the chosen instant, up to its own instant, in
key order; when there is none it answers PROBE_RESULT to the cursor's owner and leaves the queue; the cursor's own
replay is untouched. The answer's quality is that of the last record read, or of the store's record of the commit number
copied. R155 to R157: the next probe begins in the same event, with its own choice; with none left a SEEKING cursor goes
on to RUNNING or HELD, and a RUNNING one to its step boundary: it is HELD where a hold is pending or its STEP has no
step left, rebases where it is overtaken, and else goes on (R114, R122); with the rebase REBASING is set and LAGGING
tested (R170, log 33). R123, R127, R128: the cursor of a snapshot writes the next SNAP item, with the point's state,
time of last change and commit number as the image holds them. -/
def Obligations.ProbesAndSnapshotsProceed : Prop :=
  (∀ (s : State) (k : Slot) (c : Cursor) (q : Probe) (rest : List Probe) (w : ProbeWork), s.resetLow = false →
     s.live.cursor k = some c → c.probes = q :: rest → q.work = some w →
     (∀ r, probeNext s.env q w = some r →
       exec (.probeRead k) s =
         .next (withCursorAt s k
           { c with
             probes :=
               { q with
                 work := some
                   { w with
                     lastRead := some r.key
                     answer := { state := .known r.state, time := some r.time, commit := some r.commit
                                 quality := some r.quality } } } :: rest })) ∧
     (probeNext s.env q w = none → c.state = .held ∨ c.state = .ended ∨ c.state = .idle ∨ c.state = .armed →
       ∃ t d, exec (.probeRead k) s = .next t ∧ SameStore s t ∧ OthersSame s t k c.owner ∧
         t.live.port c.owner =
           (s.live.port c.owner).push (.probeResult k q.tag q.point q.instant (probeAnswer s.env w)) ∧
         t.live.cursor k = some d ∧ d.probes.length = rest.length ∧ d.state = c.state ∧ d.image = c.image ∧
         d.position = c.position ∧ d.instant = c.instant ∧ d.trail = c.trail ∧ d.watches = c.watches ∧
         d.buffer = c.buffer)) ∧
  (∀ (s : State) (k : Slot) (c : Cursor) (x : PointId) (rest : List PointId), s.resetLow = false →
     s.live.cursor k = some c → c.op = .none → c.buffer.waiting = none → c.probes = [] →
     c.snap = some { todo := x :: rest, opening := false } → c.options.mode = .push → c.buffer.outgoing.length < 16 →
     ∃ t d, exec (.itemWritten k) s = .next t ∧ SameStore s t ∧ OthersSame s t k c.owner ∧
       t.live.cursor k = some d ∧
       d.buffer.outgoing =
         c.buffer.outgoing ++
           [{ number := c.buffer.nextNumber
              body := .snap x (Image.stateOf s.tables (c.image.getD []) x)
                ((Image.cell (c.image.getD []) x).map ImageCell.time)
                ((Image.cell (c.image.getD []) x).map ImageCell.commit) }] ∧
       d.buffer.nextNumber = (c.buffer.nextNumber + 1) % 65536 ∧
       d.snap = (if rest = [] then none else some { todo := rest, opening := false }) ∧ d.state = c.state ∧
       d.image = c.image ∧ d.position = c.position ∧ d.instant = c.instant ∧ d.overtaken = c.overtaken ∧
       t.live.checkpoints = s.live.checkpoints) ∧
  (∀ (s : State) (q : Probe) (w : ProbeWork), (s.history.records.Pairwise fun a b => keyBefore a.key b.key = true) →
     let fits : Record → Prop := fun r =>
       r.point = q.point ∧ keyAfter r.key w.lastRead = true ∧ (∀ x ∈ w.chosen, x < r.time) ∧ r.time ≤ q.instant
     (probeNext s.env q w = none ↔ ∀ r ∈ s.history.records, ¬fits r) ∧
     ∀ r, probeNext s.env q w = some r →
       r ∈ s.history.records ∧ fits r ∧
         ∀ x ∈ s.history.records, fits x → x = r ∨ keyBefore r.key x.key = true) ∧
  (∀ (s : State) (w : ProbeWork),
     let a := probeAnswer s.env w
     a.state = w.answer.state ∧ a.time = w.answer.time ∧ a.commit = w.answer.commit ∧
       (w.answer.quality ≠ none → a.quality = w.answer.quality) ∧
       (w.answer.quality = none → w.answer.commit = none → a.quality = none) ∧
       ∀ r ∈ s.history.records, w.answer.quality = none → w.answer.commit = some r.commit →
         (∀ x ∈ s.history.records, x.commit = r.commit → x = r) → a.quality = some r.quality) ∧
  (∀ (s : State) (k : Slot) (c : Cursor) (q : Probe) (rest : List Probe) (w : ProbeWork), s.resetLow = false →
     s.live.cursor k = some c → c.probes = q :: rest → q.work = some w → probeNext s.env q w = none →
     ∃ t d, exec (.probeRead k) s = .next t ∧ SameStore s t ∧ OthersSame s t k c.owner ∧
       t.live.cursor k = some d ∧ d.options = c.options ∧ d.watches = c.watches ∧ d.owner = c.owner ∧
       (∃ more : List Notice,
         t.live.port c.owner =
           (s.live.port c.owner).takes (.probeResult k q.tag q.point q.instant (probeAnswer s.env w) :: more) ∧
         ∀ n ∈ more, n.kind = .batchReady) ∧
       (rest = [] → c.state ≠ .seeking → c.state ≠ .running → d = { c with probes := [] }) ∧
       (∀ (x : Probe) (xs : List Probe), rest = x :: xs → x.work = none →
         (c.state ≠ .seeking ∧ c.state ≠ .running ∨ c.state = .seeking ∧ c.op = .serving ∨
             c.state = .running ∧ c.op = .none →
           ∃ v, d = { c with probes := { x with work := some v } :: xs } ∧ v.lastRead = none ∧
             v.chosen = (s.live.checkpoints.choose x.instant).1.map Checkpoint.instant ∧
             t.live.checkpoints = (s.live.checkpoints.choose x.instant).2) ∧
         (c.state = .seeking ∧ c.op ≠ .serving ∨ c.state = .running ∧ c.op ≠ .none →
           d = { c with probes := rest } ∧ t.live.checkpoints = s.live.checkpoints)) ∧
       (rest = [] → c.state = .seeking → c.op = .serving →
         (c.chain = false → d.state = .held ∧ d.op = .none ∧ d.probes = [] ∧ d.image = c.image ∧
           d.instant = c.instant ∧ d.overtaken = c.overtaken) ∧
         (c.chain = true → d.chain = false ∧ AtBoundary s { c with probes := [] } d)) ∧
       (rest = [] → c.state = .running → c.op = .none →
         let held := c.pendingHold ≠ none ∨ c.underStep = true ∧ c.stepsLeft = 0
         (c.redo = true ∨ ¬held ∧ c.overtaken = none → d = { c with probes := [] }) ∧
         AtBoundary s { c with probes := [] } d) ∧
       (rest = [] → (c.state = .seeking ∧ c.op ≠ .serving ∨ c.state = .running ∧ c.op ≠ .none) →
         d = { c with probes := [] }))

/-- R131, R132, R133, R135, R126: an item of a NOTICE cursor takes the next item number and its place in the batch being
written; at the batch size the batch completes, BATCH_READY goes to the owner and in split mode the other half is
written next when it is free; without room the item waits. Stated on a SNAP item that is not the last of its snapshot.
R123, R134: in either delivery mode, a SNAP item that no probe holds back is written when there is room; with the last
one SNAPSHOT is cleared, the snapshot ends, and in NOTICE mode the batch that holds the item completes, once, also below
its size, with its BATCH_READY. Without room the item waits, with SNAPSHOT set (R131, Table 7-4), and LAGGING alone may
change, by its test (R170). -/
def Obligations.ItemCompletesBatch : Prop :=
  (∀ (s : State) (k : Slot) (c : Cursor) (x y : PointId) (rest : List PointId), s.resetLow = false →
     s.live.cursor k = some c → c.op = .none → c.buffer.waiting = none → c.probes = [] →
     c.snap = some { todo := x :: y :: rest, opening := false } → c.options.mode = .notice →
     let it : Item :=
       { number := c.buffer.nextNumber
         body := .snap x (Image.stateOf s.tables (c.image.getD []) x)
           ((Image.cell (c.image.getD []) x).map ImageCell.time)
           ((Image.cell (c.image.getD []) x).map ImageCell.commit) }
     let first := (c.buffer.writing.head?.map Item.number).getD c.buffer.nextNumber
     let half := if c.options.split then c.buffer.half else none
     let room := if c.options.split then c.buffer.half ≠ none else c.buffer.completed = []
     ∃ t d, exec (.itemWritten k) s = .next t ∧ SameStore s t ∧ OthersSame s t k c.owner ∧ t.live.cursor k = some d ∧
       d.snap = some { todo := y :: rest, opening := false } ∧
       (¬room → t.live.ports = s.live.ports ∧ d.buffer = { c.buffer with waiting := some (.snap x) }) ∧
       (room → c.buffer.writing.length + 1 < c.options.batchSize →
         t.live.ports = s.live.ports ∧
           d.buffer =
             { c.buffer with writing := c.buffer.writing ++ [it], nextNumber := (c.buffer.nextNumber + 1) % 65536 }) ∧
       (room → c.options.batchSize ≤ c.buffer.writing.length + 1 →
         t.live.port c.owner =
             (s.live.port c.owner).push (.batchReady k half (c.buffer.writing.length + 1) first) ∧
           d.buffer.writing = [] ∧ d.buffer.nextNumber = (c.buffer.nextNumber + 1) % 65536 ∧
           d.buffer.completed =
             c.buffer.completed ++ [{ half := half, first := first, items := c.buffer.writing ++ [it] }] ∧
           (c.options.split = true → c.buffer.half = some .a →
             d.buffer.half = if ∃ b ∈ c.buffer.completed, b.half = some .b then none else some .b) ∧
           (c.options.split = true → c.buffer.half = some .b →
             d.buffer.half = if ∃ b ∈ c.buffer.completed, b.half = some .a then none else some .a))) ∧
  (∀ (s : State) (k : Slot) (c : Cursor) (x : PointId) (rest : List PointId) (opening : Bool), s.resetLow = false →
     s.live.cursor k = some c → c.op = .none → c.buffer.waiting = none → opening = false ∨ c.probes = [] →
     c.snap = some { todo := x :: rest, opening := opening } →
     let it : ItemBody :=
       .snap x (Image.stateOf s.tables (c.image.getD []) x)
         ((Image.cell (c.image.getD []) x).map ImageCell.time)
         ((Image.cell (c.image.getD []) x).map ImageCell.commit)
     ∃ t d, exec (.itemWritten k) s = .next t ∧ SameStore s t ∧ OthersSame s t k c.owner ∧ t.live.cursor k = some d ∧
       t.live.checkpoints = s.live.checkpoints ∧
       (c.buffer.hasRoom c.options = true →
         d = { c with
               snap := if rest = [] then none else some { todo := rest, opening := false }
               buffer := c.buffer.delivered c.options rest.isEmpty it } ∧
           t.live.port c.owner = (s.live.port c.owner).takes (c.buffer.announced k c.options rest.isEmpty it)) ∧
       (c.buffer.hasRoom c.options = false →
         Stalls s
             { c with
               snap := some { todo := rest, opening := false }
               buffer := { c.buffer with waiting := some (.snap x) } } d ∧
           t.live.ports = s.live.ports))

/-! ### Invariants -/

/-- R2, R3, R4, R14, R15, R17: every step keeps the records in strict key order, one for each commit number up to the
commit count, the count within capacity, the greatest committed time that of the records, and each source in one record
at most. -/
def Obligations.StepKeepsStoreLaw : Prop :=
  ∀ s t : State, StoreLaw s → Machine.step s = .next t → StoreLaw t

/-- R5, R10, R64: every step keeps SETUP empty: no record, gap, queued segment, valid checkpoint or open cursor. R6, R25
to R29, R31 to R37: every step keeps the tables within their ranges, and free of table faults outside SETUP. -/
def Obligations.StepKeepsSetupAndTablesLaws : Prop :=
  (∀ s t : State, SetupLaw s → Machine.step s = .next t → SetupLaw t) ∧
  (∀ s t : State, TablesLaw s → Machine.step s = .next t → TablesLaw t)

/-- R43, R49, R62, R64, R66, R72: every step keeps the queue, the lists and the Gap List within capacity, each timing
state with what goes with it, and a segment in progress exactly while the queue is not empty. That the working copy of a
segment in progress equals the committed timing, with nothing staged, is the model's deduction (log 8). -/
def Obligations.StepKeepsIngestLaw : Prop :=
  ∀ s t : State, IngestLaw s → Machine.step s = .next t → IngestLaw t

/-- R159 to R164: every step keeps the clock within its ranges, its timers with its state, and its waiting list of UP
ports, none twice and none the controlling port. -/
def Obligations.StepKeepsClockLaw : Prop :=
  ∀ s t : State, ClockLaw s → Machine.step s = .next t → ClockLaw t

/-- R174 to R180: every step keeps each port's queues within capacity, its record of dropped notices, its response's
place, and a DOWN port empty; and every open cursor's owner UP while the part runs. -/
def Obligations.StepKeepsPortLaw : Prop :=
  ∀ s t : State, PortLaw s → Machine.step s = .next t → PortLaw t

/-- Table 6-3, R99, R118, R123, R151, R154: every step keeps each open cursor's queues within capacity, its armed-from
with ARMED, a snapshot in HELD or ENDED, and an operation in flight only in a state that has it. R104, R130, R132, R133,
R137: it keeps the batch size in its range and at most 16 unfetched items in the buffer, unsplit with one completed
batch at most, split with one batch for each half, in PUSH mode in the outgoing queue alone. R83, R101, R157: from a
state of lawful store and tables in which no cursor stands past its instant, every step keeps each valid checkpoint at a
multiple of the interval with the image and the position of the records up to its instant, no two at one instant; and
the image of each cursor that is not overtaken that of the records up to its position, with what an abort of its step
would restore. The same holds after reset. That a bound cursor sought past the clock comes to stand past its instant is
the model's deduction (log 39), and that it may then, made FREE_RUN, create a checkpoint whose image holds later records
is its choice (log 58). -/
def Obligations.StepKeepsCursorLaw : Prop :=
  (∀ s t : State, CursorLaw s → Machine.step s = .next t → CursorLaw t) ∧
  (∀ s t : State, StoreLaw s → SetupLaw s → TablesLaw s → NotPast s → ReplayLaw s → Machine.step s = .next t →
    ReplayLaw t) ∧
  ReplayLaw State.reset ∧ NotPast State.reset
end

