-- ==== Sys2Proof/Laws/State.lean ====
section
/-!
SUPPORT. One lemma per field per update: places of tables, cursor slots, ports, and the state around a request. Later
proofs cite these and unfold no record update.
-/

namespace Sys2Proof.Machine

open Sys2Proof

/-! ### Places of tables -/

theorem vget_eq {α : Type} {n : Nat} (v : Vector α n) (i : Fin n) : v.get i = v[i.val] := rfl

@[simp] theorem vput_get_same {α : Type} {n : Nat} (v : Vector α n) (i : Fin n) (x : α) :
    (vput v i x).get i = x := by simp [vput, vget_eq]

theorem vput_get_ne {α : Type} {n : Nat} (v : Vector α n) {i j : Fin n} (x : α) (h : i ≠ j) :
    (vput v i x).get j = v.get j := by
  have : i.val ≠ j.val := fun e => h (Fin.ext e)
  simp [vput, vget_eq, this]

theorem vput_get {α : Type} {n : Nat} (v : Vector α n) (i j : Fin n) (x : α) :
    (vput v i x).get j = if i = j then x else v.get j := by
  by_cases h : i = j
  · subst h; simp
  · simp [h, vput_get_ne v x h]

@[simp] theorem vmap_get {α β : Type} {n : Nat} (v : Vector α n) (f : α → β) (i : Fin n) :
    (v.map f).get i = f (v.get i) := by simp [vget_eq]

@[simp] theorem vofFn_get {α : Type} {n : Nat} (f : Fin n → α) (i : Fin n) : (Vector.ofFn f).get i = f i := by
  simp [vget_eq]

@[simp] theorem vreplicate_get {α : Type} {n : Nat} (x : α) (i : Fin n) : (Vector.replicate n x).get i = x := by
  simp [vget_eq]

theorem asIndex_some {n i : Nat} {k : Fin n} (h : asIndex n i = some k) : k.val = i := by
  unfold asIndex at h
  split at h
  · cases h; rfl
  · cases h

theorem asIndex_of_lt {n i : Nat} (h : i < n) : asIndex n i = some ⟨i, h⟩ := by simp [asIndex, h]

theorem asIndex_none {n i : Nat} : asIndex n i = none ↔ n ≤ i := by
  unfold asIndex
  split <;> simp_all

@[simp] theorem asIndex_val {n : Nat} (k : Fin n) : asIndex n k.val = some k := by simp [asIndex]

/-! ### Cursor slots -/

@[simp] theorem cursor_setCursor_same (l : Live) (k : Slot) (c : Cursor) : (l.setCursor k c).cursor k = some c := by
  simp [Live.setCursor, Live.cursor]

theorem cursor_setCursor_ne (l : Live) {k j : Slot} (c : Cursor) (h : k ≠ j) :
    (l.setCursor k c).cursor j = l.cursor j := by simp [Live.setCursor, Live.cursor, vput_get_ne _ _ h]

theorem cursor_setCursor (l : Live) (k j : Slot) (c : Cursor) :
    (l.setCursor k c).cursor j = if k = j then some c else l.cursor j := by
  simp [Live.setCursor, Live.cursor, vput_get]

@[simp] theorem checkpoints_setCursor (l : Live) (k : Slot) (c : Cursor) :
    (l.setCursor k c).checkpoints = l.checkpoints := rfl

@[simp] theorem port_setCursor (l : Live) (k : Slot) (c : Cursor) (p : PortId) : (l.setCursor k c).port p = l.port p :=
  rfl

@[simp] theorem ports_setCursor (l : Live) (k : Slot) (c : Cursor) : (l.setCursor k c).ports = l.ports := rfl

@[simp] theorem draws_setCursor (l : Live) (k : Slot) (c : Cursor) : (l.setCursor k c).draws = l.draws := rfl

@[simp] theorem cursor_freeCursor_same (l : Live) (k : Slot) : (l.freeCursor k).cursor k = none := by
  simp [Live.freeCursor, Live.cursor]

theorem cursor_freeCursor_ne (l : Live) {k j : Slot} (h : k ≠ j) : (l.freeCursor k).cursor j = l.cursor j := by
  simp [Live.freeCursor, Live.cursor, vput_get_ne _ _ h]

@[simp] theorem port_freeCursor (l : Live) (k : Slot) (p : PortId) : (l.freeCursor k).port p = l.port p := rfl

@[simp] theorem checkpoints_freeCursor (l : Live) (k : Slot) : (l.freeCursor k).checkpoints = l.checkpoints := rfl

theorem withCursor_some {l : Live} {k : Slot} {c : Cursor} (f : Cursor → Live) (h : l.cursor k = some c) :
    l.withCursor k f = f c := by simp [Live.withCursor, h]

theorem withCursor_none {l : Live} {k : Slot} (f : Cursor → Live) (h : l.cursor k = none) : l.withCursor k f = l := by
  simp [Live.withCursor, h]

theorem modify_some {l : Live} {k : Slot} {c : Cursor} (f : Cursor → Cursor) (h : l.cursor k = some c) :
    l.modify k f = l.setCursor k (f c) := by simp [Live.modify, withCursor_some _ h]

@[simp] theorem setCursor_setCursor (l : Live) (k : Slot) (c d : Cursor) :
    (l.setCursor k c).setCursor k d = l.setCursor k d := by simp [Live.setCursor, vput, Vector.set_set]

/-! ### Ports -/

@[simp] theorem port_setPort_same (l : Live) (p : PortId) (x : Port) : (l.setPort p x).port p = x := by
  simp [Live.setPort, Live.port]

theorem port_setPort_ne (l : Live) {p q : PortId} (x : Port) (h : p ≠ q) : (l.setPort p x).port q = l.port q := by
  simp [Live.setPort, Live.port, vput_get_ne _ _ h]

theorem port_setPort (l : Live) (p q : PortId) (x : Port) :
    (l.setPort p x).port q = if p = q then x else l.port q := by simp [Live.setPort, Live.port, vput_get]

@[simp] theorem cursor_setPort (l : Live) (p : PortId) (x : Port) (k : Slot) : (l.setPort p x).cursor k = l.cursor k :=
  rfl

@[simp] theorem cursors_setPort (l : Live) (p : PortId) (x : Port) : (l.setPort p x).cursors = l.cursors := rfl

@[simp] theorem checkpoints_setPort (l : Live) (p : PortId) (x : Port) : (l.setPort p x).checkpoints = l.checkpoints :=
  rfl

@[simp] theorem draws_setPort (l : Live) (p : PortId) (x : Port) : (l.setPort p x).draws = l.draws := rfl

@[simp] theorem cursor_notify (l : Live) (p : PortId) (n : Notice) (k : Slot) : (l.notify p n).cursor k = l.cursor k :=
  rfl

@[simp] theorem checkpoints_notify (l : Live) (p : PortId) (n : Notice) : (l.notify p n).checkpoints = l.checkpoints :=
  rfl

theorem port_notify (l : Live) (p q : PortId) (n : Notice) :
    (l.notify p n).port q = if p = q then (l.port p).push n else l.port q := by
  simp [Live.notify, port_setPort]

@[simp] theorem cursor_notifyWhere (l : Live) (sel : PortId → Port → Bool) (n : Notice) (k : Slot) :
    (l.notifyWhere sel n).cursor k = l.cursor k := rfl

@[simp] theorem cursors_notifyWhere (l : Live) (sel : PortId → Port → Bool) (n : Notice) :
    (l.notifyWhere sel n).cursors = l.cursors := rfl

@[simp] theorem checkpoints_notifyWhere (l : Live) (sel : PortId → Port → Bool) (n : Notice) :
    (l.notifyWhere sel n).checkpoints = l.checkpoints := rfl

@[simp] theorem port_notifyWhere (l : Live) (sel : PortId → Port → Bool) (n : Notice) (p : PortId) :
    (l.notifyWhere sel n).port p = if sel p (l.port p) then (l.port p).push n else l.port p := by
  simp [Live.notifyWhere, Live.port]

/-! ### The state with its live part changed -/

@[simp] theorem live_withLive (s : State) (l : Live) : (s.withLive l).live = l := rfl

@[simp] theorem history_withLive (s : State) (l : Live) : (s.withLive l).history = s.history := rfl

@[simp] theorem tables_withLive (s : State) (l : Live) : (s.withLive l).tables = s.tables := rfl

@[simp] theorem contexts_withLive (s : State) (l : Live) : (s.withLive l).contexts = s.contexts := rfl

@[simp] theorem gaps_withLive (s : State) (l : Live) : (s.withLive l).gaps = s.gaps := rfl

@[simp] theorem merge_withLive (s : State) (l : Live) : (s.withLive l).merge = s.merge := rfl

@[simp] theorem clock_withLive (s : State) (l : Live) : (s.withLive l).clock = s.clock := rfl

@[simp] theorem resetLow_withLive (s : State) (l : Live) : (s.withLive l).resetLow = s.resetLow := rfl

@[simp] theorem pending_withLive (s : State) (l : Live) : (s.withLive l).pending = s.pending := rfl

@[simp] theorem env_withLive (s : State) (l : Live) : (s.withLive l).env = s.env := rfl

@[simp] theorem withLive_withLive (s : State) (l m : Live) : (s.withLive l).withLive m = s.withLive m := rfl

/-! ### A request taken -/

@[simp] theorem history_popRequest (s : State) (p : PortId) : (s.popRequest p).history = s.history := rfl

@[simp] theorem tables_popRequest (s : State) (p : PortId) : (s.popRequest p).tables = s.tables := rfl

@[simp] theorem contexts_popRequest (s : State) (p : PortId) : (s.popRequest p).contexts = s.contexts := rfl

@[simp] theorem gaps_popRequest (s : State) (p : PortId) : (s.popRequest p).gaps = s.gaps := rfl

@[simp] theorem merge_popRequest (s : State) (p : PortId) : (s.popRequest p).merge = s.merge := rfl

@[simp] theorem clock_popRequest (s : State) (p : PortId) : (s.popRequest p).clock = s.clock := rfl

@[simp] theorem resetLow_popRequest (s : State) (p : PortId) : (s.popRequest p).resetLow = s.resetLow := rfl

@[simp] theorem pending_popRequest (s : State) (p : PortId) : (s.popRequest p).pending = s.pending := rfl

@[simp] theorem env_popRequest (s : State) (p : PortId) : (s.popRequest p).env = s.env := rfl

@[simp] theorem cursor_popRequest (s : State) (p : PortId) (k : Slot) :
    (s.popRequest p).live.cursor k = s.live.cursor k := rfl

@[simp] theorem checkpoints_popRequest (s : State) (p : PortId) :
    (s.popRequest p).live.checkpoints = s.live.checkpoints := rfl

theorem port_popRequest (s : State) (p q : PortId) :
    (s.popRequest p).live.port q =
      if p = q then { s.live.port p with requests := (s.live.port p).requests.drop 1 } else s.live.port q := by
  simp [State.popRequest, port_setPort]

/-! ### A response placed -/

@[simp] theorem history_respond (s : State) (p : PortId) (t a : Nat) (r : Response) :
    (s.respond p t a r).history = s.history := rfl

@[simp] theorem tables_respond (s : State) (p : PortId) (t a : Nat) (r : Response) :
    (s.respond p t a r).tables = s.tables := rfl

@[simp] theorem contexts_respond (s : State) (p : PortId) (t a : Nat) (r : Response) :
    (s.respond p t a r).contexts = s.contexts := rfl

@[simp] theorem gaps_respond (s : State) (p : PortId) (t a : Nat) (r : Response) :
    (s.respond p t a r).gaps = s.gaps := rfl

@[simp] theorem merge_respond (s : State) (p : PortId) (t a : Nat) (r : Response) :
    (s.respond p t a r).merge = s.merge := rfl

@[simp] theorem clock_respond (s : State) (p : PortId) (t a : Nat) (r : Response) :
    (s.respond p t a r).clock = s.clock := rfl

@[simp] theorem resetLow_respond (s : State) (p : PortId) (t a : Nat) (r : Response) :
    (s.respond p t a r).resetLow = s.resetLow := rfl

@[simp] theorem pending_respond (s : State) (p : PortId) (t a : Nat) (r : Response) :
    (s.respond p t a r).pending = s.pending := rfl

@[simp] theorem cursor_respond (s : State) (p : PortId) (t a : Nat) (r : Response) (k : Slot) :
    (s.respond p t a r).live.cursor k = s.live.cursor k := rfl

@[simp] theorem checkpoints_respond (s : State) (p : PortId) (t a : Nat) (r : Response) :
    (s.respond p t a r).live.checkpoints = s.live.checkpoints := rfl

theorem port_respond (s : State) (p q : PortId) (t a : Nat) (r : Response) :
    (s.respond p t a r).live.port q =
      if p = q then { s.live.port p with response := some { tag := t, response := r, ahead := a } }
      else s.live.port q := by
  simp [State.respond, port_setPort]

end Sys2Proof.Machine
end

