-- ==== Sys2Proof/Laws/Checkpoints.lean ====
section
/-!
SUPPORT. The Checkpoint Table's use stamps against the words of the statements: the order that renumbering keeps, the advance of
the use counter, and that a choice turns on no stamp (R84, R91).
-/

namespace Sys2Proof.Machine

open Sys2Proof

/-- R84: an entry stands before another by use stamp, equal stamps by index (log 34). -/
def StampBefore (t : CheckpointTable) (j i : CkptId) : Prop :=
  (t.entries.get j).stamp < (t.entries.get i).stamp ∨
    (t.entries.get j).stamp = (t.entries.get i).stamp ∧ j.val < i.val

theorem StampBefore.trans {t : CheckpointTable} {a b c : CkptId} (h : StampBefore t a b) (g : StampBefore t b c) :
    StampBefore t a c := by
  unfold StampBefore at *
  omega

theorem StampBefore.irrefl {t : CheckpointTable} {a : CkptId} : ¬StampBefore t a a := by
  unfold StampBefore
  omega

theorem StampBefore.total {t : CheckpointTable} {a b : CkptId} (h : a ≠ b) : StampBefore t a b ∨ StampBefore t b a := by
  have : a.val ≠ b.val := fun e => h (Fin.ext e)
  unfold StampBefore
  omega

/-- The entries that count towards a stamp rank. -/
def standsBefore (t : CheckpointTable) (i j : CkptId) : Bool :=
  (t.entries.get j).valid &&
    (decide ((t.entries.get j).stamp < (t.entries.get i).stamp) ||
      ((t.entries.get j).stamp == (t.entries.get i).stamp && decide (j.val < i.val)))

theorem standsBefore_iff {t : CheckpointTable} {i j : CkptId} :
    standsBefore t i j = true ↔ (t.entries.get j).valid = true ∧ StampBefore t j i := by
  simp [standsBefore, StampBefore]

theorem stampRank_eq (t : CheckpointTable) (i : CkptId) :
    stampRank t i = ((allCheckpoints.filter (standsBefore t i))).length := rfl

theorem mem_allCheckpoints (i : CkptId) : i ∈ allCheckpoints := List.mem_finRange i

/-- Fewer elements pass a stricter test, when one that fails it passes the weaker. -/
theorem filter_length_lt {α : Type} {p q : α → Bool} {l : List α} (h : ∀ x, p x = true → q x = true) {y : α} (hy : y ∈ l)
    (hq : q y = true) (hp : p y = false) : (l.filter p).length < (l.filter q).length := by
  have hs : (l.filter p).Sublist (l.filter q) := List.monotone_filter_right l h
  refine lt_of_le_of_ne hs.length_le fun e => ?_
  have := hs.eq_of_length e ▸ List.mem_filter.mpr ⟨hy, hq⟩
  rw [List.mem_filter, hp] at this
  exact absurd this.2 (by simp)

/-- R84: the ranks of two valid entries stand as their stamps do. -/
theorem stampRank_lt {t : CheckpointTable} {i j : CkptId} (hi : (t.entries.get i).valid = true)
    (hj : (t.entries.get j).valid = true) : stampRank t i < stampRank t j ↔ StampBefore t i j := by
  have up : ∀ {a b : CkptId}, (t.entries.get a).valid = true → StampBefore t a b → stampRank t a < stampRank t b := by
    intro a b ha h
    rw [stampRank_eq, stampRank_eq]
    refine filter_length_lt (fun x hx => ?_) (mem_allCheckpoints a) (standsBefore_iff.2 ⟨ha, h⟩) ?_
    · rw [standsBefore_iff] at hx ⊢
      exact ⟨hx.1, hx.2.trans h⟩
    · rw [Bool.eq_false_iff, ne_eq, standsBefore_iff]
      exact fun g => StampBefore.irrefl g.2
  refine ⟨fun h => ?_, up hi⟩
  by_contra g
  by_cases e : i = j
  · subst e; omega
  · exact absurd (up hj ((StampBefore.total e).resolve_left g)) (by omega)

/-- R84: a valid entry's rank lies below the number of valid entries. -/
theorem stampRank_lt_count {t : CheckpointTable} {i : CkptId} (hi : (t.entries.get i).valid = true) :
    stampRank t i < (allCheckpoints.filter fun j => (t.entries.get j).valid).length := by
  rw [stampRank_eq]
  refine filter_length_lt (fun x hx => (standsBefore_iff.1 hx).1) (mem_allCheckpoints i) hi ?_
  rw [Bool.eq_false_iff, ne_eq, standsBefore_iff]
  exact fun g => StampBefore.irrefl g.2

/-- R84: renumbering, as the statements say it. -/
theorem renumber_renumbered (t : CheckpointTable) : Renumbered t t.renumber := by
  refine ⟨rfl, fun i => by simp [CheckpointTable.renumber], fun i h => by simp [CheckpointTable.renumber, h],
    fun i h => ?_, fun i j hi hj => ?_⟩
  · have := stampRank_lt_count h
    simp only [CheckpointTable.renumber, vofFn_get, h, if_true]
    omega
  · simp only [CheckpointTable.renumber, vofFn_get, hi, hj, if_true, Nat.add_lt_add_iff_right]
    exact stampRank_lt hi hj

/-- R84: the table from which the use counter advances. -/
theorem ready_advancing (t : CheckpointTable) : Advancing t t.ready := by
  refine ⟨fun h => if_pos h, fun h => ?_⟩
  rw [show t.ready = t.renumber from if_neg (by show ¬_ < 4294967295; omega)]
  exact renumber_renumbered t

/-- R84: what an advance finds differs from the table in the use stamps and the counter alone. -/
theorem ready_entry (t : CheckpointTable) (i : CkptId) :
    t.ready.entries.get i = { t.entries.get i with stamp := (t.ready.entries.get i).stamp } := by
  unfold CheckpointTable.ready
  split_ifs
  · rfl
  · exact (renumber_renumbered t).2.1 i

/-- R84: the entry chosen takes the advanced counter, and every other stands as the advance found it. -/
theorem use_entry (t : CheckpointTable) (i j : CkptId) :
    (t.use i).entries.get j =
      { t.entries.get j with stamp := if j = i then t.ready.counter + 1 else (t.ready.entries.get j).stamp } := by
  rw [CheckpointTable.use, vput_get]
  split_ifs with h g g
  · subst h; rw [ready_entry t i]
  · exact absurd h.symm g
  · exact absurd g.symm h
  · exact ready_entry t j

/-- Two tables that differ in use stamps and the use counter alone. -/
def SameButStamps (t u : CheckpointTable) : Prop :=
  ∀ i : CkptId, u.entries.get i = { t.entries.get i with stamp := (u.entries.get i).stamp }

theorem SameButStamps.refl (t : CheckpointTable) : SameButStamps t t := fun _ => rfl

theorem SameButStamps.trans {t u v : CheckpointTable} (h : SameButStamps t u) (g : SameButStamps u v) :
    SameButStamps t v := fun i => by rw [g i, h i]

theorem SameButStamps.use (t : CheckpointTable) (i : CkptId) : SameButStamps t (t.use i) := fun j => by
  rw [use_entry]

theorem SameButStamps.best {t u : CheckpointTable} (h : SameButStamps t u) (limit : Nat) :
    u.best limit = t.best limit := by
  have hv : ∀ i, (u.entries.get i).valid = (t.entries.get i).valid := fun i => by rw [h i]
  have hi : ∀ i, (u.entries.get i).instant = (t.entries.get i).instant := fun i => by rw [h i]
  have : betterChoice u limit = betterChoice t limit := by
    funext b i
    simp only [betterChoice, hv, hi]
  simp only [CheckpointTable.best, this]

/-- R91: a choice answers the same checkpoint, stamps apart, on tables that differ in stamps alone. -/
theorem SameButStamps.choose {t u : CheckpointTable} (h : SameButStamps t u) (limit : Nat) :
    (u.choose limit).1.map Checkpoint.instant = (t.choose limit).1.map Checkpoint.instant ∧
      (u.choose limit).1.map Checkpoint.image = (t.choose limit).1.map Checkpoint.image ∧
      (u.choose limit).1.bind Checkpoint.position = (t.choose limit).1.bind Checkpoint.position := by
  unfold CheckpointTable.choose
  rw [h.best limit]
  cases t.best limit with
  | none => exact ⟨rfl, rfl, rfl⟩
  | some i =>
    have := h i
    simp only [Option.map_some, Option.bind_some]
    rw [this]
    exact ⟨rfl, rfl, rfl⟩

/-- R84: a choice changes use stamps and the use counter alone. -/
theorem choose_sameButStamps (t : CheckpointTable) (limit : Nat) : SameButStamps t (t.choose limit).2 := by
  unfold CheckpointTable.choose
  cases t.best limit with
  | none => exact fun i => rfl
  | some i => exact SameButStamps.use t i

/-- R89, R91: the start of a rebuild may be told with the choice on either of two tables that differ in stamps alone. -/
theorem SameButStamps.rebuildBegun {t u : CheckpointTable} (h : SameButStamps t u) {kind : RebuildKind} {target : Nat}
    {kept : Option Overtake} {d : Cursor} : RebuildBegun u kind target kept d ↔ RebuildBegun t kind target kept d := by
  obtain ⟨h1, h2, h3⟩ := h.choose target
  unfold RebuildBegun
  simp only [h1, h2, h3]

end Sys2Proof.Machine
end

