-- ==== Sys2Proof/Laws/Orders.lean ====
section
/-!
SUPPORT. Free orders (log 5): `reorder` answers an order of its list for every code, and every order of the list for some code.
-/

namespace Sys2Proof.Machine

theorem insertAt_perm {α : Type} (i : Nat) (x : α) (l : List α) : (insertAt i x l).Perm (x :: l) := by
  induction l generalizing i with
  | nil => exact List.Perm.refl _
  | cons y ys ih =>
    unfold insertAt
    split
    · exact List.Perm.refl _
    · exact ((ih (i - 1)).cons y).trans (List.Perm.swap x y ys)

/-- Whatever the code, the list's elements are taken once each. -/
theorem reorder_perm {α : Type} (l : List α) (code : Nat) : (reorder l code).Perm l := by
  fun_induction reorder l code with
  | case1 => exact List.Perm.refl _
  | case2 => exact List.Perm.refl _
  | case3 => exact (insertAt_perm _ _ _).trans (List.Perm.cons _ ‹_›)

/-- Every place can be the place of the first element. -/
theorem insertAt_at {α : Type} (x : α) (a b : List α) : insertAt a.length x (a ++ b) = a ++ x :: b := by
  induction a with
  | nil => cases b <;> simp [insertAt]
  | cons y ys ih => simp [insertAt, ih]

/-- Every order of a list of at least one element is named by some code. -/
theorem reorder_onto {α : Type} (l m : List α) (h : m.Perm l) : ∃ code, reorder l code = m := by
  induction l generalizing m with
  | nil => exact ⟨0, by rw [List.perm_nil.mp h]; rfl⟩
  | cons x l ih =>
    cases l with
    | nil => exact ⟨0, by rw [List.perm_singleton.mp h]; rfl⟩
    | cons y ys =>
      obtain ⟨a, b, rfl⟩ := List.append_of_mem (h.mem_iff.mpr List.mem_cons_self)
      have hp : (a ++ b).Perm (y :: ys) := ((List.perm_middle.symm.trans h).cons_inv)
      obtain ⟨code, hc⟩ := ih (a ++ b) hp
      have hl : a.length < ys.length + 2 := by
        have := hp.length_eq
        simp at this
        omega
      refine ⟨a.length + (ys.length + 2) * code, ?_⟩
      unfold reorder
      rw [Nat.add_mul_mod_self_left, Nat.mod_eq_of_lt hl, Nat.add_mul_div_left _ _ (by omega),
        Nat.div_eq_of_lt hl, Nat.zero_add, hc, insertAt_at]

end Sys2Proof.Machine
end

