-- ==== Sys2Proof/Laws/Grows.lean ====
section
/-!
SUPPORT. What every cursor operation leaves alone: FREE slots stay FREE, an open slot stays open with its owner, and a port
takes notices at the end of its queue and nothing else. One lemma per operation of Delivery and CursorOps.
-/

namespace Sys2Proof.Machine

open Sys2Proof

/-- A port that has taken notices, oldest first. -/
def Pushed (a b : Port) : Prop := ∃ ns : List Notice, b = ns.foldl Port.push a

theorem Pushed.refl (a : Port) : Pushed a a := ⟨[], rfl⟩

theorem Pushed.trans {a b c : Port} : Pushed a b → Pushed b c → Pushed a c := by
  rintro ⟨ns, rfl⟩ ⟨ms, rfl⟩
  exact ⟨ns ++ ms, by simp⟩

theorem Pushed.one (a : Port) (n : Notice) : Pushed a (a.push n) := ⟨[n], rfl⟩

/-- What holds of a port and of every push onto it holds of a port that has taken notices. -/
theorem Pushed.keeps {P : Port → Prop} (hp : ∀ a n, P a → P (Port.push a n)) {a b : Port} (h : Pushed a b) (ha : P a) :
    P b := by
  obtain ⟨ns, rfl⟩ := h
  induction ns generalizing a with
  | nil => exact ha
  | cons n ns ih => exact ih (hp _ n ha)

/-- A push changes the notice queue and the record of dropped notices alone. -/
theorem push_up (a : Port) (n : Notice) : (a.push n).up = a.up := by unfold Port.push; split_ifs <;> rfl

theorem push_requests (a : Port) (n : Notice) : (a.push n).requests = a.requests := by
  unfold Port.push; split_ifs <;> rfl

theorem push_response (a : Port) (n : Notice) : (a.push n).response = a.response := by
  unfold Port.push; split_ifs <;> rfl

theorem push_subs (a : Port) (n : Notice) : (a.push n).subs = a.subs := by unfold Port.push; split_ifs <;> rfl

theorem push_turn (a : Port) (n : Notice) : (a.push n).turn = a.turn := by unfold Port.push; split_ifs <;> rfl

theorem push_sent (a : Port) (n : Notice) : (a.push n).sent = a.sent := by unfold Port.push; split_ifs <;> rfl

theorem Pushed.up {a b : Port} (h : Pushed a b) : b.up = a.up :=
  h.keeps (P := fun x => x.up = a.up) (fun x n e => (push_up x n).trans e) rfl

theorem Pushed.requests {a b : Port} (h : Pushed a b) : b.requests = a.requests :=
  h.keeps (P := fun x => x.requests = a.requests) (fun x n e => (push_requests x n).trans e) rfl

theorem Pushed.response {a b : Port} (h : Pushed a b) : b.response = a.response :=
  h.keeps (P := fun x => x.response = a.response) (fun x n e => (push_response x n).trans e) rfl

theorem Pushed.subs {a b : Port} (h : Pushed a b) : b.subs = a.subs :=
  h.keeps (P := fun x => x.subs = a.subs) (fun x n e => (push_subs x n).trans e) rfl

theorem Pushed.turn {a b : Port} (h : Pushed a b) : b.turn = a.turn :=
  h.keeps (P := fun x => x.turn = a.turn) (fun x n e => (push_turn x n).trans e) rfl

theorem Pushed.sent {a b : Port} (h : Pushed a b) : b.sent = a.sent :=
  h.keeps (P := fun x => x.sent = a.sent) (fun x n e => (push_sent x n).trans e) rfl

/-- No notice leaves: the notices that stood stand at the front. -/
theorem Pushed.notices {a b : Port} (h : Pushed a b) : a.notices <+: b.notices :=
  h.keeps (P := fun x => a.notices <+: x.notices)
    (fun x n e => by
      unfold Port.push
      split_ifs
      · exact e
      · exact e.trans (List.prefix_append _ _)
      · exact e)
    (List.prefix_refl _)

/-- From `l` to `m` the open slots and their owners are the same and ports have only taken notices. -/
def Grows (l m : Live) : Prop :=
  (∀ k : Slot, (m.cursor k).map Cursor.owner = (l.cursor k).map Cursor.owner) ∧ ∀ p : PortId, Pushed (l.port p) (m.port p)

theorem Grows.refl (l : Live) : Grows l l := ⟨fun _ => rfl, fun _ => Pushed.refl _⟩

theorem Grows.trans {a b c : Live} (h : Grows a b) (g : Grows b c) : Grows a c :=
  ⟨fun k => (g.1 k).trans (h.1 k), fun p => (h.2 p).trans (g.2 p)⟩

/-- A slot FREE before is FREE after. -/
theorem Grows.free {l m : Live} (h : Grows l m) {k : Slot} (e : l.cursor k = none) : m.cursor k = none := by
  have := h.1 k
  rw [e] at this
  simpa using this

/-- A slot open before is open after, with the same owner. -/
theorem Grows.opened {l m : Live} (h : Grows l m) {k : Slot} {c : Cursor} (e : l.cursor k = some c) :
    ∃ d, m.cursor k = some d ∧ d.owner = c.owner := by
  have := h.1 k
  rw [e] at this
  simpa using this

theorem Grows.setCursor {l : Live} {k : Slot} {c d : Cursor} (h : l.cursor k = some c) (e : d.owner = c.owner) :
    Grows l (l.setCursor k d) := by
  refine ⟨fun j => ?_, fun p => Pushed.refl _⟩
  rw [cursor_setCursor]
  split_ifs with hk
  · subst hk; simp [h, e]
  · rfl

theorem Grows.notify (l : Live) (p : PortId) (n : Notice) : Grows l (l.notify p n) := by
  refine ⟨fun _ => rfl, fun q => ?_⟩
  rw [port_notify]
  split_ifs with h
  · subst h; exact Pushed.one _ _
  · exact Pushed.refl _

theorem Grows.notifyWhere (l : Live) (sel : PortId → Port → Bool) (n : Notice) : Grows l (l.notifyWhere sel n) := by
  refine ⟨fun _ => rfl, fun q => ?_⟩
  rw [port_notifyWhere]
  split_ifs
  · exact Pushed.one _ _
  · exact Pushed.refl _

theorem Grows.checkpoints (l : Live) (t : CheckpointTable) : Grows l { l with checkpoints := t } :=
  ⟨fun _ => rfl, fun _ => Pushed.refl _⟩

theorem Grows.draws (l : Live) (n : Nat) : Grows l { l with draws := n } := ⟨fun _ => rfl, fun _ => Pushed.refl _⟩

theorem Grows.withCursor {l : Live} {k : Slot} {f : Cursor → Live} (h : ∀ c, l.cursor k = some c → Grows l (f c)) :
    Grows l (l.withCursor k f) := by
  unfold Live.withCursor
  split
  · exact Grows.refl l
  · exact h _ ‹_›

theorem Grows.modify {l : Live} {k : Slot} {f : Cursor → Cursor} (h : ∀ c, (f c).owner = c.owner) :
    Grows l (l.modify k f) :=
  Grows.withCursor fun c hc => Grows.setCursor hc (h c)

theorem Grows.foldl {α : Type} {f : α → Live → Live} (h : ∀ x l, Grows l (f x l)) (xs : List α) (l : Live) :
    Grows l (xs.foldl (fun m x => f x m) l) := by
  induction xs generalizing l with
  | nil => exact Grows.refl l
  | cons x xs ih => exact (h x l).trans (ih _)

theorem Grows.inFreeOrder {f : Slot → Live → Live} (h : ∀ k l, Grows l (f k l)) (ks : List Slot) (l : Live) :
    Grows l (inFreeOrder ks f l) := by
  unfold Machine.inFreeOrder
  split
  · exact Grows.refl l
  · exact h _ _
  · exact (Grows.draws l _).trans (Grows.foldl h _ _)

/-! ### Flags and delivery -/

theorem lagTest_owner (e : Env) (c : Cursor) : (c.lagTest e).owner = c.owner := by
  unfold Cursor.lagTest; split_ifs <;> rfl

theorem lagTest_grows (e : Env) (k : Slot) (l : Live) : Grows l (lagTest e k l) := Grows.modify (lagTest_owner e)

theorem flush_grows (k : Slot) (l : Live) : Grows l (flush k l) := by
  refine Grows.withCursor fun c hc => ?_
  split_ifs
  · exact Grows.refl l
  · exact (Grows.setCursor hc (by rfl)).trans (Grows.notify _ _ _)

theorem writeWaiting_grows (e : Env) (k : Slot) (l : Live) : Grows l (writeWaiting e k l) := by
  refine Grows.withCursor fun c hc => ?_
  split
  · exact Grows.refl l
  · have h := Grows.setCursor (d := c.placeItem e ‹ItemPlan›) hc rfl
    dsimp only
    split_ifs
    · exact h.trans (flush_grows _ _)
    · exact h

theorem emit_grows (e : Env) (k : Slot) (op : Op) (plan : ItemPlan) {done : Live → Live}
    (h : ∀ l, Grows l (done l)) (l : Live) : Grows l (emit e k op plan done l) := by
  refine Grows.withCursor fun c hc => ?_
  have g := Grows.setCursor (d := { c with op := op, buffer := { c.buffer with waiting := some plan } }) hc rfl
  dsimp only
  split_ifs
  · exact (g.trans (writeWaiting_grows e k _)).trans (h _)
  · exact g.trans (lagTest_grows e k _)

/-! ### Rebuilds, playing and triggers -/

theorem startRebuild_grows (e : Env) (k : Slot) (kind : RebuildKind) (t : Nat) (l : Live) :
    Grows l (startRebuild e k kind t l) :=
  Grows.withCursor fun c hc =>
    (Grows.checkpoints l _).trans (Grows.setCursor (c := c) hc (lagTest_owner e _))

theorem startRebase_grows (e : Env) (k : Slot) (l : Live) : Grows l (startRebase e k l) :=
  Grows.withCursor fun _ _ => startRebuild_grows e k _ _ l

theorem startSeek_grows (e : Env) (k : Slot) (t : Nat) (chain : Bool) (l : Live) :
    Grows l (startSeek e k t chain l) := by
  refine Grows.withCursor fun c hc => ?_
  have g := Grows.setCursor
    (d := { c.leaveRunning with state := .seeking, chain := chain, armedFrom := none }) hc rfl
  have h := g.trans (startRebuild_grows e k .seek t _)
  dsimp only
  split_ifs
  · exact h
  · exact h.trans (flush_grows k _)

theorem beginPlay_grows (e : Env) (k : Slot) (underStep : Bool) (n : Nat) (l : Live) :
    Grows l (beginPlay e k underStep n l) := by
  refine Grows.withCursor fun c hc => ?_
  dsimp only
  split_ifs
  · exact (Grows.setCursor hc (by rfl)).trans (startSeek_grows e k _ _ _)
  · exact (Grows.setCursor hc (by rfl)).trans (startRebase_grows e k _)
  · exact Grows.setCursor hc rfl

theorem triggerAction_grows (e : Env) (k : Slot) {c : Cursor} {l : Live} (hc : l.cursor k = some c) :
    Grows l (triggerAction e k c l) := by
  unfold triggerAction
  split_ifs
  · exact beginPlay_grows e k _ _ l
  · exact (Grows.setCursor hc (by rfl)).trans (startSeek_grows e k _ _ _)
  · exact startSeek_grows e k _ _ l

theorem notifyState_grows (k : Slot) (cause : StateCause) (l : Live) : Grows l (notifyState k cause l) :=
  Grows.withCursor fun _ _ => Grows.notify _ _ _

theorem trigger_grows (e : Env) (k : Slot) (l : Live) : Grows l (trigger e k l) := by
  refine Grows.withCursor fun c hc => ?_
  split_ifs
  · exact (triggerAction_grows e k hc).trans (notifyState_grows k _ _)
  · exact Grows.refl l

theorem triggerEvent_grows (e : Env) (src : TriggerSource) (l : Live) : Grows l (triggerEvent e src l) :=
  Grows.inFreeOrder (trigger_grows e) _ l

theorem signalFrom_grows (e : Env) (k : Slot) (l : Live) : Grows l (signalFrom e k l) := triggerEvent_grows e _ l

/-! ### Probes begin, boundaries -/

theorem beginProbe_grows (e : Env) (k : Slot) (l : Live) : Grows l (beginProbe e k l) := by
  refine Grows.withCursor fun c hc => ?_
  split
  · exact Grows.refl l
  · exact (Grows.checkpoints l _).trans (Grows.setCursor (c := c) hc rfl)

theorem kickProbe_grows (e : Env) (k : Slot) (l : Live) : Grows l (kickProbe e k l) := by
  refine Grows.withCursor fun c _ => ?_
  split
  · exact Grows.refl l
  · split_ifs
    · exact beginProbe_grows e k l
    · exact Grows.refl l

theorem becomeHeld_grows (k : Slot) (l : Live) : Grows l (becomeHeld k l) :=
  (Grows.modify (k := k) (f := fun c =>
    { c.leaveRunning with state := .held, op := .none, pendingHold := none, chain := false })
    fun _ => rfl).trans (flush_grows k _)

theorem atBoundary_grows (e : Env) (k : Slot) (l : Live) : Grows l (atBoundary e k l) := by
  refine Grows.withCursor fun c _ => ?_
  split_ifs
  · exact Grows.refl l
  · exact kickProbe_grows e k l
  · exact Grows.refl l
  · exact becomeHeld_grows k l
  · exact startRebase_grows e k l
  · exact Grows.refl l

/-! ### Window end, wrap and head -/

theorem becomeEnded_grows (e : Env) (k : Slot) (cause : StateCause) (l : Live) :
    Grows l (becomeEnded e k cause l) := by
  have g := Grows.modify (l := l) (k := k) (f := fun c =>
    { c.leaveRunning with state := .ended, op := .none, pendingHold := none, applied := false }) fun _ => rfl
  exact (((g.trans (flush_grows k _)).trans (notifyState_grows k cause _)).trans (signalFrom_grows e k _)).trans
    (kickProbe_grows e k _)

theorem endPass_grows (e : Env) (k : Slot) (cause : StateCause) (l : Live) : Grows l (endPass e k cause l) :=
  Grows.withCursor fun c hc =>
    (Grows.setCursor (d := { c with instant := some (endInstant e c), atHead := false, parked := false }) hc rfl).trans
      (emit_grows e k _ _ (becomeEnded_grows e k cause) _)

theorem startWrap_grows (e : Env) (k : Slot) (l : Live) : Grows l (startWrap e k l) :=
  Grows.withCursor fun _ _ => startRebuild_grows e k _ _ l

theorem wrapPass_grows (e : Env) (k : Slot) (l : Live) : Grows l (wrapPass e k l) :=
  Grows.withCursor fun c hc =>
    (Grows.setCursor (d := { c with atHead := false, parked := false }) hc rfl).trans
      (emit_grows e k _ _ (startWrap_grows e k) _)

theorem reachEnd_grows (e : Env) (k : Slot) (cause : StateCause) (l : Live) : Grows l (reachEnd e k cause l) := by
  refine Grows.withCursor fun c _ => ?_
  split_ifs
  · exact wrapPass_grows e k l
  · exact endPass_grows e k _ l
  · exact endPass_grows e k _ l

theorem takeSeal_grows (e : Env) (k : Slot) (l : Live) : Grows l (takeSeal e k l) := by
  refine Grows.withCursor fun c hc => ?_
  split_ifs
  · exact Grows.refl l
  · exact (Grows.setCursor hc (by rfl)).trans (atBoundary_grows e k _)
  · exact (Grows.setCursor hc (by rfl)).trans (reachEnd_grows e k _ _)

theorem settleHead_grows (e : Env) (k : Slot) (l : Live) : Grows l (settleHead e k l) := by
  refine Grows.withCursor fun c hc => ?_
  dsimp only
  split_ifs
  all_goals first
    | exact (Grows.setCursor hc (by rfl)).trans (atBoundary_grows e k _)
    | exact (Grows.setCursor hc (by rfl)).trans (takeSeal_grows e k _)

theorem meetHead_grows (e : Env) (k : Slot) (l : Live) : Grows l (meetHead e k l) := by
  refine Grows.withCursor fun c _ => ?_
  split_ifs
  · exact settleHead_grows e k l
  · exact emit_grows e k _ _ (settleHead_grows e k) l

theorem waitForClock_grows (e : Env) (k : Slot) (l : Live) : Grows l (waitForClock e k l) := by
  have g := Grows.modify (l := l) (k := k) (f := fun c =>
    { c with waiting := true, parked := true, lagging := false, redo := false, instant := some e.clock.instant })
    fun _ => rfl
  exact (g.trans (flush_grows k _)).trans (atBoundary_grows e k _)

/-! ### Steps and rebuild completion -/

theorem holdByWatch_grows (e : Env) (k : Slot) (f : StepFlight) (l : Live) : Grows l (holdByWatch e k f l) := by
  have g := Grows.modify (l := l) (k := k) (f := fun c =>
    { c.leaveRunning with state := .held, op := .none, pendingHold := none, trailFrozen := true }) fun _ => rfl
  exact ((g.trans (flush_grows k _)).trans (Grows.withCursor fun _ _ => Grows.notify _ _ _)).trans (kickProbe_grows e k _)

theorem stepEnd_grows (e : Env) (k : Slot) (f : StepFlight) (l : Live) : Grows l (stepEnd e k f l) := by
  refine Grows.withCursor fun c hc => ?_
  have g := Grows.setCursor (d := { c with watches := hitWatches f.fired c.watches, op := .none }) hc rfl
  dsimp only
  split_ifs
  · exact (g.trans (holdByWatch_grows e k f _)).trans (signalFrom_grows e k _)
  · exact (g.trans (atBoundary_grows e k _)).trans (signalFrom_grows e k _)
  · exact g.trans (holdByWatch_grows e k f _)
  · exact g.trans (atBoundary_grows e k _)

theorem finishSeek_grows (e : Env) (k : Slot) (l : Live) : Grows l (finishSeek e k l) := by
  refine Grows.withCursor fun c hc => ?_
  split_ifs
  · exact (Grows.setCursor hc (by rfl)).trans (atBoundary_grows e k _)
  · exact becomeHeld_grows k l

theorem seekWritten_grows (e : Env) (k : Slot) (l : Live) : Grows l (seekWritten e k l) := by
  refine Grows.withCursor fun c hc => ?_
  have g := Grows.setCursor (d := { c with op := .serving }) hc rfl
  dsimp only
  split_ifs
  · exact g.trans (finishSeek_grows e k _)
  · exact g.trans (kickProbe_grows e k _)

theorem rebaseWritten_grows (e : Env) (k : Slot) (l : Live) : Grows l (rebaseWritten e k l) :=
  (Grows.modify (k := k) (f := fun c => { c with op := .none }) fun _ => rfl).trans (atBoundary_grows e k _)

theorem completeRebuild_grows (e : Env) (k : Slot) (r : Rebuild) (l : Live) : Grows l (completeRebuild e k r l) := by
  refine Grows.withCursor fun c hc => ?_
  have g := Grows.setCursor (d := c.completeRebuild r) hc rfl
  dsimp only
  split
  · exact g.trans (emit_grows e k _ _ (seekWritten_grows e k) _)
  · exact g.trans (emit_grows e k _ _ (rebaseWritten_grows e k) _)
  · exact (g.trans (Grows.modify fun _ => by rfl)).trans (atBoundary_grows e k _)

theorem checkpointAtRead_grows (b : Option Nat) (c : Cursor) (l : Live) : Grows l (checkpointAtRead b c l) := by
  unfold checkpointAtRead
  split
  · exact Grows.refl l
  · split_ifs
    · exact Grows.refl l
    · exact Grows.checkpoints l _

@[simp] theorem cursor_checkpointAtRead (b : Option Nat) (c : Cursor) (l : Live) (k : Slot) :
    (checkpointAtRead b c l).cursor k = l.cursor k := by
  unfold checkpointAtRead
  split
  · rfl
  · split_ifs <;> rfl

theorem rebuildRead_grows (e : Env) (k : Slot) (l : Live) : Grows l (rebuildRead e k l) := by
  refine Grows.withCursor fun c hc => ?_
  split
  · dsimp only
    split
    · exact (checkpointAtRead_grows _ c l).trans (Grows.setCursor (c := c) (by simpa using hc) (by rfl))
    · exact (checkpointAtRead_grows _ c l).trans (completeRebuild_grows e k _ _)
  · exact Grows.refl l

/-! ### After an item is written -/

theorem endSnapshot_grows (k : Slot) (l : Live) : Grows l (endSnapshot k l) :=
  (Grows.modify (k := k) (f := fun c => { c with snap := none }) fun _ => rfl).trans (flush_grows k _)

theorem afterItem_grows (e : Env) (k : Slot) (l : Live) : Grows l (afterItem e k l) := by
  refine Grows.withCursor fun c _ => ?_
  split
  · split_ifs
    · exact stepEnd_grows e k _ l
    · exact Grows.refl l
  · exact becomeEnded_grows e k _ l
  · exact startWrap_grows e k l
  · exact settleHead_grows e k l
  · exact seekWritten_grows e k l
  · exact rebaseWritten_grows e k l
  · split
    · split_ifs
      · exact endSnapshot_grows k l
      · exact Grows.refl l
    · exact Grows.refl l
  · exact Grows.refl l
  · exact Grows.refl l

theorem resumeWaiting_grows (e : Env) (k : Slot) (l : Live) : Grows l (resumeWaiting e k l) := by
  refine Grows.withCursor fun c _ => ?_
  split_ifs
  · exact (writeWaiting_grows e k l).trans (afterItem_grows e k _)
  · exact Grows.refl l

theorem writeNext_grows (e : Env) (k : Slot) (l : Live) : Grows l (writeNext e k l) := by
  refine Grows.withCursor fun c hc => ?_
  split
  · split
    · exact Grows.refl l
    · exact emit_grows e k _ _ (afterItem_grows e k) l
  · split
    · split
      · exact Grows.refl l
      · exact (Grows.setCursor hc (by rfl)).trans (emit_grows e k _ _ (afterItem_grows e k) _)
    · exact Grows.refl l
  · exact Grows.refl l

theorem itemWritten_grows (e : Env) (k : Slot) (l : Live) : Grows l (itemWritten e k l) := by
  refine Grows.withCursor fun c _ => ?_
  split_ifs
  · exact writeNext_grows e k l
  · exact Grows.refl l

/-! ### The read of a step, probes -/

theorem applyStep_grows (e : Env) (k : Slot) (r : Record) (l : Live) : Grows l (applyStep e k r l) := by
  refine Grows.withCursor fun c hc => ?_
  dsimp only
  exact ((checkpointAtRead_grows _ c l).trans (Grows.setCursor (c := c) (by simpa using hc) (by rfl))).trans
    (writeNext_grows e k _)

theorem stepRead_grows (e : Env) (k : Slot) (l : Live) : Grows l (stepRead e k l) := by
  refine Grows.withCursor fun c _ => ?_
  split
  · split
    · exact applyStep_grows e k _ l
    · exact reachEnd_grows e k _ l
    · exact meetHead_grows e k l
    · exact waitForClock_grows e k l
  · exact Grows.refl l

theorem afterProbes_grows (e : Env) (k : Slot) (l : Live) : Grows l (afterProbes e k l) := by
  refine Grows.withCursor fun c _ => ?_
  split
  · exact finishSeek_grows e k l
  · exact atBoundary_grows e k l
  · exact Grows.refl l

theorem probeRead_grows (e : Env) (k : Slot) (l : Live) : Grows l (probeRead e k l) := by
  refine Grows.withCursor fun c hc => ?_
  split
  · exact Grows.refl l
  · split
    · exact Grows.refl l
    · split
      · exact Grows.setCursor hc rfl
      · dsimp only
        split_ifs
        · exact ((Grows.setCursor hc (by rfl)).trans (Grows.notify _ _ _)).trans (afterProbes_grows e k _)
        · exact ((Grows.setCursor hc (by rfl)).trans (Grows.notify _ _ _)).trans (kickProbe_grows e k _)

theorem abandonRebuild_owner (c : Cursor) : c.abandonRebuild.owner = c.owner := by
  unfold Cursor.abandonRebuild; split <;> rfl

theorem abandon_grows (e : Env) (k : Slot) (l : Live) : Grows l (abandon e k l) := by
  have g := Grows.modify (l := l) (k := k) (f := fun c =>
    { c.abandonRebuild.leaveRunning with
      state := .unsettled, op := .none, chain := false, pendingHold := none
      buffer := { c.abandonRebuild.buffer with waiting := none } }) fun c => abandonRebuild_owner c
  exact (g.trans (flush_grows k _)).trans (kickProbe_grows e k _)

/-! ### Commits and clock changes -/

theorem mark_owner (ts : List Touched) (c : Cursor) : (c.mark ts).owner = c.owner := by
  unfold Cursor.mark; split <;> rfl

theorem release_owner (ts : List Touched) (c : Cursor) : (c.release ts).owner = c.owner := by
  unfold Cursor.release; split_ifs <;> rfl

theorem commitReaches_grows (e : Env) (ts : List Touched) (k : Slot) (l : Live) : Grows l (commitReaches e ts k l) := by
  refine Grows.withCursor fun c hc => ?_
  have g := Grows.setCursor (d := ((c.mark ts).release ts).lagTest e) hc
    (by rw [lagTest_owner, release_owner, mark_owner])
  dsimp only
  split_ifs
  · exact (g.trans (beginProbe_grows e k _)).trans (atBoundary_grows e k _)
  · exact g.trans (atBoundary_grows e k _)

theorem commitReachesAll_grows (e : Env) (ts : List Touched) (l : Live) : Grows l (commitReachesAll e ts l) :=
  Grows.inFreeOrder (commitReaches_grows e ts) _ l

theorem followClock_owner (e : Env) (c : Cursor) : (c.followClock e).owner = c.owner := by
  unfold Cursor.followClock
  split_ifs
  · rw [lagTest_owner]
  · rw [lagTest_owner]
  · rfl

theorem followClockAll_grows (e : Env) (l : Live) : Grows l (followClockAll e l) := by
  refine ⟨fun k => ?_, fun _ => Pushed.refl _⟩
  simp only [followClockAll, Live.cursor, vmap_get, Option.map_map]
  exact congrArg (fun f => Option.map f (l.cursors.get k)) (funext (followClock_owner e))

theorem reseek_grows (e : Env) (k : Slot) (l : Live) : Grows l (reseek e k l) := by
  refine Grows.withCursor fun c hc => ?_
  have g := (Grows.setCursor (d := { c with pendingHold := none }) hc rfl).trans
    (startSeek_grows e k e.clock.instant c.pendingHold.isNone _)
  dsimp only
  split_ifs
  · exact g.trans (notifyState_grows k _ _)
  · exact g

theorem clockSetReaches_grows (e : Env) (k : Slot) (l : Live) : Grows l (clockSetReaches e k l) := by
  refine Grows.withCursor fun c _ => ?_
  split_ifs
  · exact reseek_grows e k l
  · exact trigger_grows e k l

end Sys2Proof.Machine
end

