-- ==== Sys2Proof/Laws/Local.lean ====
section
/-!
SUPPORT. The cursor operations that reach one cursor and its owner's port: what they do to that cursor, and that they leave every
other cursor and port as it is.
-/

namespace Sys2Proof.Machine

open Sys2Proof

/-- From `l` to `m` only the cursor of slot `k` and the port `p` may differ, the checkpoints apart. -/
def Local (k : Slot) (p : PortId) (l m : Live) : Prop :=
  (∀ j : Slot, j ≠ k → m.cursor j = l.cursor j) ∧ ∀ q : PortId, q ≠ p → m.port q = l.port q

theorem Local.refl (k : Slot) (p : PortId) (l : Live) : Local k p l l := ⟨fun _ _ => rfl, fun _ _ => rfl⟩

theorem Local.trans {k : Slot} {p : PortId} {a b c : Live} (h : Local k p a b) (g : Local k p b c) : Local k p a c :=
  ⟨fun j hj => (g.1 j hj).trans (h.1 j hj), fun q hq => (g.2 q hq).trans (h.2 q hq)⟩

theorem Local.setCursor (k : Slot) (p : PortId) (l : Live) (c : Cursor) : Local k p l (l.setCursor k c) :=
  ⟨fun _ hj => cursor_setCursor_ne _ _ (Ne.symm hj), fun _ _ => rfl⟩

theorem Local.notify (k : Slot) (p : PortId) (l : Live) (n : Notice) : Local k p l (l.notify p n) :=
  ⟨fun _ _ => rfl, fun _ hq => by rw [port_notify, if_neg (Ne.symm hq)]⟩

theorem Local.checkpoints (k : Slot) (p : PortId) (l : Live) (t : CheckpointTable) :
    Local k p l { l with checkpoints := t } := ⟨fun _ _ => rfl, fun _ _ => rfl⟩

theorem Local.withCursor {k : Slot} {p : PortId} {l : Live} {f : Cursor → Live}
    (h : ∀ c, l.cursor k = some c → Local k p l (f c)) : Local k p l (l.withCursor k f) := by
  unfold Live.withCursor
  split
  · exact Local.refl k p l
  · exact h _ ‹_›

theorem Local.modify (k : Slot) (p : PortId) (l : Live) (f : Cursor → Cursor) : Local k p l (l.modify k f) :=
  Local.withCursor fun _ _ => Local.setCursor k p l _

/-- What an answered request leaves when its rule reached one cursor: `OthersSame` of the states. -/
theorem Local.othersSame {s : State} {k : Slot} {p : PortId} {t : Nat} {r : Response} {l : Live}
    (h : Local k p (s.popRequest p).live l) : OthersSame s (answered s p t r ((s.popRequest p).withLive l)) k p := by
  refine ⟨fun j hj => ?_, fun q hq => ?_⟩
  · have := h.1 j hj
    simpa [answered] using this
  · have := h.2 q hq
    rw [port_popRequest, if_neg (Ne.symm hq)] at this
    unfold answered
    rw [port_respond, if_neg (Ne.symm hq)]
    exact this

/-- R134, R135: a flush changes the cursor's buffer alone, and never its waiting item, numbers or outgoing queue. -/
theorem flush_cursor {l : Live} {k : Slot} {c : Cursor} (h : l.cursor k = some c) :
    ∃ b : Buffer, (flush k l).cursor k = some { c with buffer := b } ∧ b.waiting = c.buffer.waiting ∧
      b.nextNumber = c.buffer.nextNumber ∧ b.outgoing = c.buffer.outgoing ∧ b.refTime = c.buffer.refTime ∧
      (flush k l).checkpoints = l.checkpoints ∧ Local k c.owner l (flush k l) := by
  unfold flush
  rw [withCursor_some _ h]
  split_ifs
  · exact ⟨c.buffer, h, rfl, rfl, rfl, rfl, rfl, Local.refl _ _ _⟩
  · exact ⟨c.buffer.complete c.options, by simp, rfl, rfl, rfl, rfl, rfl,
      (Local.setCursor _ _ _ _).trans (Local.notify _ _ _ _)⟩

theorem flush_local {l : Live} {k : Slot} {p : PortId} (h : ∀ c, l.cursor k = some c → c.owner = p) :
    Local k p l (flush k l) := by
  cases hc : l.cursor k with
  | none => unfold flush; rw [withCursor_none _ hc]; exact Local.refl _ _ _
  | some c =>
    obtain ⟨_, _, _, _, _, _, _, g⟩ := flush_cursor hc
    rw [← h c hc]
    exact g

/-- R97, R155: the front probe's beginning changes the cursor's probes alone, and not their number. -/
theorem kickProbe_cursor (e : Env) {l : Live} {k : Slot} {c : Cursor} (h : l.cursor k = some c) (p : PortId) :
    ∃ ps : List Probe, (kickProbe e k l).cursor k = some { c with probes := ps } ∧ ps.length = c.probes.length ∧
      (kickProbe e k l).ports = l.ports ∧ Local k p l (kickProbe e k l) := by
  unfold kickProbe
  rw [withCursor_some _ h]
  split
  · exact ⟨c.probes, h, rfl, rfl, Local.refl _ _ _⟩
  · rename_i q rest hq
    split_ifs
    · unfold beginProbe
      rw [withCursor_some _ h, hq]
      refine ⟨{ q with work := some (probeStart e q.point (l.checkpoints.choose q.instant).1) } :: rest, by simp,
        by simp, rfl, ?_⟩
      exact (Local.checkpoints k p l _).trans (Local.setCursor k p _ _)
    · exact ⟨c.probes, h, rfl, rfl, Local.refl _ _ _⟩

/-- R89, R91: a rebuild's start, whole. -/
theorem startRebuild_eq (e : Env) {l : Live} {k : Slot} {c : Cursor} (h : l.cursor k = some c) (kind : RebuildKind)
    (target : Nat) :
    startRebuild e k kind target l =
      ({ l with checkpoints := (l.checkpoints.choose target).2 } : Live).setCursor k
        ((c.startRebuild kind target (l.checkpoints.choose target).1).lagTest e) := by
  unfold startRebuild
  rw [withCursor_some _ h]

/-- R89, R91, R98: what a rebuild's start leaves in a cursor, as the statements say it. -/
theorem rebuildBegun_start (t : CheckpointTable) (c : Cursor) (kind : RebuildKind) (target : Nat) (b : Bool) :
    RebuildBegun t kind target (if kind = .rebase then c.overtaken else none)
      { c.startRebuild kind target (t.choose target).1 with lagging := b } :=
  ⟨rfl, rfl, rfl, rfl, rfl, rfl⟩

theorem startRebuild_local (e : Env) (k : Slot) (kind : RebuildKind) (target : Nat) (p : PortId) (l : Live) :
    Local k p l (startRebuild e k kind target l) :=
  Local.withCursor fun _ _ => (Local.checkpoints k p l _).trans (Local.setCursor k p _ _)

theorem startRebase_local (e : Env) (k : Slot) (p : PortId) (l : Live) : Local k p l (startRebase e k l) :=
  Local.withCursor fun _ _ => startRebuild_local e k _ _ p l

/-- The LAGGING test changes LAGGING alone (R170). -/
theorem lagTest_eq (e : Env) (c : Cursor) : ∃ b : Bool, c.lagTest e = { c with lagging := b } := by
  unfold Cursor.lagTest
  split_ifs
  · exact ⟨true, rfl⟩
  · exact ⟨c.lagging, rfl⟩

/-- The LAGGING test is made of RUNNING cursors alone (R170). -/
theorem lagTest_of_ne {e : Env} {c : Cursor} (h : c.state ≠ .running) : c.lagTest e = c := by
  simp [Cursor.lagTest, h]

/-- The LAGGING test is the one the statements name (R170). -/
theorem lagTest_tested (e : Env) (c : Cursor) :
    LagTested e.history.records e.clock.instant c (c.lagTest e).lagging := by
  have hb : c.bound = true ↔ c.options.pacing = .bound := by simp [Cursor.bound]
  have hs : c.stalled = true ↔ c.buffer.waiting ≠ none := by
    cases h : c.buffer.waiting <;> simp [Cursor.stalled, h]
  have hp : c.probing = true ↔ c.probes ≠ [] := by cases h : c.probes <;> simp [Cursor.probing, h]
  have hr : c.rebasing = true ↔ c.op = .rebaseDone ∨ ∃ f, c.op = .rebuild f ∧ f.kind = .rebase := by
    cases h : c.op <;> simp [Cursor.rebasing, h]
  have hq : c.behind e = true ↔ ∃ r ∈ e.history.records, r.time ≤ e.clock.instant ∧
      (c.rebasing = true → c.rebaseTarget < r.time) ∧ (¬c.rebasing = true → keyAfter r.key c.position = true) := by
    cases h : c.rebasing <;> simp [Cursor.behind, h]
  rw [hr] at hq
  have ht : (c.state = .running ∧ c.bound = true ∧ ((c.stalled || c.probing || c.rebasing) = true) ∧
      c.behind e = true) ↔ _ := and_congr Iff.rfl (and_congr hb (and_congr (by
        rw [Bool.or_eq_true, Bool.or_eq_true, hs, hp, hr, or_assoc]) hq))
  show (c.lagTest e).lagging = true ↔ _
  unfold Cursor.lagTest
  split_ifs with h
  · exact ⟨fun _ => .inr (ht.1 h), fun _ => rfl⟩
  · exact ⟨.inl, fun g => g.resolve_right fun x => h (ht.2 x)⟩

/-- The LAGGING test changes LAGGING alone, as the statements name it (R170). -/
theorem lagTest_after (e : Env) (c : Cursor) :
    ∃ b : Bool, c.lagTest e = { c with lagging := b } ∧ LagTested e.history.records e.clock.instant c b := by
  obtain ⟨b, hb⟩ := lagTest_eq e c
  have ht := lagTest_tested e c
  rw [hb] at ht
  exact ⟨b, hb, ht⟩

/-- Who owns the cursor of a slot that an operation has changed and left open. -/
theorem owner_of_grows {l m : Live} {k : Slot} {c d : Cursor} (g : Grows l m) (h : l.cursor k = some c)
    (e : m.cursor k = some d) : d.owner = c.owner := by
  have := g.1 k
  rw [h, e] at this
  simpa using this

theorem flush_local_of {l m : Live} {k : Slot} {c : Cursor} (g : Grows l m) (h : l.cursor k = some c) :
    Local k c.owner m (flush k m) := flush_local fun _ e => owner_of_grows g h e

theorem startSeek_local (e : Env) {k : Slot} {l : Live} {c : Cursor} (h : l.cursor k = some c) (t : Nat) (chain : Bool) :
    Local k c.owner l (startSeek e k t chain l) := by
  have g : Grows l (l.setCursor k
      { c.leaveRunning with state := .seeking, chain := chain, armedFrom := none }) := Grows.setCursor h rfl
  unfold startSeek
  rw [withCursor_some _ h]
  have a := (Local.setCursor k c.owner l
      { c.leaveRunning with state := .seeking, chain := chain, armedFrom := none }).trans
    (startRebuild_local e k .seek t c.owner _)
  dsimp only
  split_ifs
  · exact a
  · exact a.trans (flush_local_of (g.trans (startRebuild_grows e k .seek t _)) h)

theorem beginPlay_local (e : Env) {k : Slot} {l : Live} {c : Cursor} (h : l.cursor k = some c) (u : Bool) (n : Nat) :
    Local k c.owner l (beginPlay e k u n l) := by
  unfold beginPlay
  rw [withCursor_some _ h]
  dsimp only
  split_ifs
  · exact (Local.setCursor k _ l _).trans (startSeek_local e (cursor_setCursor_same _ _ _) _ _)
  · exact (Local.setCursor k _ l _).trans (startRebase_local e k _ _)
  · exact Local.setCursor k _ l _

theorem becomeHeld_local {k : Slot} {l : Live} {c : Cursor} (h : l.cursor k = some c) :
    Local k c.owner l (becomeHeld k l) := by
  unfold becomeHeld
  rw [modify_some _ h]
  refine (Local.setCursor k _ l _).trans (flush_local fun d hd => ?_)
  rw [cursor_setCursor_same] at hd
  cases hd
  rfl

theorem kickProbe_local (e : Env) (k : Slot) (p : PortId) (l : Live) : Local k p l (kickProbe e k l) := by
  cases h : l.cursor k with
  | none => unfold kickProbe; rw [withCursor_none _ h]; exact Local.refl _ _ _
  | some c =>
    obtain ⟨_, _, _, _, g⟩ := kickProbe_cursor e h p
    exact g

theorem atBoundary_local (e : Env) {k : Slot} {l : Live} {c : Cursor} (h : l.cursor k = some c) :
    Local k c.owner l (atBoundary e k l) := by
  unfold atBoundary
  rw [withCursor_some _ h]
  split_ifs
  · exact Local.refl _ _ _
  · exact kickProbe_local e k _ l
  · exact Local.refl _ _ _
  · exact becomeHeld_local h
  · exact startRebase_local e k _ l
  · exact Local.refl _ _ _

/-- A step boundary with no probe, no redo, no hold and no overtaking does nothing (R114). -/
theorem atBoundary_quiet (e : Env) {k : Slot} {l : Live} {c : Cursor} (h : l.cursor k = some c) (hp : c.probes = [])
    (hh : c.pendingHold = none) (hs : c.underStep = false) (ho : c.overtaken = none) : atBoundary e k l = l := by
  unfold atBoundary
  rw [withCursor_some _ h]
  simp [hp, hh, hs, ho]

/-- A cursor that is not RUNNING stands at no step boundary. -/
theorem atBoundary_of_ne (e : Env) {k : Slot} {l : Live} {c : Cursor} (h : l.cursor k = some c)
    (hs : c.state ≠ .running) : atBoundary e k l = l := by
  unfold atBoundary
  rw [withCursor_some _ h]
  simp [hs]

/-- What a step boundary makes of a RUNNING cursor whose probe queue is empty (R114). -/
theorem atBoundary_spec {s : State} {k : Slot} {l : Live} {c : Cursor} (h : l.cursor k = some c)
    (hc : l.checkpoints = s.live.checkpoints) (hr : c.state = .running) (ho : c.op = .none) (hp : c.probes = []) :
    ∃ d, (atBoundary s.env k l).cursor k = some d ∧ AtBoundary s c d := by
  have hh : (c.pendingHold.isSome = true ∨ c.underStep = true ∧ c.stepsLeft = 0) ↔
      (c.pendingHold ≠ none ∨ c.underStep = true ∧ c.stepsLeft = 0) := by
    rw [Option.isSome_iff_ne_none]
  have hv : c.overtaken.isSome = true ↔ c.overtaken ≠ none := Option.isSome_iff_ne_none
  unfold atBoundary
  rw [withCursor_some _ h, if_neg (by simp [hr, ho]), if_neg (by simp [hp])]
  split_ifs with h1 h2 h3
  · exact ⟨c, h, hp, rfl, fun _ => ⟨hr, ho, rfl, rfl, rfl, rfl, rfl, rfl⟩, by simp [h1], by simp [h1]⟩
  · unfold becomeHeld
    rw [modify_some _ h]
    obtain ⟨b, hb, _⟩ := flush_cursor (cursor_setCursor_same l k
      { c.leaveRunning with state := .held, op := .none, pendingHold := none, chain := false })
    have h2 := hh.1 h2
    exact ⟨_, hb, hp, rfl, fun g => absurd h2 (by have := g.resolve_left h1; exact this.1),
      fun _ _ => ⟨rfl, rfl, rfl, rfl, rfl, rfl, rfl, rfl⟩, fun _ g => absurd h2 g⟩
  · unfold startRebase
    rw [withCursor_some _ h, startRebuild_eq s.env h, hc]
    obtain ⟨b, hb, ht⟩ := lagTest_after s.env
      (c.startRebuild .rebase (c.instant.getD 0) (s.live.checkpoints.choose (c.instant.getD 0)).1)
    refine ⟨_, cursor_setCursor_same _ _ _, ?_⟩
    rw [hb]
    have h2 := fun g => h2 (hh.2 g)
    exact ⟨hp, rfl, fun g => absurd ((g.resolve_left h1).2) (hv.1 h3), fun _ g => absurd g h2,
      fun _ _ _ => ⟨hr, rfl, rfl, rebuildBegun_start s.live.checkpoints c .rebase _ b, ht⟩⟩
  · have h2 := fun g => h2 (hh.2 g)
    exact ⟨c, h, hp, rfl, fun _ => ⟨hr, ho, rfl, rfl, rfl, rfl, rfl, rfl⟩, fun _ g => absurd g h2,
      fun _ _ g => absurd (hv.2 g) h3⟩

/-! ### Items -/

/-- R126, R131: the writing of the waiting item changes the buffer and the step's count alone; the item leaves its place. -/
theorem writeWaiting_cursor (e : Env) {l : Live} {k : Slot} {c : Cursor} {plan : ItemPlan} (h : l.cursor k = some c)
    (hw : c.buffer.waiting = some plan) :
    ∃ b : Buffer, (writeWaiting e k l).cursor k = some { c with buffer := b, op := c.op.wrote } ∧ b.waiting = none ∧
      b.nextNumber = (c.buffer.nextNumber + 1) % 65536 ∧ b.refTime = refTimeAfter c.buffer.refTime plan ∧
      (writeWaiting e k l).checkpoints = l.checkpoints ∧ Local k c.owner l (writeWaiting e k l) := by
  have hadd : ∀ o : Options, ∀ y : ItemBody, (c.buffer.add o y).nextNumber = (c.buffer.nextNumber + 1) % 65536 ∧
      (c.buffer.add o y).refTime = c.buffer.refTime := by
    intro o y; unfold Buffer.add; cases o.mode <;> exact ⟨rfl, rfl⟩
  have hs : (l.setCursor k (c.placeItem e plan)).cursor k = some (c.placeItem e plan) := cursor_setCursor_same _ _ _
  unfold writeWaiting
  rw [withCursor_some _ h]
  simp only [hw]
  split_ifs
  · obtain ⟨b, h1, h2, h3, _, h5, h6, h7⟩ := flush_cursor hs
    refine ⟨b, h1, h2, ?_, ?_, h6, (Local.setCursor k _ l _).trans h7⟩
    · rw [h3]; exact (hadd _ _).1
    · rw [h5]; simp only [Cursor.placeItem]; rw [(hadd _ _).2]
  · refine ⟨(c.placeItem e plan).buffer, hs, rfl, (hadd _ _).1, ?_, rfl, Local.setCursor k _ l _⟩
    simp only [Cursor.placeItem]; rw [(hadd _ _).2]

/-- R131: an item with room is written, and the operation goes on. -/
theorem emit_room (e : Env) {l : Live} {k : Slot} {c : Cursor} (h : l.cursor k = some c) (op : Op) (plan : ItemPlan)
    (done : Live → Live) (hr : c.buffer.hasRoom c.options = true) :
    emit e k op plan done l =
      done (writeWaiting e k (l.setCursor k { c with op := op, buffer := { c.buffer with waiting := some plan } })) := by
  unfold emit
  rw [withCursor_some _ h]
  simp [hr]

/-- R131: an item without room waits, and the LAGGING test is made. -/
theorem emit_waits (e : Env) {l : Live} {k : Slot} {c : Cursor} (h : l.cursor k = some c) (op : Op) (plan : ItemPlan)
    (done : Live → Live) (hr : c.buffer.hasRoom c.options = false) :
    emit e k op plan done l =
      lagTest e k (l.setCursor k { c with op := op, buffer := { c.buffer with waiting := some plan } }) := by
  unfold emit
  rw [withCursor_some _ h]
  simp [hr]

end Sys2Proof.Machine
end

