-- ==== Sys2Proof/Laws/Shapes.lean ====
section
/-!
SUPPORT. The words of the statements against the operations: what a port takes, what a merge raises, and the one item that an
operation writes as `Buffer.delivered` and `Buffer.announced` say it.
-/

namespace Sys2Proof.Machine

open Sys2Proof

/-! ### Ports that take notices -/

@[simp] theorem takes_nil (p : Port) : p.takes [] = p := rfl

@[simp] theorem takes_cons (p : Port) (n : Notice) (ns : List Notice) : p.takes (n :: ns) = (p.push n).takes ns := rfl

theorem takes_append (p : Port) (ms ns : List Notice) : p.takes (ms ++ ns) = (p.takes ms).takes ns := by
  simp [Port.takes]

theorem takes_subs (p : Port) (ns : List Notice) : (p.takes ns).subs = p.subs := Pushed.subs ⟨ns, rfl⟩

theorem takes_up (p : Port) (ns : List Notice) : (p.takes ns).up = p.up := Pushed.up ⟨ns, rfl⟩

/-- A notice to one port, as `takes` says it. -/
theorem port_notify_takes (l : Live) (p : PortId) (n : Notice) (q : PortId) :
    (l.notify p n).port q = (l.port q).takes (if p = q then [n] else []) := by
  rw [port_notify]
  split_ifs with h
  · rw [h]; rfl
  · rfl

/-! ### Causes -/

theorem holds_or (a b : CauseSet) (c : Cause) : (a ||| b).holds c = (a.holds c || b.holds c) := by
  simp [CauseSet.holds]

theorem holds_set (a b : Cause) : a.set.holds b = true ↔ b = a := by
  cases a <;> cases b <;> decide

theorem RaisesMore.refl (a : CauseSet) : RaisesMore a a fun _ => False := fun _ => by simp

theorem RaisesMore.one (a : CauseSet) (x : Cause) : RaisesMore a (a ||| x.set) (· = x) := fun c => by
  rw [holds_or, Bool.or_eq_true, holds_set]

theorem RaisesMore.trans {a b d : CauseSet} {p q : Cause → Prop} (h : RaisesMore a b p) (g : RaisesMore b d q) :
    RaisesMore a d fun c => p c ∨ q c := fun c => by
  rw [g c, h c, or_assoc]

/-! ### One item written -/

/-- R126 to R135: the item that waits is written: the buffer and the owner's port as the statements say them. -/
theorem writeWaiting_delivers (e : Env) {l : Live} {k : Slot} {c : Cursor} {plan : ItemPlan} (h : l.cursor k = some c)
    (hw : c.buffer.waiting = some plan) :
    (writeWaiting e k l).cursor k =
        some
          { c with
            op := c.op.wrote
            buffer :=
              { c.buffer.delivered c.options (flushesOn c plan) (renderItem e c plan) with
                refTime := refTimeAfter c.buffer.refTime plan } } ∧
      (writeWaiting e k l).port c.owner =
        (l.port c.owner).takes (c.buffer.announced k c.options (flushesOn c plan) (renderItem e c plan)) := by
  unfold writeWaiting
  rw [withCursor_some _ h]
  simp only [hw]
  have hs : (l.setCursor k (c.placeItem e plan)).cursor k = some (c.placeItem e plan) := cursor_setCursor_same _ _ _
  cases hm : c.options.mode with
  | push =>
      have : (if (batchFull (c.placeItem e plan) || flushesOn c plan) = true then
          flush k (l.setCursor k (c.placeItem e plan)) else l.setCursor k (c.placeItem e plan)) =
            l.setCursor k (c.placeItem e plan) := by
        split_ifs
        · unfold flush
          rw [withCursor_some _ hs]
          simp [Cursor.placeItem, hm]
        · rfl
      rw [this]
      refine ⟨?_, ?_⟩
      · rw [hs]
        simp [Cursor.placeItem, Buffer.add, Buffer.delivered, hm]
      · simp [Buffer.announced, Buffer.completes, hm]
  | notice =>
      have hb : (batchFull (c.placeItem e plan) || flushesOn c plan) = c.buffer.completes c.options (flushesOn c plan) := by
        simp [batchFull, Buffer.completes, Cursor.placeItem, Buffer.add, hm, Bool.or_comm]
      rw [hb]
      cases hc : c.buffer.completes c.options (flushesOn c plan) with
      | false =>
          refine ⟨?_, ?_⟩
          · simp only [Bool.false_eq_true, if_false]
            rw [hs]
            simp [Cursor.placeItem, Buffer.add, Buffer.delivered, hm, hc]
          · simp [Buffer.announced, hc]
      | true =>
          simp only [if_true]
          unfold flush
          rw [withCursor_some _ hs]
          refine ⟨?_, ?_⟩
          · simp [Cursor.placeItem, Buffer.add, Buffer.delivered, Buffer.complete, Buffer.batch, Buffer.batchWith, hm, hc]
            cases c.buffer.writing <;> rfl
          · simp [Cursor.placeItem, Buffer.add, Buffer.announced, Buffer.batch, Buffer.batchWith, hm, hc, port_notify]
            cases c.buffer.writing <;> rfl

/-- R131: an operation writes an item with room: `done` goes on from the item delivered. -/
theorem emit_delivers (e : Env) {l : Live} {k : Slot} {c : Cursor} (h : l.cursor k = some c) (op : Op) (plan : ItemPlan)
    (done : Live → Live) (hr : c.buffer.hasRoom c.options = true) :
    ∃ m : Live, emit e k op plan done l = done m ∧
      m.cursor k =
        some
          { c with
            op := op.wrote
            buffer :=
              { c.buffer.delivered c.options (flushesOn c plan) (renderItem e c plan) with
                refTime := refTimeAfter c.buffer.refTime plan } } ∧
      m.port c.owner =
        (l.port c.owner).takes (c.buffer.announced k c.options (flushesOn c plan) (renderItem e c plan)) ∧
      m.checkpoints = l.checkpoints ∧ Local k c.owner l m := by
  let d : Cursor := { c with op := op, buffer := { c.buffer with waiting := some plan } }
  have hd : (l.setCursor k d).cursor k = some d := cursor_setCursor_same _ _ _
  have hit : renderItem e d plan = renderItem e c plan := by cases plan <;> rfl
  have hfl : flushesOn d plan = flushesOn c plan := by
    cases plan with
    | marker m => cases m <;> rfl
    | record r n => rfl
    | snap p => rfl
  obtain ⟨h1, h2⟩ := writeWaiting_delivers e hd (rfl : d.buffer.waiting = some plan)
  obtain ⟨-, -, -, -, -, h3, h4⟩ := writeWaiting_cursor e hd (rfl : d.buffer.waiting = some plan)
  refine ⟨_, emit_room e h op plan done hr, ?_, ?_, h3, (Local.setCursor k _ l d).trans h4⟩
  · rw [h1, hit, hfl]; rfl
  · rw [show c.owner = d.owner from rfl, h2, hit, hfl]; rfl

end Sys2Proof.Machine
end

