-- ==== Sys2Proof/Laws/Boundaries.lean ====
section
/-!
SUPPORT. Flushes, probe beginnings, step boundaries, signals and the seal as the statements say them, what a marker written
from waiting leads to, the SNAP items of a snapshot, the abandonment of a rebuild, the read again at the head, and the LAGGING
test of an accepted probe (R96, R108, R114 to R117, R120, R122, R123, R131, R134, R154, R156, R170).
-/

namespace Sys2Proof.Machine

open Sys2Proof

/-! ### Flushes (R134) -/

/-- R134, R135: a flush, as the statements say it. -/
theorem flush_flushed {l : Live} {k : Slot} {c : Cursor} (h : l.cursor k = some c) :
    (flush k l).cursor k = some { c with buffer := c.buffer.flushed c.options } ∧
      (flush k l).port c.owner = (l.port c.owner).takes (c.buffer.flushTold k c.options) ∧
      (flush k l).checkpoints = l.checkpoints := by
  unfold flush
  rw [withCursor_some _ h]
  cases hm : c.options.mode with
  | push => simp [Buffer.flushed, Buffer.flushTold, hm, h]
  | notice =>
    by_cases hw : c.buffer.writing = []
    · simp [Buffer.flushed, Buffer.flushTold, hw, h]
    · simp [Buffer.flushed, Buffer.flushTold, hm, hw, Buffer.complete, Buffer.batch, port_notify]

/-- R134: an item delivered and then a flush leave what an item that flushes leaves. -/
theorem delivered_flushed (o : Options) (f : Bool) (x : ItemBody) (b : Buffer) :
    (b.delivered o f x).flushed o = b.delivered o true x := by
  cases hm : o.mode with
  | push => simp [Buffer.flushed, Buffer.delivered, hm]
  | notice =>
    have ht : b.completes o true = true := by simp [Buffer.completes, hm]
    cases hc : b.completes o f with
    | true => simp [Buffer.flushed, Buffer.delivered, hm, hc, ht]
    | false =>
      cases hw : b.writing <;> simp [Buffer.flushed, Buffer.delivered, hm, hc, ht, Buffer.batchWith, hw]

/-- R134, R135: so does what the owner is told. -/
theorem announced_flushed (k : Slot) (o : Options) (f : Bool) (x : ItemBody) (b : Buffer) :
    b.announced k o f x ++ (b.delivered o f x).flushTold k o = b.announced k o true x := by
  cases hm : o.mode with
  | push => simp [Buffer.flushTold, Buffer.announced, Buffer.completes, hm]
  | notice =>
    have ht : b.completes o true = true := by simp [Buffer.completes, hm]
    cases hc : b.completes o f with
    | true => simp [Buffer.flushTold, Buffer.announced, Buffer.delivered, hm, hc, ht]
    | false =>
      cases hw : b.writing <;>
        simp [Buffer.flushTold, Buffer.announced, Buffer.delivered, hm, hc, ht, Buffer.batchWith, hw]

@[simp] theorem delivered_waiting (o : Options) (f : Bool) (x : ItemBody) (b : Buffer) :
    (b.delivered o f x).waiting = none := by
  unfold Buffer.delivered
  dsimp only
  split_ifs <;> rfl

/-- R129: a marker leaves the reference time. -/
theorem delivered_keeps (o : Options) (f : Bool) (x : ItemBody) (b : Buffer) :
    ({ b.delivered o f x with refTime := b.refTime } : Buffer) = b.delivered o f x := by
  unfold Buffer.delivered
  dsimp only
  split_ifs <;> rfl

/-- R131: no item waits once one is delivered. -/
theorem delivered_none_waits (o : Options) (f : Bool) (x : ItemBody) (b : Buffer) :
    ({ b.delivered o f x with waiting := none } : Buffer) = b.delivered o f x := by
  unfold Buffer.delivered
  dsimp only
  split_ifs <;> rfl

/-! ### Probes begin (R97, R155, R156) -/

/-- R97, R155: the front probe of a cursor that lets it begin. -/
theorem kickProbe_begins {s : State} {l : Live} {k : Slot} {c : Cursor} (h : l.cursor k = some c)
    (hc : SameButStamps s.live.checkpoints l.checkpoints) (hb : probesMayBegin c = true) :
    ∃ d, (kickProbe s.env k l).cursor k = some d ∧ d = { c with probes := d.probes } ∧ ProbeBegins s c d ∧
      ProbeChose c l.checkpoints (kickProbe s.env k l).checkpoints := by
  unfold kickProbe
  rw [withCursor_some _ h]
  cases hp : c.probes with
  | nil => exact ⟨c, h, rfl, by simp [ProbeBegins, hp], by simp [ProbeChose, hp]⟩
  | cons q rest =>
    cases hw : q.work with
    | some w =>
      simp only [hw, Option.isNone_some, Bool.false_and, Bool.false_eq_true, if_false]
      exact ⟨c, h, rfl, by simp [ProbeBegins, hp, hw], by simp [ProbeChose, hp, hw]⟩
    | none =>
      simp only [hw, hb, Option.isNone_none, Bool.true_and, if_true]
      unfold beginProbe
      rw [withCursor_some _ h, hp]
      obtain ⟨h1, h2, -⟩ := hc.choose q.instant
      refine ⟨_, cursor_setCursor_same _ _ _, rfl, ?_, ?_⟩
      · simp only [ProbeBegins, hp, probeStart, h1, h2, hw]
        exact ⟨fun g => absurd rfl g, fun _ => rfl⟩
      · simp [ProbeChose, hp, hw]

/-! ### Step boundaries (R114) -/

/-- R114: what a step boundary makes of a RUNNING cursor, as the statements say it. -/
theorem atBoundary_comes {s t : State} {l : Live} {k : Slot} {c : Cursor} (h : l.cursor k = some c)
    (hc : l.checkpoints = s.live.checkpoints) (hr : c.state = .running) (ho : c.op = .none)
    (ht : t.live.checkpoints = (atBoundary s.env k l).checkpoints) :
    ∃ d, (atBoundary s.env k l).cursor k = some d ∧ ComesToBoundary s t c d ∧ (c.chain = false → d.chain = false) := by
  by_cases hp : c.probes = []
  · obtain ⟨d, hd, hB⟩ := atBoundary_spec h hc hr ho hp
    have join : ∀ {p q : Prop}, (p ∧ q) → (p → ComesToBoundary s t c d) → ComesToBoundary s t c d ∧ q :=
      fun h f => ⟨f h.1, h.2⟩
    refine ⟨d, hd, join ?_ fun g => ⟨fun g => absurd hp g, fun _ => ⟨hB, g⟩⟩⟩
    have hh : (c.pendingHold.isSome = true ∨ c.underStep = true ∧ c.stepsLeft = 0) ↔
        (c.pendingHold ≠ none ∨ c.underStep = true ∧ c.stepsLeft = 0) := by rw [Option.isSome_iff_ne_none]
    have hv : c.overtaken.isSome = true ↔ c.overtaken ≠ none := Option.isSome_iff_ne_none
    have hl : atBoundary s.env k l =
        if c.redo = true then l
        else if c.pendingHold.isSome = true ∨ c.underStep = true ∧ c.stepsLeft = 0 then becomeHeld k l
        else if c.overtaken.isSome = true then startRebase s.env k l else l := by
      unfold atBoundary
      rw [withCursor_some _ h, if_neg (by simp [hr, ho]), if_neg (by simp [hp])]
    rw [ht]
    rw [hl] at hd ⊢
    split_ifs at hd ⊢ with h1 h2 h3
    · rw [h] at hd
      cases hd
      exact ⟨⟨fun g => absurd g.1 (by simp [h1]), fun g => absurd g.1 (by simp [h1]), fun _ => hc, fun _ _ => rfl⟩, id⟩
    · have h1 : c.redo = false := by simpa using h1
      have hheld := hh.1 h2
      unfold becomeHeld at hd ⊢
      rw [modify_some _ h] at hd ⊢
      obtain ⟨g1, -, g3⟩ := flush_flushed (cursor_setCursor_same l k
        { c.leaveRunning with state := .held, op := .none, pendingHold := none, chain := false })
      rw [g1] at hd
      cases hd
      exact ⟨⟨fun _ => rfl, fun g => absurd ⟨h1, hheld⟩ g.2.1, fun _ => by rw [g3]; exact hc,
        fun g => absurd ⟨h1, hheld⟩ g⟩, fun _ => rfl⟩
    · have h1 : c.redo = false := by simpa using h1
      have hn : ¬(c.redo = false ∧ (c.pendingHold ≠ none ∨ c.underStep = true ∧ c.stepsLeft = 0)) :=
        fun g => h2 (hh.2 g.2)
      unfold startRebase at hd ⊢
      rw [withCursor_some _ h, startRebuild_eq s.env h] at hd ⊢
      obtain ⟨b, hb⟩ := lagTest_eq s.env
        (c.startRebuild .rebase (c.instant.getD 0) (l.checkpoints.choose (c.instant.getD 0)).1)
      rw [hb] at hd
      rw [cursor_setCursor_same] at hd
      cases hd
      exact ⟨⟨fun g => absurd g hn, fun _ => ⟨rfl, by rw [checkpoints_setCursor, hc]⟩,
        fun g => absurd ⟨h1, hn, hv.1 h3⟩ g, fun _ g => absurd ⟨h1, hn, hv.1 h3⟩ g⟩, id⟩
    · have hn : ¬(c.redo = false ∧ (c.pendingHold ≠ none ∨ c.underStep = true ∧ c.stepsLeft = 0)) :=
        fun g => h2 (hh.2 g.2)
      rw [h] at hd
      cases hd
      exact ⟨⟨fun g => absurd g hn, fun g => absurd (hv.2 g.2.2) h3, fun _ => hc, fun _ _ => rfl⟩, id⟩
  · have hl : atBoundary s.env k l = kickProbe s.env k l := by
      unfold atBoundary
      rw [withCursor_some _ h, if_neg (by simp [hr, ho]), if_pos (by simpa using hp)]
    rw [hl] at ht ⊢
    obtain ⟨d, g1, g2, g3, g4⟩ := kickProbe_begins (s := s) h (fun i => by rw [hc]) (by simp [probesMayBegin, hr, ho])
    exact ⟨d, g1, ⟨fun _ => ⟨g2, g3, by rw [ht, ← hc]; exact g4⟩, fun g => absurd g hp⟩, fun g => by rw [g2]; exact g⟩

/-! ### Triggers and signals (R119, R120) -/

theorem flush_checkpoints (k : Slot) (l : Live) : (flush k l).checkpoints = l.checkpoints := by
  cases h : l.cursor k with
  | none => unfold flush; rw [withCursor_none _ h]
  | some c => exact (flush_flushed h).2.2

theorem startRebuild_stamps (e : Env) (k : Slot) (kind : RebuildKind) (target : Nat) (l : Live) :
    SameButStamps l.checkpoints (startRebuild e k kind target l).checkpoints := by
  cases h : l.cursor k with
  | none => unfold startRebuild; rw [withCursor_none _ h]; exact SameButStamps.refl _
  | some c =>
    rw [startRebuild_eq e h]
    exact choose_sameButStamps _ _

theorem startSeek_stamps (e : Env) (k : Slot) (t : Nat) (chain : Bool) (l : Live) :
    SameButStamps l.checkpoints (startSeek e k t chain l).checkpoints := by
  cases h : l.cursor k with
  | none => unfold startSeek; rw [withCursor_none _ h]; exact SameButStamps.refl _
  | some c =>
    unfold startSeek
    rw [withCursor_some _ h]
    dsimp only
    have := startRebuild_stamps e k .seek t
      (l.setCursor k { c.leaveRunning with state := .seeking, chain := chain, armedFrom := none })
    split_ifs
    · exact this
    · rw [flush_checkpoints]; exact this

theorem beginPlay_stamps (e : Env) (k : Slot) (u : Bool) (n : Nat) (l : Live) :
    SameButStamps l.checkpoints (beginPlay e k u n l).checkpoints := by
  cases h : l.cursor k with
  | none => unfold beginPlay; rw [withCursor_none _ h]; exact SameButStamps.refl _
  | some c =>
    unfold beginPlay
    rw [withCursor_some _ h]
    dsimp only
    split_ifs
    · exact startSeek_stamps e k _ _ (l.setCursor k _)
    · unfold startRebase
      rw [withCursor_some _ (cursor_setCursor_same _ _ _)]
      exact startRebuild_stamps e k .rebase _ (l.setCursor k _)
    · exact SameButStamps.refl _

theorem notifyState_checkpoints (k : Slot) (cause : StateCause) (l : Live) :
    (notifyState k cause l).checkpoints = l.checkpoints := by
  unfold notifyState Live.withCursor
  split <;> simp

@[simp] theorem cursor_notifyState (k j : Slot) (cause : StateCause) (l : Live) :
    (notifyState k cause l).cursor j = l.cursor j := by
  unfold notifyState Live.withCursor
  split <;> simp

/-- R119: a trigger chooses, and changes the Checkpoint Table in nothing else. -/
theorem trigger_stamps (e : Env) (k : Slot) (l : Live) :
    SameButStamps l.checkpoints (trigger e k l).checkpoints := by
  cases h : l.cursor k with
  | none => unfold trigger; rw [withCursor_none _ h]; exact SameButStamps.refl _
  | some c =>
    unfold trigger
    rw [withCursor_some _ h]
    split_ifs
    · rw [notifyState_checkpoints]
      unfold triggerAction
      split_ifs
      · exact beginPlay_stamps _ _ _ _ _
      · exact startSeek_stamps e k _ _ (l.setCursor k _)
      · exact startSeek_stamps _ _ _ _ _
    · exact SameButStamps.refl _

/-- R119: a trigger reaches the cursor of its slot alone. -/
theorem trigger_others (e : Env) {k j : Slot} (h : j ≠ k) (l : Live) : (trigger e k l).cursor j = l.cursor j := by
  cases hc : l.cursor k with
  | none => unfold trigger; rw [withCursor_none _ hc]
  | some c =>
    unfold trigger
    rw [withCursor_some _ hc]
    split_ifs
    · rw [cursor_notifyState]
      unfold triggerAction
      split_ifs
      · exact (beginPlay_local e hc _ _).1 j h
      · rw [(startSeek_local e (cursor_setCursor_same l k { c with trailFrozen := false }) _ _).1 j h,
          cursor_setCursor_ne _ _ (Ne.symm h)]
      · exact (startSeek_local e hc _ _).1 j h
    · rfl

/-- R119: a cursor that is not ARMED takes no trigger. -/
theorem trigger_of_ne (e : Env) {k : Slot} {l : Live} {c : Cursor} (h : l.cursor k = some c) (hs : c.state ≠ .armed) :
    trigger e k l = l := by
  unfold trigger
  rw [withCursor_some _ h, if_neg hs]

/-- R107, R109, R119, R171: what the start of a seek leaves in its cursor: the rebuild, the chain flag, and a flush where
the cursor was not SEEKING already. -/
theorem startSeek_cursor (e : Env) {k : Slot} {l : Live} {c : Cursor} (h : l.cursor k = some c) (t : Nat) (chain : Bool) :
    ∃ d, (startSeek e k t chain l).cursor k = some d ∧ RebuildBegun l.checkpoints .seek t none d ∧
      d.state = .seeking ∧ d.chain = chain ∧ d.armedFrom = none ∧ d.owner = c.owner ∧ d.options = c.options ∧
      d.watches = c.watches ∧ d.probes = c.probes ∧ d.instant = c.instant ∧ d.trailFrozen = c.trailFrozen ∧
      d.pendingHold = c.pendingHold ∧ d.stepsLeft = 0 ∧ d.lagging = false ∧ d.waiting = false ∧
      d.buffer = (if c.state = .seeking then { c.buffer with waiting := none }
        else ({ c.buffer with waiting := none } : Buffer).flushed c.options) ∧
      (startSeek e k t chain l).checkpoints = (l.checkpoints.choose t).2 ∧
      (startSeek e k t chain l).port c.owner =
        (l.port c.owner).takes
          (if c.state = .seeking then [] else ({ c.buffer with waiting := none } : Buffer).flushTold k c.options) := by
  let m : Cursor := { c.leaveRunning with state := .seeking, chain := chain, armedFrom := none }
  let d : Cursor := m.startRebuild .seek t (l.checkpoints.choose t).1
  have hm : (l.setCursor k m).cursor k = some m := cursor_setCursor_same _ _ _
  have hd : startRebuild e k .seek t (l.setCursor k m) =
      ({ l.setCursor k m with checkpoints := (l.checkpoints.choose t).2 } : Live).setCursor k d := by
    rw [startRebuild_eq e hm, lagTest_of_ne (by simp [Cursor.startRebuild, m])]
    rfl
  have hB := rebuildBegun_start l.checkpoints m .seek t false
  have hl : startSeek e k t chain l =
      if c.state = .seeking then startRebuild e k .seek t (l.setCursor k m)
      else flush k (startRebuild e k .seek t (l.setCursor k m)) := by
    unfold startSeek
    rw [withCursor_some _ h]
  rw [hl, hd]
  split_ifs with hs
  · exact ⟨d, cursor_setCursor_same _ _ _, hB, rfl, rfl, rfl, rfl, rfl, rfl, rfl, rfl, rfl, rfl, rfl, rfl, rfl, rfl,
      rfl, rfl⟩
  · obtain ⟨g1, g2, g3⟩ := flush_flushed (cursor_setCursor_same
      ({ l.setCursor k m with checkpoints := (l.checkpoints.choose t).2 } : Live) k d)
    exact ⟨_, g1, hB, rfl, rfl, rfl, rfl, rfl, rfl, rfl, rfl, rfl, rfl, rfl, rfl, rfl, rfl, g3, g2⟩

/-- R119, R122, R172: a trigger, as the statements say it. -/
theorem trigger_triggered {s : State} {e : Env} {k : Slot} {l : Live} {c : Cursor} (he : e.history = s.history)
    (hl : l.checkpoints = s.live.checkpoints) (h : l.cursor k = some c) (hs : c.state = .armed) :
    ∃ d, (trigger e k l).cursor k = some d ∧ Triggered s e.clock.instant c d := by
  have hb : c.bound = true ↔ c.options.pacing = .bound := by simp [Cursor.bound]
  have seeks : ∀ (m : Live) (x : Cursor) (t : Nat), triggerTarget e.clock.instant c = some t → m.cursor k = some x →
      m.checkpoints = l.checkpoints → x.owner = c.owner → x.options = c.options → x.watches = c.watches →
      x.probes = c.probes → x.instant = c.instant →
      ∃ d, (startSeek e k t true m).cursor k = some d ∧ Triggered s e.clock.instant c d := by
    intro m x t ht hx hm h1 h2 h3 h4 h5
    obtain ⟨d, g0, g1, g2, g3, g4, g5, g6, g7, g8, g9, -⟩ := startSeek_cursor e hx t true
    rw [hm, hl] at g1
    exact ⟨d, g0, g5.trans h1, g6.trans h2, g7.trans h3, g8.trans h4, g4, g9.trans h5,
      fun y hy => by rw [ht] at hy; cases hy; exact ⟨g2, g3, g1⟩, fun hn => absurd hn (by rw [ht]; simp)⟩
  unfold trigger
  rw [withCursor_some _ h, if_pos hs]
  simp only [cursor_notifyState]
  unfold triggerAction
  split_ifs with h1 h2
  · have hn : ¬(c.bound = true ∧ c.instant ≠ some e.clock.instant) → triggerTarget e.clock.instant c = none := by
      intro g
      cases hp : c.options.pacing with
      | bound => simp [triggerTarget, hp, h1.1, not_not.1 fun x => g ⟨hb.2 hp, x⟩]
      | freeRun => simp [triggerTarget, hp, h1.1, h1.2.resolve_left fun x => by simp [hb.1 x] at hp]
    have stays : ¬(c.bound = true ∧ c.instant ≠ some e.clock.instant) → ∀ {p : Nat → Prop} (y : Nat),
        triggerTarget e.clock.instant c = some y → p y := fun g _ y hy => absurd hy (by simp [hn g])
    unfold beginPlay
    rw [withCursor_some _ h]
    dsimp only
    split_ifs with h3 h4
    · have hp := hb.1 h3.1
      exact seeks _ _ _ (by simp [triggerTarget, hp, h3.2]) (cursor_setCursor_same _ _ _) rfl rfl rfl rfl rfl rfl
    · unfold startRebase
      rw [withCursor_some _ (cursor_setCursor_same _ _ _), startRebuild_eq e (cursor_setCursor_same _ _ _)]
      let x : Cursor := { c with
        trailFrozen := false, armedFrom := none, state := .running, op := .none, stepsLeft := 0, underStep := false
        parked := false, redo := false }
      obtain ⟨b, hb', ht⟩ := lagTest_after e (x.startRebuild .rebase (c.instant.getD 0)
        (l.checkpoints.choose (c.instant.getD 0)).1)
      refine ⟨_, cursor_setCursor_same _ _ _, ?_⟩
      show Triggered s e.clock.instant c ((x.startRebuild .rebase (c.instant.getD 0)
        (l.checkpoints.choose (c.instant.getD 0)).1).lagTest e)
      rw [hb']
      rw [hl] at ht ⊢
      rw [he] at ht
      exact ⟨rfl, rfl, rfl, rfl, rfl, rfl, stays h3, fun _ => ⟨rfl, rfl, rfl, rfl,
        fun g => by simp [g] at h4, fun _ => ⟨rebuildBegun_start s.live.checkpoints x .rebase _ b, ht⟩⟩⟩
    · have ho : c.overtaken = none := by simpa using h4
      exact ⟨_, cursor_setCursor_same _ _ _, rfl, rfl, rfl, rfl, rfl, rfl, stays h3,
        fun _ => ⟨rfl, rfl, rfl, ho, fun _ => ⟨rfl, rfl, rfl, rfl, rfl, rfl⟩, fun g => absurd ho g⟩⟩
  · have hp := hb.1 h2
    have hf : c.armedFrom ≠ some .held := fun g => h1 ⟨g, .inl h2⟩
    exact seeks _ _ _ (by simp [triggerTarget, hp, hf]) (cursor_setCursor_same _ _ _) rfl rfl rfl rfl rfl rfl
  · have hp : c.options.pacing = .freeRun := by
      cases hp : c.options.pacing with
      | bound => exact absurd (hb.2 hp) h2
      | freeRun => rfl
    have hf : ¬(c.armedFrom = some .held ∧ c.options.action = .play) := fun g => h1 ⟨g.1, .inr g.2⟩
    exact seeks _ _ _ (by simp [triggerTarget, hp, hf]) h rfl rfl rfl rfl rfl rfl

/-- R84, R91, R119: the choice that a trigger makes. -/
theorem trigger_chooses (e : Env) {k : Slot} {l : Live} {c : Cursor} (h : l.cursor k = some c) (hs : c.state = .armed) :
    (trigger e k l).checkpoints =
      (triggerRebuild e.clock.instant c).elim l.checkpoints fun x => (l.checkpoints.choose x).2 := by
  have hb : c.bound = true ↔ c.options.pacing = .bound := by simp [Cursor.bound]
  have seeks : ∀ (m : Live) (x : Cursor) (t : Nat), m.cursor k = some x → m.checkpoints = l.checkpoints →
      triggerTarget e.clock.instant c = some t → (startSeek e k t true m).checkpoints =
        (triggerRebuild e.clock.instant c).elim l.checkpoints fun x => (l.checkpoints.choose x).2 := by
    intro m x t hx hm ht
    obtain ⟨_, _, _, _, _, _, _, _, _, _, _, _, _, _, _, _, _, g, _⟩ := startSeek_cursor e hx t true
    rw [g, hm]
    simp [triggerRebuild, ht]
  unfold trigger
  rw [withCursor_some _ h, if_pos hs, notifyState_checkpoints]
  unfold triggerAction
  split_ifs with h1 h2
  · have hn : ¬(c.bound = true ∧ c.instant ≠ some e.clock.instant) → triggerTarget e.clock.instant c = none := by
      intro g
      cases hp : c.options.pacing with
      | bound => simp [triggerTarget, hp, h1.1, not_not.1 fun x => g ⟨hb.2 hp, x⟩]
      | freeRun => simp [triggerTarget, hp, h1.1, h1.2.resolve_left fun x => by simp [hb.1 x] at hp]
    unfold beginPlay
    rw [withCursor_some _ h]
    dsimp only
    split_ifs with h3 h4
    · have hp := hb.1 h3.1
      exact seeks _ _ _ (cursor_setCursor_same _ _ _) rfl (by simp [triggerTarget, hp, h3.2])
    · unfold startRebase
      rw [withCursor_some _ (cursor_setCursor_same _ _ _), startRebuild_eq e (cursor_setCursor_same _ _ _)]
      have : c.overtaken ≠ none := by simpa [Option.isSome_iff_ne_none] using h4
      simp [triggerRebuild, hn h3, this]
    · have : c.overtaken = none := by simpa using h4
      simp [triggerRebuild, hn h3, this]
  · have hp := hb.1 h2
    have hf : c.armedFrom ≠ some .held := fun g => h1 ⟨g, .inl h2⟩
    exact seeks _ _ _ (cursor_setCursor_same _ _ _) rfl (by simp [triggerTarget, hp, hf])
  · have hp : c.options.pacing = .freeRun := by
      cases hp : c.options.pacing with
      | bound => exact absurd (hb.2 hp) h2
      | freeRun => rfl
    have hf : ¬(c.armedFrom = some .held ∧ c.options.action = .play) := fun g => h1 ⟨g.1, .inr g.2⟩
    exact seeks _ _ _ h rfl (by simp [triggerTarget, hp, hf])

/-- R84, R171, R173: the target of the choice that a CLOCK_SET to the instant `t` makes for a cursor. -/
def clockSetTarget (before t : Nat) (c : Cursor) : Option Nat :=
  if c.options.pacing = .bound ∧ (c.state = .running ∨ c.state = .seeking ∧ c.chain = true) then some t
  else if
    c.state = .armed ∧ c.options.source = .clockMark ∧ before < c.options.windowStart ∧ c.options.windowStart ≤ t
  then triggerRebuild t c
  else none

/-- R124, R134, R171: the notices of the re-seek of a RUNNING cursor. -/
theorem reseek_port (e : Env) {k : Slot} {l : Live} {c : Cursor} (h : l.cursor k = some c) (hs : c.state = .running) :
    (reseek e k l).port c.owner =
      (l.port c.owner).takes
        (({ c.buffer with waiting := none } : Buffer).flushTold k c.options ++
          [Notice.cursorState k .seeking .clockSet c.instant]) := by
  unfold reseek
  rw [withCursor_some _ h]
  dsimp only
  obtain ⟨d, g0, -, g2, -, -, g5, -, -, -, g9, -, -, -, -, -, -, -, g17⟩ :=
    startSeek_cursor e (cursor_setCursor_same l k { c with pendingHold := none }) e.clock.instant c.pendingHold.isNone
  rw [if_pos hs]
  unfold notifyState
  rw [withCursor_some _ g0, takes_append, port_notify, if_pos g5, g5, g2, g9]
  have : ({ c with pendingHold := none } : Cursor).state ≠ .seeking := by simp [hs]
  rw [g17, if_neg this]
  rfl

/-- R84, R91, R171, R173: the choice that a CLOCK_SET makes for a cursor that it reaches. -/
theorem clockSetReaches_chooses (e : Env) (before : Nat) {k : Slot} {l : Live} {c : Cursor} (h : l.cursor k = some c)
    (hr : (reseeks c || marked before e.clock.instant c) = true) :
    (clockSetReaches e k l).checkpoints =
      (clockSetTarget before e.clock.instant c).elim l.checkpoints fun x => (l.checkpoints.choose x).2 := by
  unfold clockSetReaches
  rw [withCursor_some _ h]
  have hb : c.bound = true ↔ c.options.pacing = .bound := by simp [Cursor.bound]
  have hrs : reseeks c = true ↔
      c.options.pacing = .bound ∧ (c.state = .running ∨ c.state = .seeking ∧ c.chain = true) := by
    simp [reseeks, hb]
  split_ifs with h1
  · unfold reseek
    rw [withCursor_some _ h]
    dsimp only
    obtain ⟨_, _, _, _, _, _, _, _, _, _, _, _, _, _, _, _, _, g16, _⟩ :=
      startSeek_cursor e (cursor_setCursor_same l k { c with pendingHold := none }) e.clock.instant c.pendingHold.isNone
    have : clockSetTarget before e.clock.instant c = some e.clock.instant := by rw [clockSetTarget, if_pos (hrs.1 h1)]
    split_ifs
    · rw [notifyState_checkpoints, g16, this]; rfl
    · rw [g16, this]; rfl
  · have hm : marked before e.clock.instant c = true := by simpa [h1] using hr
    have hm' : c.state = .armed ∧ c.options.source = .clockMark ∧ before < c.options.windowStart ∧
        c.options.windowStart ≤ e.clock.instant := by simpa [marked, and_assoc] using hm
    rw [trigger_chooses e h hm'.1, clockSetTarget, if_neg (fun g => h1 (hrs.2 g)), if_pos hm']

/-- R171, R173: a CLOCK_SET's event at one cursor touches no other. -/
theorem clockSetReaches_others (e : Env) {k j : Slot} (hj : j ≠ k) {l : Live} {c : Cursor} (h : l.cursor k = some c) :
    (clockSetReaches e k l).cursor j = l.cursor j := by
  unfold clockSetReaches
  rw [withCursor_some _ h]
  split_ifs
  · unfold reseek
    rw [withCursor_some _ h]
    have := (startSeek_local e (cursor_setCursor_same l k { c with pendingHold := none }) e.clock.instant
      c.pendingHold.isNone).1 j hj
    dsimp only
    split_ifs
    · rw [cursor_notifyState, this, cursor_setCursor_ne _ _ (Ne.symm hj)]
    · rw [this, cursor_setCursor_ne _ _ (Ne.symm hj)]
  · exact trigger_others e hj l

/-- A cursor that a trigger has started. -/
def Started (y : Cursor) : Prop := (y.state = .seeking ∨ y.state = .running) ∧ y.armedFrom = none

/-- R119: an ARMED cursor that takes a trigger is started. -/
theorem trigger_starts (e : Env) {k : Slot} {l : Live} {c : Cursor} (h : l.cursor k = some c) (hs : c.state = .armed) :
    ∃ y, (trigger e k l).cursor k = some y ∧ Started y := by
  obtain ⟨d, d1, -, -, -, -, d2, -, d3, d4⟩ :=
    trigger_triggered (s := { State.reset with history := e.history, live := l }) rfl rfl h hs
  refine ⟨d, d1, ?_, d2⟩
  cases ht : triggerTarget e.clock.instant c with
  | none => exact .inr (d4 ht).1
  | some x => exact .inl (d3 x ht).1

/-- R120: triggers in any order start each ARMED cursor among their slots, and touch no other. -/
theorem foldl_trigger (e : Env) (ks : List Slot) (l : Live) (j : Slot) :
    (∀ y, l.cursor j = some y → y.state ≠ .armed → (ks.foldl (fun m k => trigger e k m) l).cursor j = some y) ∧
      (j ∉ ks → (ks.foldl (fun m k => trigger e k m) l).cursor j = l.cursor j) ∧
      ∀ x, l.cursor j = some x → x.state = .armed → j ∈ ks →
        ∃ y, (ks.foldl (fun m k => trigger e k m) l).cursor j = some y ∧ Started y := by
  induction ks generalizing l with
  | nil => exact ⟨fun y h _ => h, fun _ => rfl, fun _ _ _ h => absurd h (by simp)⟩
  | cons k ks ih =>
    obtain ⟨i1, i2, i3⟩ := ih (trigger e k l)
    simp only [List.foldl_cons]
    by_cases hk : j = k
    · subst hk
      refine ⟨fun y h g => ?_, fun h => absurd (List.mem_cons_self) h, fun x h g _ => ?_⟩
      · exact i1 y (by rw [trigger_of_ne e h g, h]) g
      · obtain ⟨y, h1, h2⟩ := trigger_starts e h g
        refine ⟨y, i1 y h1 ?_, h2⟩
        rcases h2.1 with h2 | h2 <;> simp [h2]
    · have ht := trigger_others e hk l
      refine ⟨fun y h g => i1 y (by rw [ht, h]) g, fun h => ?_, fun x h g m => ?_⟩
      · rw [i2 fun m => h (List.mem_cons_of_mem _ m), ht]
      · exact i3 x (by rw [ht, h]) g ((List.mem_cons.1 m).resolve_left hk)

theorem foldl_trigger_stamps (e : Env) (ks : List Slot) (l : Live) :
    SameButStamps l.checkpoints (ks.foldl (fun m k => trigger e k m) l).checkpoints := by
  induction ks generalizing l with
  | nil => exact SameButStamps.refl _
  | cons k ks ih => exact (trigger_stamps e k l).trans (ih _)

/-- A free order of triggers is a list of them in some order (log 5). -/
theorem inFreeOrder_triggers (e : Env) (ks : List Slot) (l : Live) :
    ∃ (order : List Slot) (n : Nat), (∀ k, k ∈ order ↔ k ∈ ks) ∧
      inFreeOrder ks (trigger e) l = order.foldl (fun m k => trigger e k m) { l with draws := n } := by
  unfold inFreeOrder
  split
  · exact ⟨[], l.draws, by simp, rfl⟩
  · exact ⟨_, l.draws, fun _ => Iff.rfl, rfl⟩
  · exact ⟨_, l.draws + 1, fun k => (reorder_perm _ _).mem_iff, rfl⟩

/-- R120: a cursor's signal starts every cursor that waits for it, touches no other, and leaves the Checkpoint Table as
it was but for use stamps. -/
theorem signalFrom_signals (e : Env) (k : Slot) (l : Live) :
    (∀ j x, l.cursor j = some x → Awaits k x → ∃ y, (signalFrom e k l).cursor j = some y ∧ Started y) ∧
      (∀ j x, l.cursor j = some x → ¬Awaits k x → (signalFrom e k l).cursor j = some x) ∧
      SameButStamps l.checkpoints (signalFrom e k l).checkpoints := by
  obtain ⟨order, n, ho, h⟩ := inFreeOrder_triggers e (l.slotsWhere (armedFor (.cursor k))) l
  have hm : ∀ j x, l.cursor j = some x → (j ∈ order ↔ Awaits k x) := by
    intro j x hx
    have ha : j ∈ allSlots := by fin_cases j <;> decide
    rw [ho, Live.slotsWhere, List.mem_filter, hx]
    simp [armedFor, Awaits, ha]
  unfold signalFrom triggerEvent
  rw [h]
  refine ⟨fun j x hx hw => ?_, fun j x hx hw => ?_, foldl_trigger_stamps e order { l with draws := n }⟩
  · exact (foldl_trigger e order { l with draws := n } j).2.2 x hx hw.1 ((hm j x hx).2 hw)
  · rw [(foldl_trigger e order { l with draws := n } j).2.1 fun g => hw ((hm j x hx).1 g)]
    exact hx

/-! ### The end of a pass and the seal (R115 to R117) -/

/-- Two states of the part's cursors that differ at one slot alone. -/
def SameBut (k : Slot) (s : State) (l : Live) : Prop := ∀ j : Slot, j ≠ k → l.cursor j = s.live.cursor j

/-- R115, R120, R156: what a cursor becomes once its END is written: ENDED with a flush; its signal starts the cursors that
wait for it, and then its front probe begins (log 49). -/
theorem becomeEnded_ends {s t : State} {l : Live} {k : Slot} {c : Cursor} (cause : StateCause)
    (h : l.cursor k = some c) (hc : SameButStamps s.live.checkpoints l.checkpoints) (hs : SameBut k s l)
    (hk : ∀ b, s.live.cursor k = some b → b.state ≠ .armed)
    (ht : ∀ j, t.live.cursor j = (becomeEnded s.env k cause l).cursor j) :
    ∃ d, (becomeEnded s.env k cause l).cursor k = some d ∧
      d = { c.leaveRunning with
            state := .ended, op := .none, pendingHold := none, applied := false
            buffer := c.buffer.flushed c.options, probes := d.probes } ∧
      ProbeBegins s c d ∧ Signalled k s t := by
  let a : Cursor := { c.leaveRunning with state := .ended, op := .none, pendingHold := none, applied := false }
  let b : Cursor := { a with buffer := c.buffer.flushed c.options }
  let n : Live := notifyState k cause (flush k (l.setCursor k a))
  have hl : becomeEnded s.env k cause l = kickProbe s.env k (signalFrom s.env k n) := by
    unfold becomeEnded
    rw [modify_some _ h]
  obtain ⟨f1, -, f3⟩ := flush_flushed (cursor_setCursor_same l k a)
  have hn : n.cursor k = some b := by rw [cursor_notifyState]; exact f1
  have hnc : n.checkpoints = l.checkpoints := by rw [notifyState_checkpoints, f3, checkpoints_setCursor]
  have hno : SameBut k s n := fun j hj => by
    rw [cursor_notifyState, (flush_local (p := c.owner) fun x hx => by
      rw [cursor_setCursor_same] at hx; cases hx; rfl).1 j hj, cursor_setCursor_ne _ _ (Ne.symm hj), hs j hj]
  obtain ⟨s1, s2, s3⟩ := signalFrom_signals s.env k n
  have hb : ¬Awaits k b := fun g => by have := g.1; simp [b, a] at this
  obtain ⟨d, d1, d2, d3, -⟩ := kickProbe_begins (s := s) (s2 k b hn hb)
    (hc.trans (hnc ▸ s3)) (by simp [probesMayBegin, b, a])
  rw [hl] at ht ⊢
  refine ⟨d, d1, d2, d3, fun j x hx hw => ?_⟩
  by_cases hj : j = k
  · subst hj
    exact absurd hw.1 (hk x hx)
  · obtain ⟨y, y1, y2⟩ := s1 j x (by rw [hno j hj, hx]) hw
    refine ⟨y, ?_, y2⟩
    rw [ht j, (kickProbe_local s.env k c.owner _).1 j hj, y1]

/-- R116: the start of a wrap rebuild. -/
theorem startWrap_begins (e : Env) {k : Slot} {l : Live} {c : Cursor} (h : l.cursor k = some c) :
    ∃ d, (startWrap e k l).cursor k = some d ∧ RebuildBegun l.checkpoints .wrap c.options.windowStart none d ∧
      d.state = c.state ∧ d.atHead = false ∧ d.stepsLeft = c.stepsLeft ∧ d.probes = c.probes ∧
      d.buffer = { c.buffer with waiting := none } ∧
      (startWrap e k l).checkpoints = (l.checkpoints.choose c.options.windowStart).2 := by
  unfold startWrap
  rw [withCursor_some _ h, startRebuild_eq e h]
  obtain ⟨b, hb⟩ := lagTest_eq e (c.startRebuild .wrap c.options.windowStart (l.checkpoints.choose c.options.windowStart).1)
  rw [hb]
  exact ⟨_, cursor_setCursor_same _ _ _, rebuildBegun_start l.checkpoints c .wrap _ b, rfl, rfl, rfl, rfl, rfl, rfl⟩

/-- R131: an item without room waits, as the statements say it. -/
theorem emit_stalls {s : State} {l : Live} {k : Slot} {c : Cursor} (h : l.cursor k = some c) (op : Op) (plan : ItemPlan)
    (done : Live → Live) (hr : c.buffer.hasRoom c.options = false) :
    ∃ d, (emit s.env k op plan done l).cursor k = some d ∧
      Stalls s { c with op := op, buffer := { c.buffer with waiting := some plan } } d := by
  rw [emit_waits s.env h op plan done hr]
  unfold lagTest
  rw [modify_some _ (cursor_setCursor_same _ _ _)]
  refine ⟨_, cursor_setCursor_same _ _ _, lagTest_tested s.env _, ?_⟩
  obtain ⟨b, hb⟩ := lagTest_eq s.env { c with op := op, buffer := { c.buffer with waiting := some plan } }
  rw [hb]

/-- R131: an item without room waits, and the event changes nothing but its cursor. -/
theorem emit_stalls_keeps (e : Env) {l : Live} {k : Slot} {c : Cursor} (h : l.cursor k = some c) (op : Op)
    (plan : ItemPlan) (done : Live → Live) (hr : c.buffer.hasRoom c.options = false) :
    (emit e k op plan done l).ports = l.ports ∧ (emit e k op plan done l).checkpoints = l.checkpoints ∧
      Local k c.owner l (emit e k op plan done l) := by
  rw [emit_waits e h op plan done hr]
  unfold lagTest
  rw [modify_some _ (cursor_setCursor_same _ _ _)]
  exact ⟨rfl, rfl, (Local.setCursor k _ l _).trans (Local.setCursor k _ _ _)⟩

/-- R123, R131, R134: a cursor writes the next SNAP item of its snapshot, and with the last one the snapshot ends and
flushes; without room the item waits. -/
theorem writeNext_snap {s : State} {l : Live} {k : Slot} {c : Cursor} {w : SnapWork} {x : PointId} {rest : List PointId}
    (h : l.cursor k = some c) (ho : c.op = .none) (hw : c.snap = some w) (hx : w.todo = x :: rest) :
    let it : ItemBody := renderItem s.env c (.snap x)
    let m := writeNext s.env k l
    ∃ d, m.cursor k = some d ∧ m.checkpoints = l.checkpoints ∧ Local k c.owner l m ∧
      (c.buffer.hasRoom c.options = true →
        d = { c with
              snap := if rest = [] then none else some { todo := rest, opening := false }
              buffer := c.buffer.delivered c.options rest.isEmpty it } ∧
          m.port c.owner = (l.port c.owner).takes (c.buffer.announced k c.options rest.isEmpty it)) ∧
      (c.buffer.hasRoom c.options = false →
        Stalls s
            { c with
              snap := some { todo := rest, opening := false }
              buffer := { c.buffer with waiting := some (.snap x) } } d ∧
          m.ports = l.ports) := by
  intro it m
  let a : Cursor := { c with op := .none, snap := some { todo := rest, opening := false } }
  have ha : (l.setCursor k a).cursor k = some a := cursor_setCursor_same _ _ _
  have hm : m = emit s.env k .none (.snap x) (afterItem s.env k) (l.setCursor k a) := by
    show writeNext s.env k l = _
    unfold writeNext
    rw [withCursor_some _ h]
    simp only [ho, hw, hx]
    rfl
  have hl : Local k c.owner l (l.setCursor k a) := Local.setCursor k _ l a
  cases hr : c.buffer.hasRoom c.options with
  | false =>
    obtain ⟨d, d1, d2⟩ := emit_stalls (s := s) ha .none (.snap x) (afterItem s.env k) hr
    obtain ⟨e1, e2, e3⟩ := emit_stalls_keeps s.env ha .none (.snap x) (afterItem s.env k) hr
    rw [← hm] at d1 e1 e2 e3
    refine ⟨d, d1, e2, hl.trans e3, by simp, fun _ => ⟨?_, e1⟩⟩
    rw [← ho] at d2
    exact d2
  | true =>
    obtain ⟨n, n1, n2, n3, n4, n5⟩ := emit_delivers s.env ha .none (.snap x) (afterItem s.env k) hr
    have hb : ({ a.buffer.delivered a.options false it with refTime := a.buffer.refTime } : Buffer) =
        c.buffer.delivered c.options false it := delivered_keeps _ _ _ _
    let b : Cursor := { a with buffer := c.buffer.delivered c.options false it }
    have hn : n.cursor k = some b := by
      rw [n2]
      exact congrArg (fun y : Buffer => some { a with buffer := y }) hb
    have hp : n.port c.owner = (l.port c.owner).takes (c.buffer.announced k c.options false it) := n3
    have he : m = if rest = [] then endSnapshot k n else n := by
      rw [hm, n1]
      unfold afterItem
      rw [withCursor_some _ hn]
    have hla : Local k c.owner l n := hl.trans n5
    cases rest with
    | cons y ys =>
      rw [if_neg (by simp)] at he
      rw [he]
      refine ⟨b, hn, n4, hla, fun _ => ⟨?_, hp⟩, by simp⟩
      show ({ c with op := .none, snap := _, buffer := _ } : Cursor) = _
      rw [← ho]
      rfl
    | nil =>
      let z : Cursor := { b with snap := none }
      have hz : (n.setCursor k z).cursor k = some z := cursor_setCursor_same _ _ _
      have he : m = flush k (n.setCursor k z) := by
        rw [he, if_pos rfl]
        unfold endSnapshot
        rw [modify_some _ hn]
      obtain ⟨f1, f2, f3⟩ := flush_flushed hz
      obtain ⟨-, -, -, -, -, -, -, f4⟩ := flush_cursor hz
      rw [he]
      refine ⟨_, f1, f3.trans n4, (hla.trans (Local.setCursor k _ n z)).trans f4, fun _ => ⟨?_, ?_⟩, by simp⟩
      · show ({ c with op := .none, snap := _, buffer := (c.buffer.delivered c.options false it).flushed c.options } : Cursor) = _
        rw [delivered_flushed, ← ho]
        rfl
      · refine f2.trans ?_
        show (n.port c.owner).takes ((c.buffer.delivered c.options false it).flushTold k c.options) = _
        rw [hp, ← takes_append, announced_flushed]
        rfl

/-- The buffer with no item waiting takes a delivery whether one was said to wait or not. -/
theorem flushed_waiting (o : Options) (b : Buffer) : (b.flushed o).waiting = b.waiting := by
  unfold Buffer.flushed
  split_ifs <;> rfl

/-- R115 to R117, R169: a seal, as the statements say it. -/
theorem takeSeal_takes {s t : State} {l : Live} {k : Slot} {c : Cursor} (h : l.cursor k = some c)
    (hc : l.checkpoints = s.live.checkpoints) (hs : SameBut k s l)
    (hk : ∀ b, s.live.cursor k = some b → b.state ≠ .armed) (hr : c.state = .running) (ho : c.op = .none)
    (ha : c.atHead = true) (ht : ∀ j, t.live.cursor j = (takeSeal s.env k l).cursor j)
    (htc : t.live.checkpoints = (takeSeal s.env k l).checkpoints) :
    ∃ d, (takeSeal s.env k l).cursor k = some d ∧ TakesSeal s t k c d := by
  have hb : c.bound = true ↔ c.options.pacing = .bound := by simp [Cursor.bound]
  have hl : takeSeal s.env k l =
      if c.bound = true ∧ s.env.clock.instant < endInstant s.env c then
        atBoundary s.env k (l.setCursor k { c with atHead := false, waiting := true, parked := true, sealEnd := true })
      else reachEnd s.env k .sealTaken (l.setCursor k { c with atHead := false, parked := false }) := by
    unfold takeSeal
    rw [withCursor_some _ h, if_neg (by simp [hr, ha, ho])]
  have hends : ¬(c.bound = true ∧ s.env.clock.instant < endInstant s.env c) ↔
      (c.options.pacing = .bound → max (c.instant.getD 0) (c.options.windowEnd.getD (s.history.greatest.getD 0)) ≤
        s.clock.instant) := by
    rw [hb, not_and, not_lt]; rfl
  rw [hl] at ht htc ⊢
  split_ifs at ht htc ⊢ with h1
  · obtain ⟨d, d1, d2, -⟩ := atBoundary_comes (s := s) (t := t) (cursor_setCursor_same l k
      { c with atHead := false, waiting := true, parked := true, sealEnd := true }) (by simpa using hc) hr ho htc
    have h1 : ¬_ := fun g => hends.2 g h1
    exact ⟨d, d1, fun _ => d2, fun g => absurd g h1, fun g => absurd g h1, fun g => absurd g h1, fun g => absurd g h1⟩
  · have h1 := hends.1 h1
    let a : Cursor := { c with atHead := false, parked := false }
    have ha : (l.setCursor k a).cursor k = some a := cursor_setCursor_same _ _ _
    by_cases hsg : c.options.loop = false ∨ c.applied = false
    · let cause : StateCause := if c.options.loop then .windowEnd else .sealTaken
      let stop := endInstant s.env c
      let b : Cursor := { a with instant := some stop, atHead := false, parked := false }
      have hb : (l.setCursor k b).cursor k = some b := cursor_setCursor_same _ _ _
      have he : reachEnd s.env k .sealTaken (l.setCursor k a) =
          emit s.env k (.ending cause) (.marker (.endPass stop)) (becomeEnded s.env k cause) (l.setCursor k b) := by
        have : reachEnd s.env k .sealTaken (l.setCursor k a) = endPass s.env k cause (l.setCursor k a) := by
          unfold reachEnd
          rw [withCursor_some _ ha]
          rcases hsg with g | g <;> cases hlp : c.options.loop <;> simp_all [a, cause]
        rw [this]
        unfold endPass
        rw [withCursor_some _ ha]
        dsimp only
        rw [setCursor_setCursor]
        rfl
      rw [he] at ht htc ⊢
      cases hroom : c.buffer.hasRoom c.options with
      | false =>
        obtain ⟨d, d1, d2⟩ := emit_stalls (s := s) hb (.ending cause) (.marker (.endPass stop))
          (becomeEnded s.env k cause) hroom
        exact ⟨d, d1, fun g => absurd h1 g, fun _ _ g => absurd g (by simp [hroom]), fun _ _ _ => d2,
          fun _ g => absurd hsg g, fun _ g => absurd hsg g⟩
      | true =>
        obtain ⟨m, m1, m2, -, m4, m5⟩ := emit_delivers s.env hb (.ending cause) (.marker (.endPass stop))
          (becomeEnded s.env k cause) hroom
        rw [m1] at ht htc ⊢
        obtain ⟨d, d1, d2, d3, d4⟩ := becomeEnded_ends (s := s) (t := t) cause m2
          (fun i => by rw [m4, checkpoints_setCursor, hc])
          (fun j hj => by rw [m5.1 j hj, cursor_setCursor_ne _ _ (Ne.symm hj), hs j hj]) hk ht
        have hbuf : d.buffer = c.buffer.delivered c.options true (.marker (.endPass stop)) := by
          rw [d2]
          show ({ c.buffer.delivered c.options true (.marker (.endPass stop)) with
            refTime := c.buffer.refTime } : Buffer).flushed c.options = _
          rw [delivered_keeps, delivered_flushed]
        refine ⟨d, d1, fun g => absurd h1 g, fun _ _ _ => ⟨?_, ?_, ?_, ?_, ?_, ?_, ?_, ?_, ?_, ?_, hbuf, d4, d3⟩,
          fun _ _ g => absurd hroom g, fun _ g => absurd hsg g, fun _ g => absurd hsg g⟩ <;> rw [d2] <;> rfl
    · have hloop : c.options.loop = true ∧ c.applied = true := by
        simpa [not_or] using hsg
      let b : Cursor := { a with atHead := false, parked := false }
      have hb : (l.setCursor k b).cursor k = some b := cursor_setCursor_same _ _ _
      have he : reachEnd s.env k .sealTaken (l.setCursor k a) =
          emit s.env k .wrapping (.marker (.wrap c.options.windowStart)) (startWrap s.env k) (l.setCursor k b) := by
        unfold reachEnd
        rw [withCursor_some _ ha, if_pos (show a.options.loop = true from hloop.1),
          if_pos (show a.applied = true from hloop.2)]
        unfold wrapPass
        rw [withCursor_some _ ha, setCursor_setCursor]
      rw [he] at ht htc ⊢
      cases hroom : c.buffer.hasRoom c.options with
      | false =>
        obtain ⟨d, d1, d2⟩ := emit_stalls (s := s) hb .wrapping (.marker (.wrap c.options.windowStart))
          (startWrap s.env k) hroom
        exact ⟨d, d1, fun g => absurd h1 g, fun _ g => absurd g hsg, fun _ g => absurd g hsg,
          fun _ _ g => absurd g (by simp [hroom]), fun _ _ _ => d2⟩
      | true =>
        obtain ⟨m, m1, m2, -, m4, m5⟩ := emit_delivers s.env hb .wrapping (.marker (.wrap c.options.windowStart))
          (startWrap s.env k) hroom
        rw [m1] at ht htc ⊢
        obtain ⟨d, d1, d2, d3, d4, d5, d6, d7, d8⟩ := startWrap_begins s.env m2
        rw [m4, checkpoints_setCursor, hc] at d2 d8
        refine ⟨d, d1, fun g => absurd h1 g, fun _ g => absurd g hsg, fun _ g => absurd g hsg,
          fun _ _ _ => ⟨d3.trans hr, d4, d5, d6, d2, htc.trans d8, ?_⟩, fun _ _ g => absurd hroom g⟩
        rw [d7]
        show ({ ({ c.buffer.delivered c.options false (.marker (.wrap c.options.windowStart)) with
          refTime := c.buffer.refTime } : Buffer) with waiting := none } : Buffer) = _
        rw [delivered_keeps, delivered_none_waits]

/-! ### A marker written from waiting (R131) -/

/-- R131, R136, R137: what a freed place makes of a waiting marker, as the statements say it: it is written, and its
operation goes on. -/
theorem resumeWaiting_markerWritten {s t : State} {l : Live} {k : Slot} {c : Cursor} {free : Buffer} {m : Marker}
    (h : l.cursor k = some { c with buffer := { free with waiting := some (.marker m) } })
    (hc : l.checkpoints = s.live.checkpoints) (hs : SameBut k s l) (hk : s.live.cursor k = some c)
    (hroom : free.hasRoom c.options = true)
    (ht : ∀ j, t.live.cursor j = (resumeWaiting s.env k l).cursor j)
    (htc : t.live.checkpoints = (resumeWaiting s.env k l).checkpoints) :
    ∃ d, (resumeWaiting s.env k l).cursor k = some d ∧ MarkerWritten s t k c free m d := by
  let a : Cursor := { c with buffer := { free with waiting := some (.marker m) } }
  let written : Buffer := free.delivered c.options (c.flushedBy m) (.marker m)
  let w : Cursor := { c with op := c.op.wrote, buffer := written }
  let n : Live := writeWaiting s.env k l
  have ha : l.cursor k = some a := h
  have hn : n.cursor k = some w := by
    have := (writeWaiting_delivers s.env ha (rfl : a.buffer.waiting = some (.marker m))).1
    have e2 : ({ written with refTime := free.refTime } : Buffer) = written := delivered_keeps _ _ _ _
    have e3 : flushesOn a (.marker m) = c.flushedBy m := by cases m <;> rfl
    rw [e3] at this
    rw [this]
    show some { a with op := c.op.wrote, buffer := { written with refTime := free.refTime } } = some w
    rw [e2]
  obtain ⟨-, -, -, -, -, n1, n2⟩ := writeWaiting_cursor s.env ha (rfl : a.buffer.waiting = some (.marker m))
  have hnc : n.checkpoints = s.live.checkpoints := n1.trans hc
  have hno' : SameBut k s n := fun j hj => (n2.1 j hj).trans (hs j hj)
  have hr : resumeWaiting s.env k l = afterItem s.env k n := by
    unfold resumeWaiting
    rw [withCursor_some _ ha]
    have : a.buffer.hasRoom a.options = true := hroom
    simp [this, a, n]
  rw [hr] at ht htc ⊢
  have ha : afterItem s.env k n = match w.op with
      | .step f => if f.todo = [] then stepEnd s.env k f n else n
      | .ending cause => becomeEnded s.env k cause n
      | .wrapping => startWrap s.env k n
      | .heading => settleHead s.env k n
      | .seekDone => seekWritten s.env k n
      | .rebaseDone => rebaseWritten s.env k n
      | .none =>
          match w.snap with
          | some x => if x.todo = [] then endSnapshot k n else n
          | none => n
      | .rebuild _ => n
      | .serving => n := by
    unfold afterItem
    exact withCursor_some _ hn
  have open' : ∃ d, (afterItem s.env k n).cursor k = some d :=
    ((afterItem_grows s.env k n).opened hn).imp fun _ g => g.1
  have hbounds : ∀ x : Cursor, x.state = .running → x.op = .none →
      afterItem s.env k n = atBoundary s.env k (n.setCursor k x) →
      ∃ d, (afterItem s.env k n).cursor k = some d ∧ ComesToBoundary s t x d ∧ (x.chain = false → d.chain = false) := by
    intro x hx ho he
    rw [he] at htc ⊢
    exact atBoundary_comes (cursor_setCursor_same _ _ _) (by rw [checkpoints_setCursor]; exact hnc) hx ho htc
  have none' : c.op ≠ .seekDone → c.op ≠ .rebaseDone → (∀ cause, c.op = .ending cause → c.state ≠ .running) →
      c.op ≠ .wrapping → c.op ≠ .heading →
      ∃ d, (afterItem s.env k n).cursor k = some d ∧ MarkerWritten s t k c free m d := by
    intro h1 h2 h3 h4 h5
    obtain ⟨d, hd⟩ := open'
    exact ⟨d, hd, fun g => absurd g h1, fun g => absurd g h1, fun g => absurd g h1, fun g => absurd g h2,
      fun g => absurd g h2, fun x g r => absurd r (h3 x g), fun g => absurd g h4, fun g => absurd g h5,
      fun g => absurd g h5, fun g => absurd g h5, fun g => absurd g h5⟩
  have op' : ∀ {x y : Op}, c.op = x → x ≠ y → c.op ≠ y := fun h g => h ▸ g
  have rests : ∀ {x : Op}, c.op = x → x ≠ .seekDone → x ≠ .rebaseDone → (∀ cause, x ≠ .ending cause) → x ≠ .wrapping →
      x ≠ .heading → ∃ d, (afterItem s.env k n).cursor k = some d ∧ MarkerWritten s t k c free m d :=
    fun h h1 h2 h3 h4 h5 => none' (op' h h1) (op' h h2) (fun y g => absurd g (op' h (h3 y))) (op' h h4) (op' h h5)
  cases hop : c.op with
  | none => exact rests hop (by simp) (by simp) (by simp) (by simp) (by simp)
  | rebuild f => exact rests hop (by simp) (by simp) (by simp) (by simp) (by simp)
  | serving => exact rests hop (by simp) (by simp) (by simp) (by simp) (by simp)
  | step f => exact rests hop (by simp) (by simp) (by simp) (by simp) (by simp)
  | ending cause =>
    have he : afterItem s.env k n = becomeEnded s.env k cause n := by rw [ha]; simp [w, hop, Op.wrote]
    by_cases hrun : c.state = .running
    · rw [he] at ht ⊢
      obtain ⟨d, d1, d2, d3, d4⟩ := becomeEnded_ends (s := s) (t := t) cause hn
        (fun i => by rw [hnc]) hno' (fun b hb => by rw [hk] at hb; cases hb; simp [hrun]) ht
      have hbuf : d.buffer = free.delivered c.options true (.marker m) := by
        rw [d2]; exact delivered_flushed _ _ _ _
      have hno {p : Prop} {y : Op} (hy : Op.ending cause ≠ y) (g : c.op = y) : p := absurd g (op' hop hy)
      refine ⟨d, d1, hno (by simp), hno (by simp), hno (by simp), hno (by simp), hno (by simp),
        fun _ _ _ => ⟨?_, ?_, ?_, ?_, ?_, ?_, d4, d3, hbuf⟩, hno (by simp), hno (by simp), hno (by simp),
        hno (by simp), hno (by simp)⟩ <;> rw [d2] <;> rfl
    · exact none' (op' hop (by simp)) (op' hop (by simp)) (fun _ _ => hrun) (op' hop (by simp)) (op' hop (by simp))
  | wrapping =>
    have he : afterItem s.env k n = startWrap s.env k n := by rw [ha]; simp [w, hop, Op.wrote]
    rw [he] at htc ⊢
    obtain ⟨d, d1, d2, d3, d4, d5, d6, d7, d8⟩ := startWrap_begins s.env hn
    rw [hnc] at d2 d8
    have hno {p : Prop} {y : Op} (hy : Op.wrapping ≠ y) (g : c.op = y) : p := absurd g (op' hop hy)
    exact ⟨d, d1, hno (by simp), hno (by simp), hno (by simp), hno (by simp), hno (by simp), fun _ => hno (by simp),
      fun _ => ⟨d3, d6, d7.trans (delivered_none_waits _ _ _ _), d2, htc.trans d8⟩, hno (by simp), hno (by simp),
      hno (by simp), hno (by simp)⟩
  | rebaseDone =>
    have he : afterItem s.env k n = atBoundary s.env k (n.setCursor k { w with op := .none }) := by
      rw [ha]
      simp only [w, hop, Op.wrote]
      unfold rebaseWritten
      rw [modify_some _ hn]
    have hno {p : Prop} {y : Op} (hy : Op.rebaseDone ≠ y) (g : c.op = y) : p := absurd g (op' hop hy)
    by_cases hrun : c.state = .running
    · obtain ⟨d, d1, d2, -⟩ := hbounds { w with op := .none } hrun rfl he
      exact ⟨d, d1, hno (by simp), hno (by simp), hno (by simp), fun _ g => absurd hrun g, fun _ _ => d2,
        fun _ => hno (by simp), hno (by simp), hno (by simp), hno (by simp), hno (by simp), hno (by simp)⟩
    · have hq := atBoundary_of_ne s.env (cursor_setCursor_same n k { w with op := .none }) hrun
      rw [he, hq, cursor_setCursor_same]
      exact ⟨_, rfl, hno (by simp), hno (by simp), hno (by simp), fun _ _ => rfl, fun _ g => absurd g hrun,
        fun _ => hno (by simp), hno (by simp), hno (by simp), hno (by simp), hno (by simp), hno (by simp)⟩
  | seekDone =>
    let x : Cursor := { w with op := .serving }
    have hx : (n.setCursor k x).cursor k = some x := cursor_setCursor_same _ _ _
    have he : afterItem s.env k n =
        if c.probes = [] then finishSeek s.env k (n.setCursor k x) else kickProbe s.env k (n.setCursor k x) := by
      rw [ha]
      simp only [w, hop, Op.wrote]
      unfold seekWritten
      rw [withCursor_some _ hn]
    have hno {p : Prop} {y : Op} (hy : Op.seekDone ≠ y) (g : c.op = y) : p := absurd g (op' hop hy)
    have rest : ∀ d : Cursor, (afterItem s.env k n).cursor k = some d →
        (c.chain = false → c.probes = [] → d.state = .held ∧ d.op = .none ∧ d.instant = c.instant ∧ d.image = c.image ∧
          d.position = c.position ∧ d.overtaken = c.overtaken ∧ d.buffer = free.delivered c.options true (.marker m)) →
        (c.chain = true → c.probes = [] → d.chain = false ∧
          ComesToBoundary s t { c with state := .running, chain := false, op := .none, buffer := written } d) →
        (c.state = .seeking → c.probes ≠ [] → d = { c with op := .serving, buffer := written, probes := d.probes } ∧
          ProbeBegins s c d ∧ ProbeChose c s.live.checkpoints t.live.checkpoints) →
        ∃ d, (afterItem s.env k n).cursor k = some d ∧ MarkerWritten s t k c free m d :=
      fun d g g1 g2 g3 => ⟨d, g, fun _ => g1, fun _ => g2, fun _ => g3, hno (by simp), hno (by simp),
        fun _ => hno (by simp), hno (by simp), hno (by simp), hno (by simp), hno (by simp), hno (by simp)⟩
    by_cases hp : c.probes = []
    · rw [if_pos hp] at he
      have hf : finishSeek s.env k (n.setCursor k x) =
          if c.chain = true then
            atBoundary s.env k (n.setCursor k { x with state := .running, chain := false, op := .none })
          else becomeHeld k (n.setCursor k x) := by
        unfold finishSeek
        rw [withCursor_some _ hx, setCursor_setCursor]
      rw [hf] at he
      cases hch : c.chain with
      | true =>
        rw [hch, if_pos rfl] at he
        obtain ⟨d, d1, d2, d3⟩ := hbounds { x with state := .running, chain := false, op := .none } rfl rfl he
        exact rest d d1 (fun g => absurd g (by simp [hch])) (fun _ _ => ⟨d3 rfl, d2⟩) fun _ g => absurd hp g
      | false =>
        rw [hch, if_neg (by simp)] at he
        let y : Cursor := { x.leaveRunning with state := .held, op := .none, pendingHold := none, chain := false }
        obtain ⟨g1, -, -⟩ := flush_flushed (cursor_setCursor_same n k y)
        have hb : becomeHeld k (n.setCursor k x) = flush k (n.setCursor k y) := by
          unfold becomeHeld
          rw [modify_some _ hx, setCursor_setCursor]
        rw [← hb, ← he] at g1
        exact rest _ g1 (fun _ _ => ⟨rfl, rfl, rfl, rfl, rfl, rfl, delivered_flushed _ _ _ _⟩)
          (fun g => absurd g (by simp [hch])) fun _ g => absurd hp g
    · rw [if_neg hp] at he
      by_cases hsk : c.state = .seeking
      · obtain ⟨d, d1, d2, d3, d4⟩ := kickProbe_begins (s := s) hx
          (fun i => by rw [checkpoints_setCursor, hnc]) (by simp [probesMayBegin, x, w, hsk])
        rw [checkpoints_setCursor, hnc] at d4
        exact rest d (he ▸ d1) (fun _ g => absurd g hp) (fun _ g => absurd g hp)
          fun _ _ => ⟨d2, d3, by rw [htc, he]; exact d4⟩
      · obtain ⟨d, hd⟩ := open'
        exact rest d hd (fun _ g => absurd g hp) (fun _ g => absurd g hp) fun g => absurd g hsk
  | heading =>
    have he : afterItem s.env k n = settleHead s.env k n := by rw [ha]; simp [w, hop, Op.wrote]
    have hno {p : Prop} {y : Op} (hy : Op.heading ≠ y) (g : c.op = y) : p := absurd g (op' hop hy)
    let settled : Cursor :=
      { c with
        op := .none, atHead := true, parked := true, redo := false
        waiting := decide (c.options.pacing = .bound) || c.waiting
        lagging := if c.options.pacing = .bound then false else c.lagging
        instant := if c.options.pacing = .bound then some s.clock.instant else c.instant
        buffer := written }
    have hb : c.bound = decide (c.options.pacing = .bound) := by
      cases hpc : c.options.pacing <;> simp [Cursor.bound, hpc]
    have hse : settleHead s.env k n =
        if (nextAfter c.position s.history.records).isSome = true then
          atBoundary s.env k (n.setCursor k { w with op := .none, parked := false, redo := false })
        else if s.history.phase = .sealed then takeSeal s.env k (n.setCursor k settled)
        else atBoundary s.env k (n.setCursor k settled) := by
      have hset : ({ w with
          op := .none, atHead := true, parked := true, redo := false
          waiting := w.bound || w.waiting
          lagging := if w.bound then false else w.lagging
          instant := if w.bound then some s.env.clock.instant else w.instant } : Cursor) = settled := by
        have hw : w.bound = decide (c.options.pacing = .bound) := hb
        rw [hw]
        simp only [settled, w, decide_eq_true_eq]
        rfl
      unfold settleHead
      rw [withCursor_some _ hn, hset]
      rfl
    rw [hse] at he
    have rest : ∀ d : Cursor, (afterItem s.env k n).cursor k = some d →
        (c.state = .running → nextAfter c.position s.history.records ≠ none →
          ComesToBoundary s t { c with op := .none, parked := false, redo := false, buffer := written } d) →
        (c.state ≠ .running → s.history.phase = .collecting → nextAfter c.position s.history.records = none →
          d = settled) →
        (c.state = .running → s.history.phase = .collecting → nextAfter c.position s.history.records = none →
          ComesToBoundary s t settled d) →
        (c.state = .running → s.history.phase = .sealed → nextAfter c.position s.history.records = none →
          TakesSeal s t k settled d) →
        ∃ d, (afterItem s.env k n).cursor k = some d ∧ MarkerWritten s t k c free m d :=
      fun d g g1 g2 g3 g4 => ⟨d, g, hno (by simp), hno (by simp), hno (by simp), hno (by simp), hno (by simp),
        fun _ => hno (by simp), hno (by simp), fun _ => g1, fun _ => g2, fun _ => g3, fun _ => g4⟩
    by_cases hnx : nextAfter c.position s.history.records = none
    · rw [hnx, if_neg (by simp)] at he
      by_cases hsl : s.history.phase = .sealed
      · rw [if_pos hsl] at he
        have hco : s.history.phase ≠ .collecting := by simp [hsl]
        by_cases hrun : c.state = .running
        · obtain ⟨d, d1, d2⟩ := takeSeal_takes (s := s) (t := t) (cursor_setCursor_same n k settled)
            (by rw [checkpoints_setCursor, hnc])
            (fun j hj => by rw [cursor_setCursor_ne _ _ (Ne.symm hj), hno' j hj])
            (fun b hb => by rw [hk] at hb; cases hb; simp [hrun]) hrun rfl rfl (by rw [← he]; exact ht)
            (by rw [← he]; exact htc)
          exact rest d (he ▸ d1) (fun _ g => absurd hnx g) (fun _ g => absurd g hco) (fun _ g => absurd g hco)
            fun _ _ _ => d2
        · obtain ⟨d, hd⟩ := open'
          exact rest d hd (fun g => absurd g hrun) (fun _ g => absurd g hco) (fun g => absurd g hrun)
            fun g => absurd g hrun
      · rw [if_neg hsl] at he
        by_cases hrun : c.state = .running
        · obtain ⟨d, d1, d2, -⟩ := hbounds settled hrun rfl he
          exact rest d d1 (fun _ g => absurd hnx g) (fun g => absurd hrun g) (fun _ _ _ => d2)
            fun _ g => absurd g hsl
        · exact rest settled (by
            rw [he, atBoundary_of_ne s.env (cursor_setCursor_same n k settled) hrun, cursor_setCursor_same])
            (fun g => absurd g hrun) (fun _ _ _ => rfl) (fun g => absurd g hrun) fun g => absurd g hrun
    · rw [if_pos (Option.isSome_iff_ne_none.2 hnx)] at he
      by_cases hrun : c.state = .running
      · obtain ⟨d, d1, d2, -⟩ := hbounds { w with op := .none, parked := false, redo := false } hrun rfl he
        exact rest d d1 (fun _ _ => d2) (fun g => absurd hrun g) (fun _ _ g => absurd g hnx) fun _ _ g => absurd g hnx
      · obtain ⟨d, hd⟩ := open'
        exact rest d hd (fun g => absurd g hrun) (fun _ _ g => absurd g hnx) (fun g => absurd g hrun)
          fun g => absurd g hrun

/-! ### Abandonment, the head again, an accepted probe (R96, R117, R154, R170) -/

/-- R96, R129, R131, R134, R156: what STOP leaves of a cursor whose rebuild it abandons. -/
theorem abandon_abandons {s : State} {l : Live} {k : Slot} {c : Cursor} (h : l.cursor k = some c)
    (hc : l.checkpoints = s.live.checkpoints) :
    ∃ d, (abandon s.env k l).cursor k = some d ∧
      d =
        { c.abandonRebuild.leaveRunning with
          state := .unsettled, op := .none, chain := false, pendingHold := none
          buffer := ({ c.abandonRebuild.buffer with waiting := none } : Buffer).flushed c.options, probes := d.probes } ∧
      ProbeBegins s c d ∧ ProbeChose c s.live.checkpoints (abandon s.env k l).checkpoints ∧
      (abandon s.env k l).port c.owner = (l.port c.owner).takes (c.buffer.flushTold k c.options) ∧
      Local k c.owner l (abandon s.env k l) := by
  have ho : c.abandonRebuild.owner = c.owner ∧ c.abandonRebuild.options = c.options ∧
      c.abandonRebuild.probes = c.probes ∧
      ({ c.abandonRebuild.buffer with waiting := none } : Buffer).flushTold k c.options =
        c.buffer.flushTold k c.options := by
    unfold Cursor.abandonRebuild
    split <;> exact ⟨rfl, rfl, rfl, rfl⟩
  obtain ⟨h1, h2, h3, h4⟩ := ho
  let a : Cursor :=
    { c.abandonRebuild.leaveRunning with
      state := .unsettled, op := .none, chain := false, pendingHold := none
      buffer := { c.abandonRebuild.buffer with waiting := none } }
  have ha : (l.setCursor k a).cursor k = some a := cursor_setCursor_same _ _ _
  have hl : abandon s.env k l = kickProbe s.env k (flush k (l.setCursor k a)) := by
    unfold abandon
    rw [modify_some _ h]
  obtain ⟨f1, f2, f3⟩ := flush_flushed ha
  obtain ⟨d, d1, d2, d3, d4⟩ := kickProbe_begins (s := s) f1
    (fun i => by rw [f3, checkpoints_setCursor, hc]) rfl
  obtain ⟨ps, -, -, d5, d6⟩ := kickProbe_cursor s.env f1 c.owner
  rw [f3, checkpoints_setCursor, hc] at d4
  have hp : a.probes = c.probes := h3
  rw [hl]
  refine ⟨d, d1, ?_, ?_, ?_, ?_, ?_⟩
  · rw [← h2]; exact d2
  · unfold ProbeBegins at d3 ⊢
    rw [← hp]; exact d3
  · unfold ProbeChose at d4 ⊢
    rw [← hp]; exact d4
  · have : a.owner = c.owner := h1
    unfold Live.port at f2 ⊢
    rw [d5, ← this, f2, ← h4, ← h2]
    rfl
  · exact ((Local.setCursor k c.owner l a).trans
      (flush_local fun x hx => by rw [ha] at hx; cases hx; exact h1)).trans d6

/-- R117, R169: a read again that finds a COLLECTING store without a further record delivers nothing, and the cursor
waits as before. -/
theorem meetHead_again (e : Env) {l : Live} {k : Slot} {c : Cursor} (h : l.cursor k = some c) (ha : c.atHead = true)
    (ho : c.op = .none) (hn : nextAfter c.position e.history.records = none) (hp : c.probes = [])
    (hh : c.pendingHold = none) (hs : c.underStep = true → c.stepsLeft ≠ 0) (hv : c.overtaken = none)
    (hc : e.history.phase = .collecting) :
    meetHead e k l =
      l.setCursor k
        { c with
          parked := true, redo := false, waiting := c.bound || c.waiting
          lagging := if c.bound then false else c.lagging
          instant := if c.bound then some e.clock.instant else c.instant } := by
  let d : Cursor :=
    { c with
      parked := true, redo := false, waiting := c.bound || c.waiting
      lagging := if c.bound then false else c.lagging
      instant := if c.bound then some e.clock.instant else c.instant }
  have hd : ({ c with
      op := .none, atHead := true, parked := true, redo := false
      waiting := c.bound || c.waiting
      lagging := if c.bound then false else c.lagging
      instant := if c.bound then some e.clock.instant else c.instant } : Cursor) = d := by
    show ({ d with op := .none, atHead := true } : Cursor) = d
    rw [← ha, ← ho]
  have hg : (l.setCursor k d).cursor k = some d := cursor_setCursor_same _ _ _
  unfold meetHead
  rw [withCursor_some _ h, if_pos ha]
  unfold settleHead
  rw [withCursor_some _ h, hn, if_neg (by simp), hd, if_neg (by simp [hc])]
  unfold atBoundary
  rw [withCursor_some _ hg]
  have h1 : d.probes = [] := hp
  have h3 : d.pendingHold = none := hh
  have h4 : ¬(d.underStep = true ∧ d.stepsLeft = 0) := fun g => hs g.1 g.2
  have h5 : d.overtaken = none := hv
  show _ = l.setCursor k d
  split_ifs with g1 g2 g3 g4 g5
  · rfl
  · exact absurd h1 g2
  · exact g3.elim
  · exact absurd (g4.resolve_right h4) (by simp [h3])
  · exact absurd g5 (by simp [h5])
  · rfl

/-- R154, R170: an accepted probe that finds the queue empty sets PROBING, and LAGGING is tested; behind another
probe LAGGING stands. -/
theorem probeAccepted_tests {s : State} {l : Live} {k : Slot} (c : Cursor) (q : Probe) :
    ∃ d, (probeAccepted s.env k c q l).cursor k = some d ∧
      (c.probes = [] → LagTestedAfter s.history.records s.clock.instant c d) ∧
      (c.probes ≠ [] → d.lagging = c.lagging) := by
  let a : Cursor := c.takeProbe q
  have hag : a.lagging = c.lagging := by
    unfold a Cursor.takeProbe
    dsimp only
    split <;> try rfl
    split_ifs <;> rfl
  have ha : (l.setCursor k a).cursor k = some a := cursor_setCursor_same _ _ _
  have hpr : a.probes = c.probes ++ [q] := by
    unfold a Cursor.takeProbe
    dsimp only
    split <;> try rfl
    split_ifs <;> rfl
  unfold probeAccepted
  dsimp only
  by_cases hp : c.probes = []
  · rw [if_pos hp]
    unfold lagTest
    rw [modify_some _ ha]
    obtain ⟨b, hb, ht⟩ := lagTest_after s.env a
    obtain ⟨ps, g1, g2, -, -⟩ := kickProbe_cursor s.env
      (cursor_setCursor_same (l.setCursor k a) k (a.lagTest s.env)) 0
    refine ⟨_, g1, fun _ => ?_, fun g => absurd hp g⟩
    have hps : ps ≠ [] := fun e => by
      rw [hb, e] at g2
      simp [hpr] at g2
    rw [hb]
    unfold LagTestedAfter
    have : c.lagging = a.lagging := hag.symm
    rw [this]
    have hap : a.probes ≠ [] := by simp [hpr]
    unfold LagTested at ht ⊢
    simp only [ne_eq, hps, hap, not_false_eq_true] at ht ⊢
    exact ht
  · rw [if_neg hp]
    obtain ⟨ps, g1, -, -, -⟩ := kickProbe_cursor s.env ha 0
    exact ⟨_, g1, fun g => absurd g hp, fun _ => hag⟩

end Sys2Proof.Machine
end

