-- ==== Sys2Proof/Laws/Bytes.lean ====
section
/-!
SUPPORT. Fields of a list of bytes: what `le` writes, `leAt` reads (R185).
-/

namespace Sys2Proof.Machine

open Sys2Proof

@[simp] theorem le_length (n v : Nat) : (le n v).length = n := by
  induction n generalizing v with
  | zero => rfl
  | succ n ih => simp [le, ih]

/-- A number written in `n` bytes reads back modulo the field. -/
theorem leValue_le (n v : Nat) : leValue (le n v) = v % 256 ^ n := by
  induction n generalizing v with
  | zero => simp [le, leValue, Nat.mod_one]
  | succ n ih =>
    have h : 2 ^ 8 = 256 := rfl
    rw [le, leValue, ih, BitVec.toNat_ofNat, h, Nat.pow_succ, Nat.mul_comm (256 ^ n) 256, Nat.mod_mul]

/-- A field that fits reads back. -/
theorem leValue_le_of_lt {n v : Nat} (h : v < 256 ^ n) : leValue (le n v) = v := by
  rw [leValue_le, Nat.mod_eq_of_lt h]

/-- The field behind a first part of the body. -/
theorem leAt_append {a b : List Byte} {off n : Nat} (h : a.length = off) : leAt (a ++ b) off n = leValue (b.take n) := by
  subst h
  simp [leAt]

theorem take_le_append (n v : Nat) (b : List Byte) : (le n v ++ b).take n = le n v := by
  rw [List.take_append_of_le_length (by simp)]
  simp

theorem leValue_lt (bs : List Byte) : leValue bs < 256 ^ bs.length := by
  induction bs with
  | nil => simp [leValue]
  | cons b bs ih =>
    have := b.isLt
    simp only [leValue, List.length_cons, Nat.pow_succ]
    omega

/-- An `n`-byte field is below 256 to the n. -/
theorem leAt_lt (bs : List Byte) (off n : Nat) : leAt bs off n < 256 ^ n := by
  refine Nat.lt_of_lt_of_le (leValue_lt _) (Nat.pow_le_pow_right (by omega) ?_)
  simp only [List.length_take]
  omega

theorem byteAt_lt (bs : List Byte) (i : Nat) : byteAt bs i < 256 := (bs.getD i 0).isLt

end Sys2Proof.Machine
end

