-- ==== Sys2Proof/Laws/Requests.lean ====
section
/-!
SUPPORT. The taking of a request, once for all of them: when it is taken and what it comes to, and what a request on a cursor
is answered. Provers cite these and unfold neither takeRequest nor cursorRequest.
-/

namespace Sys2Proof.Machine

open Sys2Proof

/-- When a port can take a request. -/
theorem taken_iff (s : State) (p : PortId) (code tag : Nat) (body : List Byte) :
    Taken s p code tag body ↔
      s.resetLow = false ∧ (s.live.port p).up = true ∧ (s.live.port p).response = none ∧
        (s.live.port p).requests.head? = some (.sound code tag body) := by
  unfold Taken State.frontRequest
  cases hr : s.resetLow <;> cases hu : (s.live.port p).up <;> cases hh : (s.live.port p).response <;> simp [hu, hh]
  cases hq : (s.live.port p).requests with
  | nil => simp
  | cons f fs =>
    cases f with
    | faulty => simp
    | sound c t b =>
      by_cases hc : c = code
      · subst hc; simp [Prod.ext_iff]
      · simp [hc]

/-- A request taken is answered. -/
theorem takeRequest_taken {s : State} {p : PortId} {code tag : Nat} {body : List Byte} (h : Taken s p code tag body)
    (rule : List Byte → State → Response × State) :
    takeRequest p code rule s =
      answered s p tag (rule body (s.popRequest p)).1 (rule body (s.popRequest p)).2 := by
  unfold Taken at h
  simp [takeRequest, h, answered]

/-- A request that the port cannot take changes nothing. -/
theorem takeRequest_waits {s : State} {p : PortId} {code : Nat} (h : s.frontRequest p code = none)
    (rule : List Byte → State → Response × State) : takeRequest p code rule s = s := by
  simp [takeRequest, h]

/-- The two outcomes of a request. -/
theorem takeRequest_cases (p : PortId) (code : Nat) (rule : List Byte → State → Response × State) (s : State) :
    takeRequest p code rule s = s ∨
      ∃ tag body, Taken s p code tag body ∧
        takeRequest p code rule s =
          answered s p tag (rule body (s.popRequest p)).1 (rule body (s.popRequest p)).2 := by
  cases h : s.frontRequest p code with
  | none => exact .inl (takeRequest_waits h rule)
  | some x => exact .inr ⟨x.1, x.2, h, takeRequest_taken h rule⟩

/-- The port while a request is taken. -/
theorem taken_port {s : State} {p : PortId} {code tag : Nat} {body : List Byte} (h : Taken s p code tag body) :
    s.resetLow = false ∧ (s.live.port p).up = true ∧ (s.live.port p).response = none :=
  let g := (taken_iff s p code tag body).mp h
  ⟨g.1, g.2.1, g.2.2.1⟩

/-- A request that reaches its cursor is judged by its rule. -/
theorem cursorRequest_reaches {s : State} {p : PortId} {slot : Nat} {body : List Byte} {k : Slot} {c : Cursor}
    (h : Reaches s p slot body k c) (rule : Slot → Cursor → State → Response × State) (t : State)
    (ht : t.live.cursors = s.live.cursors) : cursorRequest p slot rule body t = rule k c t := by
  obtain ⟨hb, hk, hc, ho⟩ := h
  have hc' : t.live.cursor k = some c := by unfold Live.cursor; rw [ht]; exact hc
  have hb' : body.isEmpty = false := by cases body <;> simp_all
  simp [cursorRequest, hb', hk, hc', ho]

/-- A request on a cursor that is taken and reaches it. -/
theorem takeRequest_reaches {s : State} {p : PortId} {code tag slot : Nat} {body : List Byte} {k : Slot} {c : Cursor}
    (h : Taken s p code tag body) (hr : Reaches s p slot body k c) (rule : Slot → Cursor → State → Response × State) :
    takeRequest p code (cursorRequest p slot rule) s =
      answered s p tag (rule k c (s.popRequest p)).1 (rule k c (s.popRequest p)).2 := by
  rw [takeRequest_taken h, cursorRequest_reaches hr rule (s.popRequest p) rfl]

/-- What a request on a cursor comes to: a refusal that changes nothing, or its rule on the owner's cursor. -/
theorem cursorRequest_cases (p : PortId) (slot : Nat) (rule : Slot → Cursor → State → Response × State)
    (body : List Byte) (s : State) :
    (∃ code, cursorRequest p slot rule body s = (Response.plain code, s)) ∨
      ∃ k c, s.live.cursor k = some c ∧ c.owner = p ∧ cursorRequest p slot rule body s = rule k c s := by
  unfold cursorRequest
  split
  · exact .inl ⟨_, rfl⟩
  · split
    · exact .inl ⟨_, rfl⟩
    · split
      · exact .inl ⟨_, rfl⟩
      · split
        · exact .inr ⟨_, _, ‹_›, ‹_›, rfl⟩
        · exact .inl ⟨_, rfl⟩

/-! ### What an answer leaves -/

@[simp] theorem pending_answered (s : State) (p : PortId) (t : Nat) (r : Response) (u : State) :
    (answered s p t r u).pending = u.pending := rfl

@[simp] theorem history_answered (s : State) (p : PortId) (t : Nat) (r : Response) (u : State) :
    (answered s p t r u).history = u.history := rfl

@[simp] theorem tables_answered (s : State) (p : PortId) (t : Nat) (r : Response) (u : State) :
    (answered s p t r u).tables = u.tables := rfl

@[simp] theorem contexts_answered (s : State) (p : PortId) (t : Nat) (r : Response) (u : State) :
    (answered s p t r u).contexts = u.contexts := rfl

@[simp] theorem gaps_answered (s : State) (p : PortId) (t : Nat) (r : Response) (u : State) :
    (answered s p t r u).gaps = u.gaps := rfl

@[simp] theorem merge_answered (s : State) (p : PortId) (t : Nat) (r : Response) (u : State) :
    (answered s p t r u).merge = u.merge := rfl

@[simp] theorem clock_answered (s : State) (p : PortId) (t : Nat) (r : Response) (u : State) :
    (answered s p t r u).clock = u.clock := rfl

@[simp] theorem resetLow_answered (s : State) (p : PortId) (t : Nat) (r : Response) (u : State) :
    (answered s p t r u).resetLow = u.resetLow := rfl

@[simp] theorem cursor_answered (s : State) (p : PortId) (t : Nat) (r : Response) (u : State) (k : Slot) :
    (answered s p t r u).live.cursor k = u.live.cursor k := rfl

@[simp] theorem checkpoints_answered (s : State) (p : PortId) (t : Nat) (r : Response) (u : State) :
    (answered s p t r u).live.checkpoints = u.live.checkpoints := rfl

theorem port_answered (s : State) (p q : PortId) (t : Nat) (r : Response) (u : State) :
    (answered s p t r u).live.port q =
      if p = q then
        { u.live.port p with
          response := some { tag := t, response := r, ahead := (s.live.port p).notices.length } }
      else u.live.port q := port_respond u p q t _ r

end Sys2Proof.Machine
end

