-- ==== Sys2Proof/Laws/Kept.lean ====
section
/-!
SUPPORT. What the rules over the whole state leave alone: the queue of commands, RESET_N, FREE slots and owners, and the ports
but for notices at the end of their queues.
-/

namespace Sys2Proof.Machine

open Sys2Proof

/-- From `s` to `t` the queue of commands and RESET_N are the same and the live part has only grown. -/
def Kept (s t : State) : Prop := t.pending = s.pending ∧ t.resetLow = s.resetLow ∧ Grows s.live t.live

theorem Kept.refl (s : State) : Kept s s := ⟨rfl, rfl, Grows.refl _⟩

theorem Kept.trans {a b c : State} (h : Kept a b) (g : Kept b c) : Kept a c :=
  ⟨g.1.trans h.1, g.2.1.trans h.2.1, h.2.2.trans g.2.2⟩

/-- A state with the same queue, line and live part. -/
theorem Kept.same {s t : State} (h : t.pending = s.pending) (g : t.resetLow = s.resetLow) (e : t.live = s.live) :
    Kept s t := ⟨h, g, e ▸ Grows.refl _⟩

theorem Kept.withLive {s : State} {l : Live} (h : Grows s.live l) : Kept s (s.withLive l) := ⟨rfl, rfl, h⟩

theorem Kept.foldl {α : Type} {f : State → α → State} (h : ∀ s x, Kept s (f s x)) (xs : List α) (s : State) :
    Kept s (xs.foldl f s) := by
  induction xs generalizing s with
  | nil => exact Kept.refl s
  | cons x xs ih => exact (h s x).trans (ih _)

theorem notifyStore_kept (s : State) : Kept s (notifyStore s) := Kept.withLive (Grows.notifyWhere _ _ _)

theorem notifyAttention_grows (r : RecId) (a b : Context) (l : Live) : Grows l (notifyAttention r a b l) := by
  unfold notifyAttention
  split_ifs
  · exact Grows.notifyWhere _ _ _
  · exact Grows.refl l

theorem mergeCauses_kept (r : RecId) (x : CauseSet) (s : State) : Kept s (mergeCauses r x s) :=
  ⟨rfl, rfl, notifyAttention_grows _ _ _ _⟩

theorem takeNext_kept (s : State) : Kept s s.takeNext := Kept.same rfl rfl rfl

theorem recordFinished_kept (g : QueuedSegment) (o : SegOutcome) (s : State) : Kept s (recordFinished g o s) :=
  Kept.same rfl rfl rfl

theorem notifySegmentDone_kept (g : QueuedSegment) (o : SegOutcome) (a b : Nat) (i : Option Nat) (s : State) :
    Kept s (notifySegmentDone g o a b i s) := Kept.withLive (Grows.notifyWhere _ _ _)

theorem finishInProgress_kept (g : QueuedSegment) (o : SegOutcome) (a b : Nat) (i : Option Nat) (x : CauseSet)
    (s : State) : Kept s (finishInProgress g o a b i x s) := by
  have h1 : Kept s { s with merge := { s.merge with queue := s.merge.queue.drop 1 } } := Kept.same rfl rfl rfl
  exact (((h1.trans (recordFinished_kept g o _)).trans (notifySegmentDone_kept g o a b i _)).trans
    (mergeCauses_kept _ _ _)).trans (takeNext_kept _)

theorem failSegment_kept (g : QueuedSegment) (o : SegOutcome) (i : Option Nat) (s : State) :
    Kept s (failSegment g o i s) := finishInProgress_kept g o 0 0 i _ s

theorem handOut_kept (r : Option Nat) (ts : List Touched) (s : State) : Kept s (handOut r ts s) :=
  Kept.withLive ((Grows.checkpoints s.live _).trans (commitReachesAll_grows _ ts _))

theorem commitSegment_kept (g : QueuedSegment) (p : Proc) (s : State) : Kept s (commitSegment g p s) :=
  Kept.trans (Kept.trans (b := installCommit g.recorder p (takeCandidates s.tables.study.window s.history p.staged) s)
    (Kept.same rfl rfl rfl) (finishInProgress_kept _ _ _ _ _ _ _)) (handOut_kept _ _ _)

theorem handOver_kept (g : QueuedSegment) (p : Proc) (s : State) : Kept s (handOver g p s) := by
  unfold handOver
  split_ifs
  · exact failSegment_kept g _ _ s
  · exact failSegment_kept g _ _ s
  · exact commitSegment_kept g p s

theorem sealContext_kept (b : State) (rej : List Candidate) (full : List RecId) (s : State) (r : RecId) :
    Kept s (sealContext b rej full s r) :=
  Kept.trans (b := { s with contexts := vput s.contexts r { s.contexts.get r with timing := (sealSpill b r).timing } })
    (Kept.same rfl rfl rfl) (mergeCauses_kept _ _ _)

theorem takeSeals_grows (e : Env) (ks : List Slot) (l : Live) :
    Grows l (ks.foldl (fun m k => takeSeal e k m) l) :=
  Grows.foldl (f := fun k m => takeSeal e k m) (fun k m => takeSeal_grows e k m) ks l

theorem sealCursors_kept (s : State) : Kept s (sealCursors s) := Kept.withLive (takeSeals_grows _ _ _)

theorem sealHistory_kept (s : State) : Kept s (sealHistory s) := by
  have h1 : Kept s { s with history := { (sealCommit s).history.settle with phase := .sealed } } := Kept.same rfl rfl rfl
  exact (((h1.trans (Kept.foldl (sealContext_kept s _ _) _ _)).trans (notifyStore_kept _)).trans
    (handOut_kept _ _ _)).trans (sealCursors_kept _)

theorem clearSegment_kept (s : State) (g : QueuedSegment) : Kept s (clearSegment s g) :=
  (recordFinished_kept g _ s).trans (notifySegmentDone_kept g _ _ _ _ _)

theorem clearHistory_kept (s : State) : Kept s (clearHistory s) := by
  have h1 := Kept.foldl clearSegment_kept s.merge.queue s
  unfold clearHistory
  refine h1.trans (Kept.trans ?_ (notifyStore_kept _))
  exact ⟨rfl, rfl, Grows.checkpoints _ _⟩

/-! ### The Common Clock -/

theorem notifyClock_kept (c : ClockCause) (s : State) : Kept s (notifyClock c s) :=
  Kept.withLive (Grows.notifyWhere _ _ _)

theorem notifyLost_kept (l : Option PortId) (s : State) : Kept s (notifyLost l s) := by
  unfold notifyLost
  split
  · exact Kept.refl s
  · exact Kept.withLive (Grows.notify _ _ _)

theorem notifyGranted_kept (s : State) : Kept s (notifyGranted s) := by
  unfold notifyGranted
  split
  · exact Kept.refl s
  · exact Kept.withLive (Grows.notify _ _ _)

theorem passClock_kept (l : Option PortId) (s : State) : Kept s (passClock l s) := by
  have h1 : Kept s { s with clock := s.clock.passOn } := Kept.same rfl rfl rfl
  exact ((h1.trans (notifyLost_kept l _)).trans (notifyGranted_kept _)).trans (notifyClock_kept _ _)

theorem endClockRole_kept (p : PortId) (s : State) : Kept s (endClockRole p s) := by
  unfold endClockRole
  split_ifs
  · exact passClock_kept _ s
  · exact Kept.same rfl rfl rfl

theorem followers_kept (s : State) : Kept s (followers s) := Kept.withLive (followClockAll_grows _ _)

theorem clockMarks_kept (b : Nat) (s : State) : Kept s (clockMarks b s) :=
  Kept.withLive (Grows.inFreeOrder (trigger_grows _) _ _)

theorem clockAdvance_kept (s : State) : Kept s (clockAdvance s) := by
  have h1 : Kept s { s with clock := s.clock.advance } := Kept.same rfl rfl rfl
  unfold clockAdvance
  dsimp only
  split_ifs
  · exact ((h1.trans (notifyClock_kept _ _)).trans (followers_kept _)).trans (clockMarks_kept _ _)
  · exact (h1.trans (followers_kept _)).trans (clockMarks_kept _ _)

theorem expireLease_kept (s : State) : Kept s (expireLease s) := passClock_kept _ s

theorem idle_kept (s : State) : Kept s (idle s) := by
  unfold idle
  split_ifs
  · exact Kept.refl s
  · exact clockAdvance_kept s
  · exact expireLease_kept s
  · exact Kept.same rfl rfl rfl

theorem clockRun_kept (s : State) : Kept s (clockRun s) := by
  unfold clockRun
  split
  · exact Kept.refl s
  · split_ifs
    · exact Kept.trans (b := { s with clock := s.clock.start }) (Kept.same rfl rfl rfl)
        ((notifyClock_kept _ _).trans (followers_kept _))
    · exact notifyClock_kept _ s

theorem clockPause_kept (s : State) : Kept s (clockPause s) := by
  unfold clockPause
  split
  · exact Kept.refl s
  · exact Kept.trans (b := { s with clock := s.clock.halt }) (Kept.same rfl rfl rfl) (notifyClock_kept _ _)

theorem clockSet_kept (t : Nat) (s : State) : Kept s (clockSet t s) :=
  Kept.trans (b := { s with clock := { s.clock with instant := t } }) (Kept.same rfl rfl rfl)
    ((notifyClock_kept _ _).trans (Kept.withLive (Grows.inFreeOrder (clockSetReaches_grows _) _ _)))

theorem clockRate_kept (n : Nat) (s : State) : Kept s (clockRate n s) := by
  have h1 : Kept s { s with clock := { s.clock with rate := n } } := Kept.same rfl rfl rfl
  unfold clockRate
  dsimp only
  split_ifs
  · exact h1
  · exact h1.trans (notifyClock_kept _ _)

theorem controlRequest_kept (p : PortId) (ok : Bool) {rule : State → State} (h : ∀ s, Kept s (rule s)) (b : List Byte)
    (s : State) : Kept s (controlRequest p ok rule b s).2 := by
  unfold controlRequest
  split_ifs
  · exact Kept.refl s
  · exact (h s).trans (Kept.same rfl rfl rfl)
  · exact Kept.refl s

/-! ### The rules of the requests, but for SUBSCRIBE, OPEN_CURSOR and CLOSE_CURSOR -/

theorem beginCollection_kept (b : List Byte) (s : State) : Kept s (beginCollection b s).2 := by
  unfold beginCollection
  split_ifs
  · exact Kept.refl s
  · split
    · exact Kept.refl s
    · exact Kept.trans (b := { s with history := { s.history with phase := .collecting } }) (Kept.same rfl rfl rfl)
        (notifyStore_kept _)

theorem sealRequest_kept (b : List Byte) (s : State) : Kept s (sealRequest b s).2 := by
  unfold sealRequest
  split_ifs
  · exact Kept.refl s
  · exact Kept.refl s
  · exact sealHistory_kept s

theorem clearRequest_kept (b : List Byte) (s : State) : Kept s (clearRequest b s).2 := by
  unfold clearRequest
  split_ifs
  · exact Kept.refl s
  · exact clearHistory_kept s

theorem readRecords_same (st : ReadStart) (e : Option Nat) (n : Nat) (z : Bool) (b : List Byte) (s : State) :
    (readRecords st e n z b s).2 = s := by unfold readRecords; split_ifs <;> rfl

theorem readGaps_same (a n : Nat) (r : Option Nat) (b : List Byte) (s : State) : (readGaps a n r b s).2 = s := by
  unfold readGaps; split_ifs <;> rfl

theorem readRecorder_same (r : Nat) (b : List Byte) (s : State) : (readRecorder r b s).2 = s := by
  unfold readRecorder; split <;> rfl

theorem readCursor_same (k : Nat) (b : List Byte) (s : State) : (readCursor k b s).2 = s := by
  unfold readCursor
  split_ifs
  · rfl
  · split
    · rfl
    · split <;> rfl

/-- A table write changes the tables alone. -/
theorem tableWrite_cases (w : Tables → Option (RespBody × Tables)) (b : List Byte) (s : State) :
    (tableWrite w b s).2 = s ∨ ∃ t, (tableWrite w b s).2 = { s with tables := t } := by
  unfold tableWrite
  split_ifs
  · exact .inl rfl
  · split
    · exact .inl rfl
    · exact .inr ⟨_, rfl⟩

theorem tableWrite_kept (w : Tables → Option (RespBody × Tables)) (b : List Byte) (s : State) :
    Kept s (tableWrite w b s).2 := by
  rcases tableWrite_cases w b s with h | ⟨t, h⟩ <;> rw [h]
  · exact Kept.refl s
  · exact Kept.same rfl rfl rfl

theorem setEventZero_kept (t : Nat) (b : List Byte) (s : State) : Kept s (setEventZero t b s).2 := by
  unfold setEventZero
  split_ifs
  · exact Kept.same rfl rfl rfl
  · exact Kept.refl s

theorem joinQueue_kept (g : QueuedSegment) (s : State) : Kept s (joinQueue g s) := by
  unfold joinQueue
  dsimp only
  split_ifs <;> exact Kept.same rfl rfl rfl

theorem loadSegment_kept (p : PortId) (b : List Byte) (s : State) : Kept s (loadSegment p b s).2 := by
  unfold loadSegment
  split
  · exact Kept.refl s
  · split
    · exact Kept.refl s
    · split
      · exact Kept.refl s
      · split
        · exact Kept.refl s
        · exact joinQueue_kept _ s

theorem cancelAt_kept (i : Nat) (g : QueuedSegment) (s : State) : Kept s (cancelAt i g s) := by
  have h1 : Kept s { s with merge := { s.merge with queue := s.merge.queue.eraseIdx i } } := Kept.same rfl rfl rfl
  have h2 := (h1.trans (recordFinished_kept g .cancelled _)).trans (notifySegmentDone_kept g .cancelled 0 0 none _)
  unfold cancelAt
  dsimp only
  split_ifs
  · exact h2.trans (takeNext_kept _)
  · exact h2

theorem cancelSegment_kept (p : PortId) (r q : Nat) (b : List Byte) (s : State) :
    Kept s (cancelSegment p r q b s).2 := by
  unfold cancelSegment
  split
  · exact Kept.refl s
  · split
    · exact Kept.refl s
    · split
      · exact Kept.refl s
      · exact cancelAt_kept _ _ s

theorem setMask_kept (r : RecId) (m : CauseSet) (s : State) : Kept s (setMask r m s) :=
  ⟨rfl, rfl, notifyAttention_grows _ _ _ _⟩

theorem setAttentionMask_kept (b : List Byte) (s : State) : Kept s (setAttentionMask b s).2 := by
  unfold setAttentionMask
  split
  · exact Kept.refl s
  · exact setMask_kept _ _ s

theorem clearCauses_kept (b : List Byte) (s : State) : Kept s (clearCauses b s).2 := by
  unfold clearCauses
  split
  · exact Kept.refl s
  · exact Kept.same rfl rfl rfl

theorem takeClock_kept (p : PortId) (w : Bool) (b : List Byte) (s : State) : Kept s (takeClock p w b s).2 := by
  unfold takeClock
  dsimp only
  split
  · exact Kept.trans (b := { s with clock := Clock.startLease { s.clock with controller := some p } })
      (Kept.same rfl rfl rfl) (notifyClock_kept _ _)
  · split_ifs <;> exact Kept.same rfl rfl rfl

theorem releaseClock_kept (p : PortId) (b : List Byte) (s : State) : Kept s (releaseClock p b s).2 := by
  unfold releaseClock
  split_ifs
  · exact passClock_kept _ s
  · exact Kept.same rfl rfl rfl
  · exact Kept.refl s

/-! ### The rules of the requests on a cursor -/

theorem cursorRequest_kept (p : PortId) (slot : Nat) {rule : Slot → Cursor → State → Response × State}
    (h : ∀ k c s, s.live.cursor k = some c → Kept s (rule k c s).2) (b : List Byte) (s : State) :
    Kept s (cursorRequest p slot rule b s).2 := by
  rcases cursorRequest_cases p slot rule b s with ⟨code, e⟩ | ⟨k, c, hc, -, e⟩ <;> rw [e]
  · exact Kept.refl s
  · exact h k c s hc

theorem endedToHeld_grows (k : Slot) (l : Live) : Grows l (endedToHeld k l) := by
  refine Grows.withCursor fun c hc => ?_
  split_ifs
  · exact (Grows.setCursor hc (by rfl)).trans (flush_grows k _)
  · exact Grows.refl l

theorem setCursor_kept (x b : List Byte) (k : Slot) (c : Cursor) (s : State) (hc : s.live.cursor k = some c) :
    Kept s (setCursor x b k c s).2 := by
  unfold setCursor
  split_ifs
  · exact Kept.refl s
  · exact Kept.refl s
  · split
    · exact Kept.refl s
    · exact Kept.withLive ((Grows.setCursor hc (by rfl)).trans (endedToHeld_grows k _))

theorem seek_kept (t : Nat) (ch : Bool) (k : Slot) (c : Cursor) (s : State) (hc : s.live.cursor k = some c) :
    Kept s (seek t ch k c s).2 := by
  unfold seek
  split_ifs
  · exact Kept.refl s
  · exact Kept.refl s
  · exact Kept.withLive ((Grows.setCursor hc (by rfl)).trans (startSeek_grows _ k _ _ _))

theorem playAccepted_grows (e : Env) (re : Bool) (k : Slot) {c : Cursor} {l : Live} (hc : l.cursor k = some c) :
    Grows l (playAccepted e re k c l) := by
  unfold playAccepted
  dsimp only
  split_ifs
  · exact (Grows.setCursor hc (by rfl)).trans (startSeek_grows _ k _ _ _)
  · exact (Grows.setCursor hc (by rfl)).trans (beginPlay_grows _ k _ _ _)

theorem play_kept (re : Bool) (k : Slot) (c : Cursor) (s : State) (hc : s.live.cursor k = some c) :
    Kept s (play re k c s).2 := by
  unfold play
  split
  · exact Kept.refl s
  · exact Kept.withLive (playAccepted_grows _ re k hc)

theorem stepRequest_kept (n : Nat) (k : Slot) (c : Cursor) (s : State) (_ : s.live.cursor k = some c) :
    Kept s (stepRequest n k c s).2 := by
  unfold stepRequest
  split
  · exact Kept.refl s
  · split_ifs
    · exact Kept.refl s
    · exact Kept.withLive (beginPlay_grows _ k _ _ _)

theorem disarm_grows (k : Slot) {c : Cursor} {l : Live} (hc : l.cursor k = some c) : Grows l (disarm k c l) :=
  (Grows.setCursor hc (by rfl)).trans (flush_grows k _)

theorem pend_grows (e : Env) (h : PendingHold) (k : Slot) {c : Cursor} {l : Live} (hc : l.cursor k = some c) :
    Grows l (pend e h k c l) := (Grows.setCursor hc (by rfl)).trans (atBoundary_grows e k _)

theorem hold_kept (k : Slot) (c : Cursor) (s : State) (hc : s.live.cursor k = some c) : Kept s (hold k c s).2 := by
  unfold hold
  split_ifs
  · exact Kept.refl s
  · refine Kept.withLive ?_
    unfold holdAccepted
    split
    · exact pend_grows _ _ k hc
    · exact Grows.setCursor hc rfl
    · exact disarm_grows k hc
    all_goals exact Grows.refl _

theorem stop_kept (k : Slot) (c : Cursor) (s : State) (hc : s.live.cursor k = some c) : Kept s (stop k c s).2 := by
  unfold stop
  split_ifs
  · exact Kept.refl s
  · refine Kept.withLive ?_
    unfold stopAccepted
    split
    · exact abandon_grows _ k _
    · split_ifs
      · exact abandon_grows _ k _
      · exact pend_grows _ _ k hc
    · exact disarm_grows k hc
    all_goals exact Grows.refl _

theorem arm_kept (k : Slot) (c : Cursor) (s : State) (hc : s.live.cursor k = some c) : Kept s (arm k c s).2 := by
  unfold arm
  split
  · exact Kept.refl s
  · split
    · exact Kept.refl s
    · exact Kept.withLive ((Grows.setCursor hc (by rfl)).trans (flush_grows k _))

theorem snapAccepted_grows (e : Env) (k : Slot) {c : Cursor} (todo : List PointId) {l : Live}
    (hc : l.cursor k = some c) : Grows l (snapAccepted e k c todo l) := by
  unfold snapAccepted
  dsimp only
  split
  · exact flush_grows k l
  · split
    · exact (Grows.setCursor hc (by rfl)).trans (startRebase_grows e k _)
    · exact Grows.setCursor hc rfl

theorem snapshot_kept (a b : Nat) (st : Option Nat) (k : Slot) (c : Cursor) (s : State)
    (hc : s.live.cursor k = some c) : Kept s (snapshot a b st k c s).2 := by
  unfold snapshot
  split
  · exact Kept.refl s
  · split_ifs
    · exact Kept.refl s
    · exact Kept.withLive (snapAccepted_grows _ k _ hc)

theorem fetch_kept (k : Slot) (c : Cursor) (s : State) (hc : s.live.cursor k = some c) : Kept s (fetch k c s).2 := by
  unfold fetch
  split
  · exact Kept.withLive ((Grows.setCursor hc (by rfl)).trans (resumeWaiting_grows _ k _))
  · exact Kept.refl s

theorem takeProbe_owner (q : Probe) (c : Cursor) : (c.takeProbe q).owner = c.owner := by
  unfold Cursor.takeProbe
  dsimp only
  split
  · split_ifs <;> rfl
  · rfl

theorem probeAccepted_grows (e : Env) (k : Slot) {c : Cursor} (q : Probe) {l : Live} (hc : l.cursor k = some c) :
    Grows l (probeAccepted e k c q l) := by
  have g := Grows.setCursor hc (takeProbe_owner q c)
  unfold probeAccepted
  dsimp only
  split_ifs
  · exact (g.trans (lagTest_grows e k _)).trans (kickProbe_grows e k _)
  · exact g.trans (kickProbe_grows e k _)

theorem probeRequest_kept (tag pt t : Nat) (k : Slot) (c : Cursor) (s : State) (hc : s.live.cursor k = some c) :
    Kept s (probeRequest tag pt t k c s).2 := by
  unfold probeRequest
  split
  · exact Kept.refl s
  · split_ifs
    · exact Kept.refl s
    · exact Kept.refl s
    · exact Kept.withLive (probeAccepted_grows _ k _ hc)

theorem setWatch_kept (w : Nat) (args : WatchArgs) (a : Byte) (k : Slot) (c : Cursor) (s : State)
    (hc : s.live.cursor k = some c) : Kept s (setWatch w args a k c s).2 := by
  unfold setWatch
  split_ifs
  · exact Kept.refl s
  · split
    · exact Kept.withLive (Grows.setCursor hc rfl)
    · exact Kept.refl s

theorem clearWatch_kept (w : Nat) (k : Slot) (c : Cursor) (s : State) (hc : s.live.cursor k = some c) :
    Kept s (clearWatch w k c s).2 := by
  unfold clearWatch
  split_ifs
  · exact Kept.refl s
  · split
    · exact Kept.refl s
    · exact Kept.withLive (Grows.setCursor hc rfl)

theorem readWatches_kept (ws : List Nat) (k : Slot) (c : Cursor) (s : State) (hc : s.live.cursor k = some c) :
    Kept s (readWatches ws k c s).2 := by
  unfold readWatches
  split
  · exact Kept.refl s
  · exact Kept.withLive (Grows.setCursor hc rfl)

end Sys2Proof.Machine
end

