-- ==== Sys2Proof/Laws/Layouts.lean ====
section
/-!
SUPPORT. Fields of a laid-out body (R185): where a number stands that `le` writes, in a body built by appending.
-/

namespace Sys2Proof.Machine

open Sys2Proof

/-- The field at the front of a body. -/
theorem FieldIs.head (n v : Nat) (b : List Byte) : FieldIs (le n v ++ b) 0 n v := by
  refine ⟨by simp, ?_⟩
  rw [leAt, List.drop_zero, take_le_append, leValue_le]

/-- The field that ends a body. -/
theorem FieldIs.last (n v : Nat) : FieldIs (le n v) 0 n v := by
  have h := FieldIs.head n v []
  rwa [List.append_nil] at h

/-- A field of what follows a first part stands behind it. -/
theorem FieldIs.behind {a b : List Byte} {off n v : Nat} (h : FieldIs b off n v) : FieldIs (a ++ b) (a.length + off) n v := by
  refine ⟨by have := h.1; simp; omega, ?_⟩
  rw [leAt, ← List.drop_drop, List.drop_left, ← leAt]
  exact h.2

/-- A field of a first part stands where it stood. -/
theorem FieldIs.before {a b : List Byte} {off n v : Nat} (h : FieldIs a off n v) : FieldIs (a ++ b) off n v := by
  have h1 := h.1
  refine ⟨by simp; omega, ?_⟩
  rw [leAt, List.drop_append_of_le_length (by omega), List.take_append_of_le_length (by simp; omega)]
  exact h.2

/-- The i-th part of a body made of parts of one length. -/
theorem FieldIs.part {α : Type} {f : α → List Byte} {w : Nat} (hw : ∀ x, (f x).length = w) {xs : List α} {i : Nat} {x : α}
    (hx : xs[i]? = some x) {off n v : Nat} (h : FieldIs (f x) off n v) : FieldIs (xs.flatMap f) (w * i + off) n v := by
  induction xs generalizing i with
  | nil => simp at hx
  | cons y ys ih =>
    cases i with
    | zero =>
      obtain rfl : y = x := by simpa using hx
      simpa using h.before
    | succ i =>
      have := (ih (i := i) (by simpa using hx)).behind (a := f y)
      rw [hw, ← Nat.add_assoc, show w + w * i = w * (i + 1) by ring] at this
      simpa using this

/-- The length of a body made of parts of one length. -/
theorem flatMap_length_of_eq {α : Type} {f : α → List Byte} {w : Nat} (hw : ∀ x, (f x).length = w) (xs : List α) :
    (xs.flatMap f).length = w * xs.length := by
  induction xs with
  | nil => simp
  | cons x xs ih => simp [ih, hw, Nat.mul_add, Nat.add_comm]

end Sys2Proof.Machine
end

