-- ==== Sys2Proof/Laws/PerInstr.lean ====
section
/-!
SUPPORT. What holds of each command as syntax, one lemma for each constructor: a request's code is one of Table 10-2, and a
command that a cursor's owner alone may send is a request of codes 20 to 34.
-/

namespace Sys2Proof.Laws.Forms

open Sys2Proof Sys2Proof.Machine

/-- The codes a command's form gives it (R185, Table 10-2). -/
def Statement (i : Instr) : Prop :=
  ((requestOf i).all fun x => decide (1 ≤ x.2) && decide (x.2 ≤ 42)) = true ∧
    (controlledSlot i).isSome = (requestOf i).any fun x => decide (20 ≤ x.2) && decide (x.2 ≤ 34)

theorem powerOn : Statement .powerOn := ⟨rfl, rfl⟩

theorem resetAssert : Statement .resetAssert := ⟨rfl, rfl⟩

theorem resetRelease : Statement .resetRelease := ⟨rfl, rfl⟩

theorem linkUp (p : PortId) : Statement (.linkUp p) := ⟨rfl, rfl⟩

theorem linkDown (p : PortId) : Statement (.linkDown p) := ⟨rfl, rfl⟩

theorem markInEdge : Statement .markInEdge := ⟨rfl, rfl⟩

theorem frameReceive (p : PortId) (bytes : List Byte) : Statement (.frameReceive p bytes) := ⟨rfl, rfl⟩

theorem frameError (p : PortId) : Statement (.frameError p) := ⟨rfl, rfl⟩

theorem unknownRequest (p : PortId) : Statement (.unknownRequest p) := ⟨rfl, rfl⟩

theorem frameTransmit (p : PortId) : Statement (.frameTransmit p) := ⟨rfl, rfl⟩

theorem describe (p : PortId) : Statement (.describe p) := ⟨rfl, rfl⟩

theorem subscribe (p : PortId) (set : Byte) : Statement (.subscribe p set) := ⟨rfl, rfl⟩

theorem beginCollection (p : PortId) : Statement (.beginCollection p) := ⟨rfl, rfl⟩

theorem sealHistory (p : PortId) : Statement (.sealHistory p) := ⟨rfl, rfl⟩

theorem clearHistory (p : PortId) : Statement (.clearHistory p) := ⟨rfl, rfl⟩

theorem readRecords (p : PortId) (start : ReadStart) (last : Option Nat) (count : Nat) (zeroRelative : Bool) :
    Statement (.readRecords p start last count zeroRelative) := ⟨rfl, rfl⟩

theorem readGaps (p : PortId) (start count : Nat) (recorder : Option Nat) :
    Statement (.readGaps p start count recorder) := ⟨rfl, rfl⟩

theorem setPoint (p : PortId) (first : Nat) (settings : List PointSetting) :
    Statement (.setPoint p first settings) := ⟨rfl, rfl⟩

theorem setRecorder (p : PortId) (recorder : Nat) (enabled : Bool) (tickUnit : Nat) (offset drift : Int) (fallback : Option Nat) :
    Statement (.setRecorder p recorder enabled tickUnit offset drift fallback) := ⟨rfl, rfl⟩

theorem setMapBlock (p : PortId) (recorder block : Nat) (fields : Option BlockArgs) :
    Statement (.setMapBlock p recorder block fields) := ⟨rfl, rfl⟩

theorem setStudy (p : PortId) (epoch : Option (BitVec 64)) (window threshold interval : Option Nat) :
    Statement (.setStudy p epoch window threshold interval) := ⟨rfl, rfl⟩

theorem setEventZero (p : PortId) (t : Nat) : Statement (.setEventZero p t) := ⟨rfl, rfl⟩

theorem loadSegment (p : PortId) : Statement (.loadSegment p) := ⟨rfl, rfl⟩

theorem cancelSegment (p : PortId) (recorder seq : Nat) : Statement (.cancelSegment p recorder seq) := ⟨rfl, rfl⟩

theorem readRecorder (p : PortId) (recorder : Nat) : Statement (.readRecorder p recorder) := ⟨rfl, rfl⟩

theorem setAttentionMask (p : PortId) : Statement (.setAttentionMask p) := ⟨rfl, rfl⟩

theorem clearCauses (p : PortId) : Statement (.clearCauses p) := ⟨rfl, rfl⟩

theorem openCursor (p : PortId) : Statement (.openCursor p) := ⟨rfl, rfl⟩

theorem readCursor (p : PortId) (slot : Nat) : Statement (.readCursor p slot) := ⟨rfl, rfl⟩

theorem setCursor (p : PortId) (slot : Nat) (payload : List Byte) :
    Statement (.setCursor p slot payload) := ⟨rfl, rfl⟩

theorem seek (p : PortId) (slot target : Nat) (chain : Bool) : Statement (.seek p slot target chain) := ⟨rfl, rfl⟩

theorem play (p : PortId) (slot : Nat) (restart : Bool) : Statement (.play p slot restart) := ⟨rfl, rfl⟩

theorem step (p : PortId) (slot count : Nat) : Statement (.step p slot count) := ⟨rfl, rfl⟩

theorem hold (p : PortId) (slot : Nat) : Statement (.hold p slot) := ⟨rfl, rfl⟩

theorem stop (p : PortId) (slot : Nat) : Statement (.stop p slot) := ⟨rfl, rfl⟩

theorem arm (p : PortId) (slot : Nat) : Statement (.arm p slot) := ⟨rfl, rfl⟩

theorem snapshot (p : PortId) (slot first last : Nat) (station : Option Nat) :
    Statement (.snapshot p slot first last station) := ⟨rfl, rfl⟩

theorem closeCursor (p : PortId) (slot : Nat) : Statement (.closeCursor p slot) := ⟨rfl, rfl⟩

theorem fetch (p : PortId) (slot : Nat) : Statement (.fetch p slot) := ⟨rfl, rfl⟩

theorem probe (p : PortId) (slot tag point instant : Nat) : Statement (.probe p slot tag point instant) := ⟨rfl, rfl⟩

theorem setWatch (p : PortId) (slot watch : Nat) (args : WatchArgs) (actions : Byte) :
    Statement (.setWatch p slot watch args actions) := ⟨rfl, rfl⟩

theorem clearWatch (p : PortId) (slot watch : Nat) : Statement (.clearWatch p slot watch) := ⟨rfl, rfl⟩

theorem readWatches (p : PortId) (slot : Nat) (clear : List Nat) : Statement (.readWatches p slot clear) := ⟨rfl, rfl⟩

theorem readTrail (p : PortId) (slot : Nat) : Statement (.readTrail p slot) := ⟨rfl, rfl⟩

theorem takeClock (p : PortId) (wait : Bool) : Statement (.takeClock p wait) := ⟨rfl, rfl⟩

theorem releaseClock (p : PortId) : Statement (.releaseClock p) := ⟨rfl, rfl⟩

theorem readClock (p : PortId) : Statement (.readClock p) := ⟨rfl, rfl⟩

theorem clockRun (p : PortId) : Statement (.clockRun p) := ⟨rfl, rfl⟩

theorem clockPause (p : PortId) : Statement (.clockPause p) := ⟨rfl, rfl⟩

theorem clockSet (p : PortId) (instant : Nat) : Statement (.clockSet p instant) := ⟨rfl, rfl⟩

theorem clockRate (p : PortId) (rate : Nat) : Statement (.clockRate p rate) := ⟨rfl, rfl⟩

theorem setLease (p : PortId) (seconds : Nat) : Statement (.setLease p seconds) := ⟨rfl, rfl⟩

theorem clockAdvance : Statement .clockAdvance := ⟨rfl, rfl⟩

theorem leaseExpiry : Statement .leaseExpiry := ⟨rfl, rfl⟩

theorem segmentCommit : Statement .segmentCommit := ⟨rfl, rfl⟩

theorem segmentFailure : Statement .segmentFailure := ⟨rfl, rfl⟩

theorem stepRead (k : Slot) : Statement (.stepRead k) := ⟨rfl, rfl⟩

theorem rebuildRead (k : Slot) : Statement (.rebuildRead k) := ⟨rfl, rfl⟩

theorem probeRead (k : Slot) : Statement (.probeRead k) := ⟨rfl, rfl⟩

theorem itemWritten (k : Slot) : Statement (.itemWritten k) := ⟨rfl, rfl⟩

end Sys2Proof.Laws.Forms
end

