-- ==== Sys2Proof/Laws/Placing.lean ====
section
/-!
SUPPORT. Placing (R46, R48, R50, R56): what one entry, and a list of entries in order, make of a recorder's processing, in the
words of the statements.
-/

namespace Sys2Proof.Machine

open Sys2Proof

/-- R48: one entry with its recorder time, or none where it has none in range. -/
def Proc.placeOne (v : ProcEnv) (q : Quality) (p : Proc) (x : PendingEntry × Option Nat) : Proc :=
  match x.2 with
  | none => p.raise .timeRange
  | some r => p.place v x.1 r q

/-- What placing entries makes of a processing: the candidates staged, the times of the recorder, the causes. -/
def Placed (v : ProcEnv) (q : Quality) (p y : Proc) (xs : List (PendingEntry × Option Nat)) : Prop :=
  y.staged = p.staged ++ placedAll v p.timing.driftBase q xs ∧ y.gapChanges = p.gapChanges ∧ y.opened = p.opened ∧
    y.timing =
      { p.timing with
        lastKnown := lastKnownAfter p.timing.lastKnown xs
        lastRecord := lastRecordAfter p.timing.lastRecord (placedAll v p.timing.driftBase q xs) } ∧
    RaisesMore p.raised y.raised (placingRaises v p.timing.driftBase p.timing.lastRecord q xs)

theorem placingRaises_iff (v : ProcEnv) (db last : Option Nat) (q : Quality) (xs : List (PendingEntry × Option Nat))
    (c : Cause) :
    placingRaises v db last q xs c ↔
      c = .timeRange ∧ (∃ x ∈ xs, placedOf v db q x = none) ∨ c = .backward ∧ ¬timesRise last (placedAll v db q xs) := by
  cases c <;> simp [placingRaises]

theorem inGrid_iff (g : Int) : inGrid g = true ↔ 0 ≤ g ∧ g ≤ 2 ^ 40 - 1 := by
  rw [inGrid, Bool.and_eq_true, decide_eq_true_iff, decide_eq_true_iff]
  exact Iff.rfl

/-- R46, R48: one entry. -/
theorem placeOne_placed (v : ProcEnv) (q : Quality) (p : Proc) (x : PendingEntry × Option Nat) :
    Placed v q p (p.placeOne v q x) [x] := by
  obtain ⟨x, r⟩ := x
  cases r with
  | none =>
      refine ⟨by simp [Proc.placeOne, Proc.raise, placedAll, placedOf], rfl, rfl, ?_, fun c => ?_⟩
      · simp [Proc.placeOne, Proc.raise, lastKnownAfter, lastRecordAfter, placedAll, placedOf]
      · rw [placingRaises_iff, Proc.placeOne, Proc.raise, holds_or, Bool.or_eq_true, holds_set]
        simp [placedOf, placedAll, timesRise]
  | some r =>
      by_cases hg : inGrid (correct v.entry p.timing.driftBase r) = true
      · have hi := (inGrid_iff _).1 hg
        have hp : placedAt v p.timing.driftBase q x r =
            some
              { time := (correct v.entry p.timing.driftBase r).toNat, point := x.point, state := x.state, quality := q
                cause := x.cause, source := { recorder := v.slot, seq := x.seq, idx := x.idx, recorderTime := r } } := by
          unfold placedAt
          exact if_pos hi
        have hall : placedAll v p.timing.driftBase q [(x, some r)] =
            [{ time := (correct v.entry p.timing.driftBase r).toNat, point := x.point, state := x.state, quality := q
               cause := x.cause, source := { recorder := v.slot, seq := x.seq, idx := x.idx, recorderTime := r } }] := by
          simp [placedAll, placedOf, hp]
        unfold Placed
        rw [hall]
        simp only [Proc.placeOne, Proc.place, hg, Bool.not_true, Bool.false_eq_true, if_false]
        refine ⟨?_, ?_, ?_, ?_, fun c => ?_⟩
        · split_ifs <;> rfl
        · split_ifs <;> rfl
        · split_ifs <;> rfl
        · split_ifs <;> simp [Proc.raise, lastKnownAfter, lastRecordAfter]
        · rw [placingRaises_iff, hall]
          cases hl : p.timing.lastRecord with
          | none => simp [placedOf, hp, timesRise]
          | some l =>
              by_cases hb : (correct v.entry p.timing.driftBase r).toNat < l
              · simp [hb, Proc.raise, holds_or, holds_set, placedOf, hp, timesRise]
              · simp [hb, placedOf, hp, timesRise, not_lt.1 hb]
      · have hp : placedAt v p.timing.driftBase q x r = none := by
          unfold placedAt
          exact if_neg fun h => hg ((inGrid_iff _).2 h)
        have hall : placedAll v p.timing.driftBase q [(x, some r)] = [] := by simp [placedAll, placedOf, hp]
        unfold Placed
        rw [hall]
        rw [Bool.not_eq_true] at hg
        simp only [Proc.placeOne, Proc.place, hg, Bool.not_false, if_true]
        refine ⟨by simp [Proc.raise], rfl, rfl, by simp [Proc.raise, lastKnownAfter, lastRecordAfter], fun c => ?_⟩
        rw [placingRaises_iff, hall, Proc.raise, holds_or, Bool.or_eq_true, holds_set]
        simp [placedOf, hp, timesRise]

theorem placedAll_append (v : ProcEnv) (db : Option Nat) (q : Quality) (xs ys : List (PendingEntry × Option Nat)) :
    placedAll v db q (xs ++ ys) = placedAll v db q xs ++ placedAll v db q ys := List.filterMap_append

theorem lastRecordAfter_append (last : Option Nat) (as bs : List Candidate) :
    lastRecordAfter last (as ++ bs) = lastRecordAfter (lastRecordAfter last as) bs := by
  unfold lastRecordAfter
  cases bs using List.reverseRecOn <;> simp

theorem lastKnownAfter_append (last : Option Nat) (xs ys : List (PendingEntry × Option Nat)) :
    lastKnownAfter last (xs ++ ys) = lastKnownAfter (lastKnownAfter last xs) ys := by
  unfold lastKnownAfter
  rw [List.filterMap_append]
  cases ys.filterMap Prod.snd using List.reverseRecOn <;> simp

theorem pairwise_le_snoc (ts : List Nat) (t : Nat) :
    (ts ++ [t]).Pairwise (· ≤ ·) ↔ ts.Pairwise (· ≤ ·) ∧ ∀ l ∈ ts.getLast?, l ≤ t := by
  rw [List.pairwise_append]
  simp only [List.pairwise_singleton, true_and, List.mem_singleton, forall_eq]
  refine ⟨fun h => ⟨h.1, fun l hl => h.2 l (List.mem_of_getLast? hl)⟩, fun h => ⟨h.1, fun a ha => ?_⟩⟩
  cases ts using List.reverseRecOn with
  | nil => cases ha
  | append_singleton ts b =>
      have hb : b ≤ t := h.2 b (by simp)
      rcases List.mem_append.1 ha with ha | ha
      · exact (((List.pairwise_append.1 h.1).2.2) a ha b (by simp)).trans hb
      · rw [List.mem_singleton.1 ha]; exact hb

/-- The last of the times that `timesRise` compares. -/
theorem last_of_times (last : Option Nat) (cs : List Candidate) :
    (last.toList ++ cs.map Candidate.time).getLast? = lastRecordAfter last cs := by
  unfold lastRecordAfter
  cases cs using List.reverseRecOn with
  | nil => cases last <;> simp
  | append_singleton cs c => simp

theorem timesRise_snoc (last : Option Nat) (cs : List Candidate) (c : Candidate) :
    timesRise last (cs ++ [c]) ↔ timesRise last cs ∧ timesRise (lastRecordAfter last cs) [c] := by
  unfold timesRise
  rw [List.map_append, ← List.append_assoc, List.map_singleton, pairwise_le_snoc, last_of_times]
  refine and_congr Iff.rfl ?_
  cases lastRecordAfter last cs <;> simp

theorem raises_both {A T B E E₁ E₂ R R₁ R₂ : Prop} (he : E ↔ E₁ ∨ E₂) (hr : R ↔ R₁ ∧ R₂) :
    (A ∨ T ∧ E₁ ∨ B ∧ ¬R₁) ∨ T ∧ E₂ ∨ B ∧ ¬R₂ ↔ A ∨ T ∧ E ∨ B ∧ ¬R := by
  rw [he, hr]
  tauto

/-- R48: entries in order. -/
theorem placeAll_placed (v : ProcEnv) (q : Quality) (p : Proc) (xs : List (PendingEntry × Option Nat)) :
    Placed v q p (xs.foldl (Proc.placeOne v q) p) xs := by
  induction xs using List.reverseRecOn with
  | nil =>
      refine ⟨by simp [placedAll], rfl, rfl, by simp [placedAll, lastKnownAfter, lastRecordAfter], fun c => ?_⟩
      rw [placingRaises_iff]
      cases h : p.timing.lastRecord <;> simp [placedAll, timesRise]
  | append_singleton xs x ih =>
      rw [List.foldl_append, List.foldl_cons, List.foldl_nil]
      generalize xs.foldl (Proc.placeOne v q) p = y at ih
      obtain ⟨s1, g1, o1, t1, r1⟩ := ih
      obtain ⟨s2, g2, o2, t2, r2⟩ := placeOne_placed v q y x
      have hd : y.timing.driftBase = p.timing.driftBase := by rw [t1]
      have hl : y.timing.lastRecord = lastRecordAfter p.timing.lastRecord (placedAll v p.timing.driftBase q xs) := by
        rw [t1]
      rw [hd] at s2 t2 r2
      rw [hl] at t2 r2
      refine ⟨by rw [s2, s1, placedAll_append, List.append_assoc], g2.trans g1, o2.trans o1, ?_, fun c => ?_⟩
      · rw [t2, placedAll_append, lastRecordAfter_append, lastKnownAfter_append, t1]
      · rw [r2 c, r1 c, placingRaises_iff, placingRaises_iff, placingRaises_iff]
        refine raises_both ?_ ?_
        · simp [or_and_right, exists_or]
        · rw [placedAll_append]
          cases hx : placedAll v p.timing.driftBase q [x] with
          | nil =>
              rw [List.append_nil]
              cases hlast : lastRecordAfter p.timing.lastRecord (placedAll v p.timing.driftBase q xs) <;> simp [timesRise]
          | cons a as =>
              have : as = [] := by
                have h1 : (placedAll v p.timing.driftBase q [x]).length ≤ 1 := List.length_filterMap_le _ _
                rw [hx] at h1
                simpa using h1
              subst this
              exact timesRise_snoc _ _ _

/-! ### Spills, and the entries an anchor back-places -/

theorem spillEntry_eq (v : ProcEnv) (base : Nat) (p : Proc) (x : PendingEntry) :
    p.spillEntry v base x =
      p.placeOne v .estimated
        (x, if base + x.ticks * v.entry.tickUnit ≤ 2 ^ 48 - 1 then some (base + x.ticks * v.entry.tickUnit) else none) := by
  unfold Proc.spillEntry Proc.placeOne
  by_cases h : base + x.ticks * v.entry.tickUnit ≤ 2 ^ 48 - 1
  · rw [if_pos h]
    exact if_neg (Nat.not_lt.2 h)
  · rw [if_neg h]
    exact if_pos (Nat.lt_of_not_le h)

/-- R56: the entries of a spill are placed at their distance from the estimate base. -/
theorem spill_placed (v : ProcEnv) (base : Nat) (p : Proc) (xs : List PendingEntry) :
    Placed v .estimated p (xs.foldl (Proc.spillEntry v base) p) (estimated base v.entry.tickUnit xs) := by
  have h : xs.foldl (Proc.spillEntry v base) p =
      (estimated base v.entry.tickUnit xs).foldl (Proc.placeOne v .estimated) p := by
    unfold estimated
    rw [List.foldl_map]
    congr 1
    funext y x
    exact spillEntry_eq v base y x
  rw [h]
  exact placeAll_placed _ _ _ _

theorem backPlaceEntry_eq (v : ProcEnv) (a ticks : Nat) (q : AnchorQuality) (p : Proc) (x : PendingEntry) :
    p.backPlaceEntry v a ticks q x =
      p.placeOne v q.quality
        (x, if (ticks - x.ticks) * v.entry.tickUnit ≤ a then some (a - (ticks - x.ticks) * v.entry.tickUnit) else none) := by
  unfold Proc.backPlaceEntry Proc.placeOne
  by_cases h : (ticks - x.ticks) * v.entry.tickUnit ≤ a
  · rw [if_pos h]
    exact if_neg (Nat.not_lt.2 h)
  · rw [if_neg h]
    exact if_pos (Nat.lt_of_not_le h)

/-- R50: the entries that an anchor back-places. -/
theorem backPlace_placed (v : ProcEnv) (a ticks : Nat) (q : AnchorQuality) (p : Proc) (xs : List PendingEntry) :
    Placed v q.quality p (xs.foldl (Proc.backPlaceEntry v a ticks q) p) (backPlaced a ticks v.entry.tickUnit xs) := by
  have h : xs.foldl (Proc.backPlaceEntry v a ticks q) p =
      (backPlaced a ticks v.entry.tickUnit xs).foldl (Proc.placeOne v q.quality) p := by
    unfold backPlaced
    rw [List.foldl_map]
    congr 1
    funext y x
    exact backPlaceEntry_eq v a ticks q y x
  rw [h]
  exact placeAll_placed _ _ _ _

end Sys2Proof.Machine
end

