-- ==== Sys2Proof/Laws/Store.lean ====
section
/-!
SUPPORT. The order of keys (R2), the place a record takes, the next record after a position, the match of a candidate, the
identity check (R14), the reach of a commit (R21), and what the segment in progress comes to (R66, R67).
-/

namespace Sys2Proof.Machine

open Sys2Proof

theorem keyBefore_iff (a b : Key) :
    keyBefore a b = true ↔
      a.time < b.time ∨ a.time = b.time ∧ (a.slot < b.slot ∨ a.slot = b.slot ∧
        (a.seq < b.seq ∨ a.seq = b.seq ∧ a.idx < b.idx)) := by
  simp [keyBefore]

theorem keyBefore_irrefl (a : Key) : keyBefore a a = false := by
  rw [Bool.eq_false_iff, Ne, keyBefore_iff]
  omega

theorem keyBefore_trans {a b c : Key} (h : keyBefore a b = true) (g : keyBefore b c = true) : keyBefore a c = true := by
  rw [keyBefore_iff] at *
  omega

/-- Of two different keys one is before the other. -/
theorem keyBefore_total {a b : Key} (h : a ≠ b) : keyBefore a b = true ∨ keyBefore b a = true := by
  rw [keyBefore_iff, keyBefore_iff]
  by_contra hn
  apply h
  cases a
  cases b
  simp only [Key.mk.injEq] at *
  omega

/-- A record takes its place among the others. -/
theorem insertRecord_perm (r : Record) (rs : List Record) : (insertRecord r rs).Perm (r :: rs) := by
  induction rs with
  | nil => exact List.Perm.refl _
  | cons x xs ih =>
    unfold insertRecord
    split
    · exact List.Perm.refl _
    · exact (ih.cons x).trans (List.Perm.swap r x xs)

/-- Where a record of a new key takes its place, key order is kept. -/
theorem insertRecord_sorted {r : Record} {rs : List Record}
    (h : rs.Pairwise fun a b => keyBefore a.key b.key = true) (hn : ∀ x ∈ rs, x.key ≠ r.key) :
    (insertRecord r rs).Pairwise fun a b => keyBefore a.key b.key = true := by
  induction rs with
  | nil => simp [insertRecord]
  | cons x xs ih =>
    rw [List.pairwise_cons] at h
    unfold insertRecord
    split
    · rename_i hr
      refine List.pairwise_cons.mpr ⟨fun y hy => ?_, List.pairwise_cons.mpr h⟩
      rcases List.mem_cons.mp hy with rfl | hy
      · exact hr
      · exact keyBefore_trans hr (h.1 y hy)
    · rename_i hr
      refine List.pairwise_cons.mpr ⟨fun y hy => ?_, ih h.2 fun z hz => hn z (List.mem_cons_of_mem _ hz)⟩
      rcases List.mem_cons.mp ((insertRecord_perm r xs).mem_iff.mp hy) with rfl | hy
      · exact (keyBefore_total (hn x List.mem_cons_self)).resolve_right hr
      · exact h.1 y hy

/-- R2: the place a record takes: no record before it has a later key, and the one after it has. -/
theorem insertRecord_place (r : Record) (rs : List Record) :
    ∃ before after : List Record, rs = before ++ after ∧ insertRecord r rs = before ++ r :: after ∧
      (∀ x ∈ before, keyBefore r.key x.key = false) ∧ ∀ x ∈ after.head?, keyBefore r.key x.key = true := by
  induction rs with
  | nil => exact ⟨[], [], rfl, rfl, by simp, by simp⟩
  | cons x xs ih =>
    unfold insertRecord
    split
    · exact ⟨[], x :: xs, rfl, rfl, by simp, by simpa⟩
    · rename_i hx
      obtain ⟨a, b, h1, h2, h3, h4⟩ := ih
      refine ⟨x :: a, b, by rw [h1, List.cons_append], by rw [h2, List.cons_append], fun y hy => ?_, h4⟩
      rcases List.mem_cons.mp hy with rfl | hy
      · simpa using hx
      · exact h3 y hy

/-- The next record after a position is a record, and lies after it. -/
theorem nextAfter_some {pos : Option Key} {rs : List Record} {r : Record} (h : nextAfter pos rs = some r) :
    r ∈ rs ∧ keyAfter r.key pos = true := by
  induction rs with
  | nil => simp [nextAfter] at h
  | cons x xs ih =>
    unfold nextAfter at h
    split at h
    · cases h
      exact ⟨List.mem_cons_self, ‹_›⟩
    · exact ⟨List.mem_cons_of_mem _ (ih h).1, (ih h).2⟩

theorem nextAfter_none {pos : Option Key} {rs : List Record} :
    nextAfter pos rs = none ↔ ∀ r ∈ rs, keyAfter r.key pos = false := by
  induction rs with
  | nil => simp [nextAfter]
  | cons x xs ih =>
    unfold nextAfter
    split <;> simp_all

/-- A match is a record that matches (R16). -/
theorem findMatch_some {window : Nat} {c : Candidate} {rs : List Record} {m : Record}
    (h : findMatch window c rs = some m) : m ∈ rs ∧ m.matches window c = true := by
  have key : ∀ (rs : List Record) (best : Option Record),
      rs.foldl (nearerMatch window c) best = some m →
        best = some m ∨ (m ∈ rs ∧ m.matches window c = true) := by
    intro rs
    induction rs with
    | nil => intro best hb; exact .inl hb
    | cons x xs ih =>
      intro best hb
      rcases ih _ hb with hx | ⟨hx, hy⟩
      · unfold nearerMatch at hx
        split at hx
        · rename_i hm
          split at hx
          · cases hx; exact .inr ⟨List.mem_cons_self, hm⟩
          · split at hx
            · cases hx; exact .inr ⟨List.mem_cons_self, hm⟩
            · exact .inl hx
        · exact .inl hx
      · exact .inr ⟨List.mem_cons_of_mem _ hx, hy⟩
  rcases key rs none h with h | h
  · cases h
  · exact h

/-! ### What a commit is judged and told by (R4, R14, R21, R66) -/

/-- R4: the greatest time is a record's, and no record's is greater. -/
theorem greatestTime_eq {rs : List Record} {t : Nat} :
    greatestTime rs = some t ↔ (∃ r ∈ rs, r.time = t) ∧ ∀ r ∈ rs, r.time ≤ t := by
  induction rs generalizing t with
  | nil => simp [greatestTime]
  | cons x xs ih =>
    unfold greatestTime
    cases h : greatestTime xs with
    | none =>
      have : xs = [] := by cases xs with
        | nil => rfl
        | cons y ys => simp [greatestTime] at h
      subst this
      simp only [Option.elim_none, Option.some.injEq, List.mem_singleton, forall_eq, exists_eq_left]
      exact ⟨fun e => ⟨e, e.le⟩, fun e => e.1⟩
    | some m =>
      obtain ⟨⟨r, hr, hm⟩, hle⟩ := ih.1 h
      simp only [Option.elim_some, Option.some.injEq, List.mem_cons, forall_eq_or_imp, exists_eq_or_imp]
      refine ⟨fun e => ?_, fun e => ?_⟩
      · subst e
        refine ⟨?_, le_max_left _ _, fun y hy => (hle y hy).trans (le_max_right _ _)⟩
        rcases max_choice x.time m with g | g
        · exact .inl g.symm
        · exact .inr ⟨r, hr, by rw [g, hm]⟩
      · have h1 := e.2.2 r hr
        rcases e.1 with g | ⟨y, hy, g⟩
        · rw [g, max_eq_left]; omega
        · have := hle y hy
          rw [max_eq_right] <;> omega

theorem greatestTime_none {rs : List Record} : greatestTime rs = none ↔ rs = [] := by
  cases rs <;> simp [greatestTime]

/-- R21: the earliest of some times is one of them, and none is below it. -/
theorem earliestOf_eq {ts : List Nat} {t : Nat} : earliestOf ts = some t ↔ t ∈ ts ∧ ∀ x ∈ ts, t ≤ x := by
  induction ts generalizing t with
  | nil => simp [earliestOf]
  | cons y ys ih =>
    unfold earliestOf
    cases h : earliestOf ys with
    | none =>
      have : ys = [] := by cases ys with
        | nil => rfl
        | cons z zs => simp [earliestOf] at h
      subst this
      simp only [Option.elim_none, Option.some.injEq, List.mem_singleton, forall_eq]
      exact ⟨fun e => ⟨e.symm, e.ge⟩, fun e => e.1.symm⟩
    | some m =>
      obtain ⟨hm, hle⟩ := ih.1 h
      simp only [Option.elim_some, Option.some.injEq, List.mem_cons, forall_eq_or_imp]
      refine ⟨fun e => ?_, fun e => ?_⟩
      · subst e
        refine ⟨?_, min_le_left _ _, fun z hz => (min_le_right _ _).trans (hle z hz)⟩
        rcases min_choice y m with g | g
        · exact .inl g
        · exact .inr (by rw [g]; exact hm)
      · have h1 := e.2.2 m hm
        rcases e.1 with g | g
        · rw [g, min_eq_left]; omega
        · have := hle t g
          rw [min_eq_right] <;> omega

theorem earliestOf_none {ts : List Nat} : earliestOf ts = none ↔ ts = [] := by
  cases ts <;> simp [earliestOf]

/-- R20, R21: the starts that count toward the reach are those of the gaps added or closed. -/
theorem mem_gapStarts {gs : List Gap} {cs : List GapChange} {t : Nat} :
    t ∈ gapStarts gs cs ↔
      (∃ r lost, GapChange.opening r t lost ∈ cs) ∨
        ∃ i x g, GapChange.closing i x ∈ cs ∧ gs[i]? = some g ∧ g.start = t := by
  induction cs with
  | nil => simp [gapStarts]
  | cons c cs ih =>
    cases c with
    | opening r start lost =>
      simp only [gapStarts, List.mem_cons, ih, GapChange.opening.injEq, reduceCtorEq, false_or]
      constructor
      · rintro (rfl | ⟨a, b, h⟩ | h)
        · exact .inl ⟨r, lost, .inl ⟨rfl, rfl, rfl⟩⟩
        · exact .inl ⟨a, b, .inr h⟩
        · exact .inr h
      · rintro (⟨a, b, ⟨-, rfl, -⟩ | h⟩ | h)
        · exact .inl rfl
        · exact .inr (.inl ⟨a, b, h⟩)
        · exact .inr (.inr h)
    | closing i x =>
      simp only [gapStarts, List.mem_append, List.mem_cons, ih, GapChange.closing.injEq, reduceCtorEq, false_or,
        Option.mem_toList, Option.map_eq_some_iff]
      constructor
      · rintro (⟨g, h1, h2⟩ | h | ⟨a, b, g, h, k⟩)
        · exact .inr ⟨i, x, g, .inl ⟨rfl, rfl⟩, h1, h2⟩
        · exact .inl h
        · exact .inr ⟨a, b, g, .inr h, k⟩
      · rintro (h | ⟨a, b, g, ⟨rfl, -⟩ | h, k⟩)
        · exact .inr (.inl h)
        · exact .inl ⟨g, k⟩
        · exact .inr (.inr ⟨a, b, g, h, k⟩)
    | addLost i lost => simp [gapStarts, ih]

/-- R14: one entry of one segment. -/
theorem Source.same_iff {a b : Source} :
    a.same b = true ↔ a.recorder = b.recorder ∧ a.seq = b.seq ∧ a.idx = b.idx := by
  simp [Source.same, and_assoc]

/-- R14: what the identity check finds, among the candidates themselves too (log 15). -/
theorem identityFails_iff {rs : List Record} {cs : List Candidate} :
    identityFails rs cs = true ↔
      (∃ c ∈ cs, ∃ r ∈ rs, ∃ x ∈ r.sources, c.source.same x = true) ∨
        ¬cs.Pairwise fun a b => ¬a.source.same b.source = true := by
  induction cs with
  | nil => simp [identityFails]
  | cons c cs ih =>
    simp only [identityFails, Bool.or_eq_true, ih, sourceHeld, List.any_eq_true, List.mem_cons, exists_eq_or_imp,
      List.pairwise_cons, not_and_or, not_forall, not_not, exists_prop]
    exact or_or_or_comm

/-- R66, R67: what the segment in progress comes to is the processing of the oldest queued segment. -/
theorem verdict_iff {s : State} {g : QueuedSegment} {v : Verdict} :
    s.verdict = some (g, v) ↔
      ∃ (rest : List QueuedSegment) (w : Work), s.merge.queue = g :: rest ∧ s.merge.work = some w ∧
        v = processSegment (s.procEnv g.recorder) w g := by
  unfold State.verdict
  cases s.merge.queue <;> cases s.merge.work <;> simp
  rintro rfl
  exact eq_comm

end Sys2Proof.Machine
end

