-- ==== Sys2Proof/Laws/Replay.lean ====
section
/-!
SUPPORT. Images and the store (R92, R101, R157): the cell that a put, an erase or a restore leaves, and the image that the
next record makes of one that agrees with the store.
-/

namespace Sys2Proof.Machine

open Sys2Proof

/-- R92, R113: the point's entry is the cell put, and every other stands. -/
theorem Image.cell_put (img : Image) (p q : PointId) (c : ImageCell) :
    Image.cell (Image.put img p c) q = if p = q then some c else Image.cell img q := by
  induction img with
  | nil => simp [Image.put, Image.cell]
  | cons x xs ih =>
    obtain ⟨y, d⟩ := x
    unfold Image.put
    split
    · rename_i hy
      subst hy
      by_cases h : y = q <;> simp [Image.cell, h]
    · split
      · by_cases h : p = q <;> simp [Image.cell, h]
      · rename_i hy _
        by_cases h : y = q
        · subst h
          simp [Image.cell, Ne.symm hy]
        · simp [Image.cell, h, ih]

/-- An entry that was put where there was none is erased. -/
theorem Image.cell_erase_put {img : Image} {p : PointId} (h : Image.cell img p = none) (q : PointId) (c : ImageCell) :
    Image.cell (Image.erase (Image.put img p c) p) q = Image.cell img q := by
  induction img with
  | nil => simp [Image.put, Image.erase]
  | cons x xs ih =>
    obtain ⟨y, d⟩ := x
    have hy : y ≠ p := fun e => by simp [Image.cell, e] at h
    have hx : Image.cell xs p = none := by simpa [Image.cell, hy] using h
    by_cases hv : p.val < y.val
    · simp [Image.put, Image.erase, hy, hv]
    · simp [Image.put, Image.erase, Image.cell, hy, hv, ih hx]

/-- R157: the restore of a step takes back what the step put. -/
theorem Image.cell_restore_put (img : Image) (p q : PointId) (c : ImageCell) :
    Image.cell (Image.restore (Image.put img p c) p (Image.cell img p)) q = Image.cell img q := by
  cases h : Image.cell img p with
  | none => exact Image.cell_erase_put h q c
  | some d =>
    rw [Image.restore, Image.cell_put, Image.cell_put]
    by_cases e : p = q
    · subst e; simp [h]
    · simp [e]

/-- Images with the same cells agree with the store alike. -/
theorem Agrees.congr {rs : List Record} {pos : Option Key} {a b : Image} (h : Agrees rs pos a)
    (e : ∀ p : PointId, Image.cell b p = Image.cell a p) : Agrees rs pos b := fun p => (e p).trans (h p)

/-- R26: the Initial Image stands before the first record. -/
theorem agrees_initial (rs : List Record) : Agrees rs none [] := fun p => by
  simp [Image.cell, keyAfter]

/-- The next record parts the store: those before it lie at or before the position. -/
theorem nextAfter_parts {pos : Option Key} {rs : List Record} {r : Record} (h : nextAfter pos rs = some r) :
    ∃ xs ys, rs = xs ++ r :: ys ∧ (∀ x ∈ xs, keyAfter x.key pos = false) ∧ keyAfter r.key pos = true := by
  induction rs with
  | nil => simp [nextAfter] at h
  | cons x rest ih =>
    unfold nextAfter at h
    split at h
    · cases h
      exact ⟨[], rest, rfl, by simp, ‹_›⟩
    · rename_i hx
      obtain ⟨xs, ys, rfl, hb, hr⟩ := ih h
      refine ⟨x :: xs, ys, rfl, fun y hy => ?_, hr⟩
      rcases List.mem_cons.mp hy with rfl | hy
      · simpa using hx
      · exact hb y hy

/-- A key after one that is after a position is after the position. -/
theorem keyAfter_trans {a b : Key} {pos : Option Key} (h : keyAfter a pos = true) (g : keyBefore a b = true) :
    keyAfter b pos = true := by
  cases pos with
  | none => rfl
  | some q => exact keyBefore_trans (b := a) h g

/-- R92, R101, R113: the next record applied to an image that agrees with the store makes one that agrees at its key. -/
theorem Agrees.next {pos : Option Key} {rs : List Record} {r : Record} {img : Image}
    (ho : rs.Pairwise fun a b => keyBefore a.key b.key = true) (hn : nextAfter pos rs = some r)
    (h : Agrees rs pos img) : Agrees rs (some r.key) (Image.put img r.point r.cell) := by
  obtain ⟨xs, ys, rfl, hb, hr⟩ := nextAfter_parts hn
  rw [List.pairwise_append, List.pairwise_cons] at ho
  have before : ∀ x ∈ xs, keyBefore r.key x.key = false := fun x hx => by
    by_contra hc
    have := keyBefore_trans (ho.2.2 x hx r List.mem_cons_self) (by simpa using hc)
    simp [keyBefore_irrefl] at this
  intro p
  have left : ∀ pos', (∀ x ∈ xs, keyAfter x.key pos' = false) →
      (xs.filter fun x => x.point == p && !keyAfter x.key pos') = xs.filter fun x => x.point == p := fun pos' hp =>
    List.filter_congr fun x hx => by simp [hp x hx]
  have right : ∀ pos', (∀ y ∈ ys, keyAfter y.key pos' = true) →
      (ys.filter fun x => x.point == p && !keyAfter x.key pos') = [] := fun pos' hp =>
    List.filter_eq_nil_iff.mpr fun y hy => by simp [hp y hy]
  have hp := h p
  rw [List.filter_append, left pos hb, List.filter_cons_of_neg (by simp [hr]),
    right pos fun y hy => keyAfter_trans hr (ho.2.1.1 y hy)] at hp
  rw [Image.cell_put, List.filter_append, left (some r.key) before]
  by_cases e : r.point = p
  · rw [List.filter_cons_of_pos (by simp [e, keyAfter, keyBefore_irrefl]),
      right (some r.key) fun y hy => ho.2.1.1 y hy]
    simp [e]
  · rw [List.filter_cons_of_neg (by simp [e]), right (some r.key) fun y hy => ho.2.1.1 y hy]
    simp [e, hp]

/-- The position that a record read leaves is that record's key. -/
theorem AtRecord.next {pos : Option Key} {rs : List Record} {r : Record} (hn : nextAfter pos rs = some r) :
    AtRecord rs (some r.key) := fun _ h => ⟨r, (nextAfter_some hn).1, Option.some.inj h⟩

end Sys2Proof.Machine
end

