-- ==== Sys2Proof/WellFormed.lean ====
section
/-!
DEFINITION. Which commands a link or the part can form at all: numbers fit the fields that carry them and lists fit a
frame. A command that a rule refuses (BAD_ARGUMENT) is well formed here; `exec` answers ill-formed ones too.
-/

namespace Sys2Proof

/-- Fits a one-byte field: slots, blocks, counts of one byte (11_layouts.md). -/
def fitsByte (n : Nat) : Bool := decide (n < 256)

/-- Fits a two-byte field: sequences, points, tags (11_layouts.md). -/
def fitsHalf (n : Nat) : Bool := decide (n < 65536)

/-- Fits the 8 bytes of a time; all bytes 0xFF is absence, not a time (R187). -/
def fitsTime (t : Nat) : Bool := decide (t < 2 ^ 64 - 1)

/-- A number that may be absent fits when it is absent or its value does. -/
def fitsOpt (f : Nat → Bool) (o : Option Nat) : Bool := o.elim true f

/-- A key's four fields fit the widths of Table 11-9. -/
def Key.fits (k : Key) : Bool := fitsTime k.time && fitsByte k.slot && fitsHalf k.seq && fitsHalf k.idx

/-- A signed correction fits 8 bytes in two's complement. -/
def fitsSigned (i : Int) : Bool := decide (-(2 ^ 63) ≤ i) && decide (i < 2 ^ 63)

/-- A watch's parameters fit their fields. -/
def WatchArgs.fits : WatchArgs → Bool
  | .pointState point st => fitsHalf point && fitsByte st
  | .stationCount station kind st k => fitsHalf station && fitsByte kind && fitsByte st && fitsHalf k
  | .quality th => fitsByte th
  | .instant t => fitsTime t
  | .gap r => fitsOpt fitsByte r
  | .undefinedKind code => fitsByte code && !(decide (1 ≤ code) && decide (code ≤ 5))

/-- The commands that can be formed. -/
def Instr.wellFormed : Instr → Bool
  | .frameReceive _ bytes => decide (bytes.length ≤ 12 + 65535 + 4)
  | .readRecords _ (.instant t) last count _ => fitsTime t && fitsOpt fitsTime last && fitsByte count
  | .readRecords _ (.key k) last count _ => k.fits && fitsOpt fitsTime last && fitsByte count
  | .readGaps _ start count r => fitsHalf start && fitsByte count && fitsOpt fitsByte r
  | .setPoint _ first settings =>
      fitsHalf first && decide (settings.length ≤ Config.maxBody) &&
        settings.all fun s => fitsHalf s.station && fitsByte s.kindCode && fitsByte s.stateCode
  | .setRecorder _ r _ unit offset drift fb =>
      fitsByte r && fitsHalf unit && fitsSigned offset && fitsSigned drift && fitsOpt fitsTime fb
  | .setMapBlock _ r b none => fitsByte r && fitsByte b
  | .setMapBlock _ r b (some f) =>
      fitsByte r && fitsByte b && fitsHalf f.first && fitsHalf f.count && fitsHalf f.base
  | .setStudy _ _ w th iv => fitsOpt fitsTime w && fitsOpt fitsTime th && fitsOpt fitsTime iv
  | .setEventZero _ t => fitsTime t
  | .cancelSegment _ r q => fitsByte r && fitsHalf q
  | .readRecorder _ r => fitsByte r
  | .readCursor _ k | .play _ k _ | .hold _ k | .stop _ k | .arm _ k | .closeCursor _ k | .fetch _ k
  | .readTrail _ k => fitsByte k
  | .setCursor _ k payload => fitsByte k && decide (payload.length ≤ Config.maxBody)
  | .seek _ k t _ => fitsByte k && fitsTime t
  | .step _ k n => fitsByte k && fitsHalf n
  | .snapshot _ k a b st => fitsByte k && fitsHalf a && fitsHalf b && fitsOpt fitsHalf st
  | .probe _ k tag point t => fitsByte k && fitsHalf tag && fitsHalf point && fitsTime t
  | .setWatch _ k w args _ => fitsByte k && fitsByte w && args.fits
  | .clearWatch _ k w => fitsByte k && fitsByte w
  | .readWatches _ k ws => fitsByte k && ws.all fitsByte
  | .clockSet _ t => fitsTime t
  | .clockRate _ r => fitsTime r
  | .setLease _ n => fitsTime n
  | .powerOn | .resetAssert | .resetRelease | .linkUp _ | .linkDown _ | .markInEdge | .frameError _
  | .unknownRequest _ | .frameTransmit _ | .describe _ | .subscribe _ _ | .beginCollection _ | .sealHistory _
  | .clearHistory _ | .loadSegment _ | .setAttentionMask _ | .clearCauses _ | .openCursor _ | .takeClock _ _
  | .releaseClock _ | .readClock _ | .clockRun _ | .clockPause _ | .clockAdvance | .leaseExpiry
  | .segmentCommit | .segmentFailure | .stepRead _ | .rebuildRead _ | .probeRead _ | .itemWritten _ => true

end Sys2Proof
end

