-- ==== Sys2Proof/Tests/Slice0.lean ====
section
/-!
SUPPORT. The model's own tests: the checks of WellFormed each on a term it refuses, worked values of the spec, small steps, and
for every obligation with hypotheses a state and operands that meet them.
-/

namespace Sys2Proof.Tests

open Sys2Proof Sys2Proof.Machine

-- One theorem at a time: each kernel evaluation would otherwise hold a thread while it waits for those before it.
set_option Elab.async false

/-! ### WellFormed: one ill-formed term for each check -/

theorem test_wf_frame : Instr.wellFormed (.frameReceive 0 (List.replicate 65552 0)) = false := by decide +kernel

theorem test_wf_frame_ok : Instr.wellFormed (.frameReceive 0 (List.replicate 65551 0)) = true := by decide +kernel

theorem test_wf_readRecords_time : Instr.wellFormed (.readRecords 0 (.instant (2 ^ 64 - 1)) none 1 false) = false := by
  decide

theorem test_wf_readRecords_key : Instr.wellFormed (.readRecords 0 (.key ⟨0, 256, 0, 0⟩) none 1 false) = false := by
  decide

theorem test_wf_readRecords_last : Instr.wellFormed (.readRecords 0 (.instant 0) (some (2 ^ 64)) 1 false) = false := by
  decide

theorem test_wf_readRecords_count : Instr.wellFormed (.readRecords 0 (.key ⟨0, 0, 0, 0⟩) none 256 false) = false := by
  decide

theorem test_wf_readGaps : Instr.wellFormed (.readGaps 0 65536 1 none) = false ∧
    Instr.wellFormed (.readGaps 0 0 256 none) = false ∧ Instr.wellFormed (.readGaps 0 0 1 (some 256)) = false := by decide

theorem test_wf_setPoint : Instr.wellFormed (.setPoint 0 65536 []) = false ∧
    Instr.wellFormed (.setPoint 0 0 [⟨true, 65536, 1, 1⟩]) = false ∧
    Instr.wellFormed (.setPoint 0 0 [⟨true, 0, 256, 1⟩]) = false ∧
    Instr.wellFormed (.setPoint 0 0 [⟨true, 0, 1, 256⟩]) = false := by decide

theorem test_wf_setPoint_length :
    Instr.wellFormed (.setPoint 0 0 (List.replicate 16393 ⟨true, 0, 1, 1⟩)) = false := by decide +kernel

theorem test_wf_setRecorder : Instr.wellFormed (.setRecorder 0 256 true 1 0 0 none) = false ∧
    Instr.wellFormed (.setRecorder 0 0 true 65536 0 0 none) = false ∧
    Instr.wellFormed (.setRecorder 0 0 true 1 (2 ^ 63) 0 none) = false ∧
    Instr.wellFormed (.setRecorder 0 0 true 1 0 (-(2 ^ 63) - 1) none) = false ∧
    Instr.wellFormed (.setRecorder 0 0 true 1 0 0 (some (2 ^ 64 - 1))) = false := by decide

theorem test_wf_setMapBlock : Instr.wellFormed (.setMapBlock 0 256 0 none) = false ∧
    Instr.wellFormed (.setMapBlock 0 0 256 none) = false ∧
    Instr.wellFormed (.setMapBlock 0 0 0 (some ⟨65536, 1, 0⟩)) = false ∧
    Instr.wellFormed (.setMapBlock 0 0 0 (some ⟨0, 65536, 0⟩)) = false ∧
    Instr.wellFormed (.setMapBlock 0 0 0 (some ⟨0, 1, 65536⟩)) = false := by decide

theorem test_wf_setStudy : Instr.wellFormed (.setStudy 0 none (some (2 ^ 64)) none none) = false ∧
    Instr.wellFormed (.setStudy 0 none none (some (2 ^ 64)) none) = false ∧
    Instr.wellFormed (.setStudy 0 none none none (some (2 ^ 64))) = false := by decide

theorem test_wf_times : Instr.wellFormed (.setEventZero 0 (2 ^ 64 - 1)) = false ∧
    Instr.wellFormed (.clockSet 0 (2 ^ 64)) = false ∧ Instr.wellFormed (.clockRate 0 (2 ^ 64)) = false ∧
    Instr.wellFormed (.setLease 0 (2 ^ 64)) = false ∧ Instr.wellFormed (.seek 0 0 (2 ^ 64) false) = false := by decide

theorem test_wf_slots : Instr.wellFormed (.readCursor 0 256) = false ∧ Instr.wellFormed (.play 0 256 false) = false ∧
    Instr.wellFormed (.seek 0 256 0 false) = false ∧ Instr.wellFormed (.step 0 256 1) = false ∧
    Instr.wellFormed (.step 0 0 65536) = false ∧ Instr.wellFormed (.setCursor 0 256 []) = false ∧
    Instr.wellFormed (.readRecorder 0 256) = false ∧ Instr.wellFormed (.cancelSegment 0 256 0) = false ∧
    Instr.wellFormed (.cancelSegment 0 0 65536) = false := by decide

theorem test_wf_setCursor_length : Instr.wellFormed (.setCursor 0 0 (List.replicate 16393 0)) = false := by
  decide +kernel

theorem test_wf_snapshot : Instr.wellFormed (.snapshot 0 256 0 0 none) = false ∧
    Instr.wellFormed (.snapshot 0 0 65536 0 none) = false ∧ Instr.wellFormed (.snapshot 0 0 0 65536 none) = false ∧
    Instr.wellFormed (.snapshot 0 0 0 0 (some 65536)) = false := by decide

theorem test_wf_probe : Instr.wellFormed (.probe 0 256 0 0 0) = false ∧ Instr.wellFormed (.probe 0 0 65536 0 0) = false ∧
    Instr.wellFormed (.probe 0 0 0 65536 0) = false ∧ Instr.wellFormed (.probe 0 0 0 0 (2 ^ 64)) = false := by decide

theorem test_wf_watches : Instr.wellFormed (.setWatch 0 0 256 (.quality 1) 0) = false ∧
    Instr.wellFormed (.setWatch 0 0 0 (.pointState 65536 1) 0) = false ∧
    Instr.wellFormed (.setWatch 0 0 0 (.stationCount 0 0 256 1) 0) = false ∧
    Instr.wellFormed (.setWatch 0 0 0 (.quality 256) 0) = false ∧
    Instr.wellFormed (.setWatch 0 0 0 (.instant (2 ^ 64)) 0) = false ∧
    Instr.wellFormed (.setWatch 0 0 0 (.gap (some 256)) 0) = false ∧
    Instr.wellFormed (.setWatch 0 0 0 (.undefinedKind 5) 0) = false ∧
    Instr.wellFormed (.clearWatch 0 0 256) = false ∧ Instr.wellFormed (.readWatches 0 0 [256]) = false := by decide

/-! ### Worked values -/

/-- R185: the CRC-32 of these parameters over the nine digits. -/
theorem test_crc_digits :
    crc32 [0x31#8, 0x32#8, 0x33#8, 0x34#8, 0x35#8, 0x36#8, 0x37#8, 0x38#8, 0x39#8] = 0xCBF43926#32 := by decide +kernel

/-- Table 11-1: a SEEK request of two body bytes, byte by byte, the CRC-32 apart. -/
theorem test_frame_header :
    (frameBytes 1 21 0x1234 [3#8, 0xAA#8]).take 14 =
      [1#8, 0#8, 21#8, 0#8, 0x34#8, 0x12#8, 2#8, 0#8, 0#8, 0#8, 0#8, 0#8, 3#8, 0xAA#8] := by decide +kernel

theorem test_frame_received :
    receiveFrame (frameBytes 1 21 0x1234 [3#8, 0xAA#8]) = .sound 21 0x1234 [3#8, 0xAA#8] := by decide +kernel

/-- R175: a RESPONSE frame is no request. -/
theorem test_frame_kind : receiveFrame (frameBytes 2 21 1 []) = .faulty := by decide +kernel

/-- R175: one bit of the CRC-32. -/
theorem test_frame_crc : receiveFrame ((frameBytes 1 1 1 []).set 15 0#8) = .faulty := by decide +kernel

/-- Tables 11-3 and 11-4: a segment of recorder 4, sequence 30 with an ANCHOR, a CHANGE, a STEP and a LOSS. -/
def segmentBody : List Byte :=
  le 1 4 ++ [0#8] ++ le 2 30 ++ le 2 4 ++ le 2 0 ++
    (le 1 1 ++ le 1 1 ++ le 2 0 ++ le 4 0 ++ le 6 50000000 ++ le 2 0) ++
    (le 1 3 ++ le 1 2 ++ le 2 120 ++ le 2 7 ++ le 1 9 ++ le 1 0) ++
    (le 1 2 ++ le 1 0 ++ le 2 0 ++ le 4 1000000) ++ (le 1 4 ++ le 1 0 ++ le 2 5 ++ le 2 37 ++ le 2 0)

theorem test_segment_read :
    (formCheck segmentBody).toOption =
      some [.anchor 0 50000000 .locked, .change 120 7 .closed (some 9), .step 0 1000000, .loss 5 (some 37)] := by
  decide +kernel

/-- R41: a count that disagrees names no entry. -/
theorem test_segment_count : (formCheck (segmentBody.set 4 5#8)).toOption = none := by decide +kernel

/-- R46: division rounds toward zero: a drift of 12 ppm over −1,250 µs is 0. -/
theorem test_correction :
    correct { RecorderEntry.reset with offset := -1250, drift := 12 } (some 2000) 750 = -500 ∧
      correct { RecorderEntry.reset with drift := 500 } (some 0) 3999 = 4000 := by decide +kernel

/-- R42: the distance of the sequence check wraps. -/
theorem test_seqDistance : seqDistance 0 65535 = 1 ∧ seqDistance 5 5 = 0 ∧ seqDistance 4 5 = 65535 := by decide

/-- R85: boundaries of 10 s below a time, from the standing instant. -/
theorem test_boundaries : leastBoundary 10000000 none = 0 ∧ leastBoundary 10000000 (some 10000000) = 10000000 ∧
    boundaryBefore 10000000 (some 10000001) 20000000 = none ∧
    boundaryUpTo 10000000 (some 10000001) 20000000 = some 20000000 := by decide

/-- R189, Table 11-7: a REBASE marker. -/
theorem test_marker_bytes :
    (Item.mk 258 (.marker (.rebase 5 3))).bytes =
      [4#8, 3#8, 2#8, 1#8, 5#8, 0#8, 0#8, 0#8, 0#8, 0#8, 0#8, 0#8, 3#8, 0#8, 0#8, 0#8] := by decide +kernel

/-- R187: a signed time in two's complement, and an absent one. -/
theorem test_times : leInt (-2) = [0xFE#8, 0xFF#8, 0xFF#8, 0xFF#8, 0xFF#8, 0xFF#8, 0xFF#8, 0xFF#8] ∧
    leTime none = List.replicate 8 0xFF#8 := by decide +kernel

/-- R187, Table 11-9: SET_CURSOR with pacing alone present, with a reserved mask bit, and with an undefined pacing code
where the batch size alone is present (log 12). -/
theorem test_options :
    (optionsOf 0 Options.opened (le 2 1 ++ [1#8] ++ List.replicate 31 0#8)).map Options.pacing = some .bound ∧
      optionsOf 0 Options.opened (le 2 2049 ++ [1#8] ++ List.replicate 31 0#8) = none ∧
      optionsOf 0 Options.opened (le 2 32 ++ [2#8, 0#8, 0#8, 9#8] ++ List.replicate 28 0#8) = none := by decide +kernel

/-- R186, Table 11-2: codes of sets that no record or cursor holds. -/
theorem test_codes :
    FaultKind.blockOverlap.code = 5 ∧ SegOutcome.cleared.code = 7 ∧ ClockCause.limit.code = 6 ∧
      StateCause.clockSet.code = 4 ∧ watchPointKindCode none = 0 ∧ DeviceKind.code .earthSwitch = 3 ∧
      (WatchCond.gap none).code = 5 ∧ QualityThreshold.estimatedOnly.code = 2 ∧
      WatchActions.code { hold := true, mark := false, signal := true } = 5 ∧
      Subs.code { attention := false, segmentsAll := true, clock := false, store := true } = 10 := by decide

/-- R184, R185: a NOTICE frame whose body Layouts does not give is header, a body and CRC-32 all the same (log 40). -/
theorem test_notice_sent :
    ∀ n : Nat, ∃ x body, (OutFrame.notice (.store .sealed 0)).bytes n = frameBytes 3 NoticeKind.store.code x body :=
  fun _ => ⟨_, _, rfl⟩

/-- No command of the table has bits (log 36). -/
theorem test_no_words (n w : Nat) : decodeTableWord n w = none := rfl

/-! ### Small states -/

/-- Port 0 UP with one request at its front. -/
def ask (code : Nat) (body : List Byte) (s : State) : State :=
  s.withLive (s.live.setPort 0 { Port.reset with up := true, requests := [.sound code 7 body] })

/-- The part after reset with the store COLLECTING. -/
def collecting : State := { State.reset with history := { History.reset with phase := .collecting } }

/-- A cursor in slot 0. -/
def holding (c : Cursor) (s : State) : State := s.withLive (s.live.setCursor 0 c)

theorem ask_taken (code : Nat) (body : List Byte) (s : State) (h : s.resetLow = false) :
    Taken (ask code body s) 0 code 7 body := by
  rw [taken_iff]
  simp [ask, h, Port.reset]

/-- A request of a code reaches a cursor of slot 0 in some state whose rest is `s`. -/
def Meets (code : Nat) (c : Cursor) (s : State) : Prop :=
  Taken (ask code [0#8] (holding c s)) 0 code 7 [0#8] ∧ Reaches (ask code [0#8] (holding c s)) 0 0 [0#8] 0 c

theorem meets (code : Nat) (c : Cursor) (s : State) (h : s.resetLow = false) (ho : c.owner = 0) : Meets code c s :=
  ⟨ask_taken _ _ _ h, by simp, by rfl, by simp [ask, holding], ho⟩

theorem holding_cursor (c : Cursor) (s : State) : (holding c s).live.cursor 0 = some c := by simp [holding]

theorem reset_cursor (k : Slot) : State.reset.live.cursor k = none := by
  simp [State.reset, Live.reset, Live.cursor]

def idleC : Cursor := Cursor.opened 0

def heldC : Cursor := { idleC with state := .held, image := some [], instant := some 5, stepBase := some 5 }

def overtakenC : Cursor := { heldC with overtaken := some { earliest := 3, count := 1 } }

def endedC : Cursor := { heldC with state := .ended }

def unsettledC : Cursor := { heldC with state := .unsettled }

def rebuildOf (kind : RebuildKind) : Rebuild := { kind := kind, target := 9, standing := some 4, kept := none }

def seekingC : Cursor := { heldC with state := .seeking, op := .rebuild (rebuildOf .seek) }

def runC : Cursor := { heldC with state := .running }

def rebaseC : Cursor := { runC with op := .rebuild (rebuildOf .rebase) }

def armedC : Cursor :=
  { heldC with state := .armed, armedFrom := some .held, options := { Options.opened with source := .line } }

def boundC : Cursor := { heldC with options := { Options.opened with pacing := .bound } }

def snapC : Cursor := { heldC with snap := some { todo := [0, 1], opening := false } }

def flight : StepFlight :=
  { todo := [], written := 1, fired := [], commit := 1, time := 6
    undo := { point := 0, cell := none, position := none, instant := some 5, stepBase := some 5, trail := []
              stepsLeft := 0, applied := false, refTime := none, nextNumber := 0 } }

def stepC : Cursor := { runC with op := .step flight }

def probeC : Cursor := { heldC with probes := [{ tag := 1, point := 0, instant := 9, work := none }] }

def sourceOf (r : RecId) (idx : Nat) : Source := { recorder := r, seq := 5, idx := idx, recorderTime := 6 }

def recordAt (time commit : Nat) : Record :=
  { time := time, point := 0, state := .closed, quality := .locked, cause := none, timing := sourceOf 0 0, others := []
    commit := commit, late := false, repositioned := false }

def storing (rs : List Record) (phase : Phase) : State :=
  { State.reset with
    history := { phase := phase, records := rs, commitCount := rs.length, greatest := greatestTime rs } }

def controlling (c : Clock) (code : Nat) : State := ask code [] { State.reset with clock := { c with controller := some 0 } }

/-! ### Small steps -/

/-- R174, R175: a link comes up, and a frame joins its queue. -/
theorem test_step_linkUp :
    ((State.reset.live.setPort 0 { Port.reset with up := true }).port 0).up = true ∧
      exec (.linkUp 0) State.reset =
        .next (State.reset.withLive (State.reset.live.setPort 0 { Port.reset with up := true })) :=
  ⟨by simp, rfl⟩

/-- R183: a pulse of RESET_N leaves the part after reset. -/
theorem test_reset_pulse :
    exec .resetRelease { State.reset with resetLow := true, gaps := [⟨0, 1, none, none⟩] } = .next State.reset := rfl

/-- R103: the first cursor opens in slot 0. -/
theorem test_open_slot : lowestFree collecting.live = some 0 := by decide +kernel

/-- R6: the tables of reset cannot carry a study. -/
theorem test_no_recorder : tableFault Tables.reset = some (bareFault .noRecorder) := by decide +kernel

/-- R160: an advance past the limit stops the clock. -/
theorem test_limit : (Clock.advance { Clock.reset with instant := 2 ^ 40 - 1, run := .running, pacing := some 0 }) =
    { Clock.reset with instant := 2 ^ 40 - 1 } := by decide

/-- R163: the head of the waiting list is promoted. -/
theorem test_passOn : (Clock.passOn { Clock.reset with controller := some 1, waitList := [3, 2] }) =
    { Clock.reset with controller := some 3, waitList := [2], leaseLeft := some 60000 } := by decide

/-- R177: the slots above the delivery turn come first. -/
theorem test_turn : turnOrder (some 5) = [6, 7, 0, 1, 2, 3, 4, 5] ∧ turnOrder none = allSlots := by decide

/-- R151: the oldest entry leaves beyond 8. -/
theorem test_trail (x : TrailEntry) (t : List TrailEntry) (h : t.length = 8) : (pushTrail x t).length = 8 := by
  simp [pushTrail, h, Config.trailCapacity]

/-- R113: GAP_OPEN stands before GAP_CLOSE of one entry at one time, and a time at the step base is not in the interval. -/
theorem test_gap_marks :
    (gapMarks [⟨0, 4, some 4, none⟩, ⟨1, 3, none, none⟩] (some 3) 4).map GapMark.marker =
      [.gapOpen 0 0 4, .gapClose 0 0 4] := by decide +kernel

/-- R18: a better-timed report moves the record to its own time. -/
theorem test_reposition :
    (Record.reposition
      { time := 8, point := 0, state := .closed, quality := .locked, cause := some 3, source := sourceOf 1 0 }
      { recordAt 9 1 with quality := .free }) =
      { recordAt 8 1 with cause := some 3, timing := sourceOf 1 0, others := [sourceOf 0 0], repositioned := true } := by
  decide +kernel

/-! ### The hypotheses of the obligations are met -/

theorem witness_StepTakesFront : ∃ (s : State) (c : Instr) (rest : List Instr), s.pending = c :: rest :=
  ⟨{ State.reset with pending := [.markInEdge] }, .markInEdge, [], rfl⟩

theorem witness_ResetLinesAct :
    ∃ s : State, s.resetLow = true ∧ s.live.cursor 0 = some heldC ∧ s.live.cursor 1 = none ∧
      Instr.markInEdge ≠ .powerOn ∧ Instr.markInEdge ≠ .resetAssert ∧ Instr.markInEdge ≠ .resetRelease :=
  ⟨{ holding heldC State.reset with resetLow := true }, rfl, holding_cursor _ _,
    (cursor_setCursor_ne _ _ (by decide)).trans (reset_cursor 1), by decide, by decide, by decide⟩

theorem witness_LinksComeAndGo :
    (State.reset.resetLow = false ∧ (State.reset.live.port 0).up = false) ∧
      ∃ s : State, s.resetLow = false ∧ (s.live.port 0).up = true ∧ s.live.cursor 0 = some heldC ∧ heldC.owner = 0 ∧
        s.clock.controller = some 0 ∧ s.clock.waitList = [1] :=
  ⟨⟨rfl, by simp [State.reset, Live.reset, Live.port, Port.reset]⟩,
    { ask 1 [] (holding heldC State.reset) with clock := { Clock.reset with controller := some 0, waitList := [1] } },
    rfl, by simp [ask], by simp [ask, holding], rfl, rfl, rfl⟩

theorem witness_LinkDown_free_clock :
    ∃ s : State, s.resetLow = false ∧ (s.live.port 0).up = true ∧ s.live.cursor 0 = some { heldC with owner := 1 } ∧
      s.clock.controller ≠ some 0 :=
  ⟨ask 1 [] (holding { heldC with owner := 1 } State.reset), rfl, by simp [ask], by simp [ask, holding], by simp [ask,
    holding, State.reset, Clock.reset]⟩

theorem witness_MarkInTriggersLineCursors :
    ∃ s : State, s.resetLow = false ∧ s.live.cursor 0 = some armedC ∧ armedC.state = .armed ∧
      armedC.options.source = .line ∧ heldC.state ≠ .armed :=
  ⟨holding armedC State.reset, rfl, by simp [holding], rfl, rfl, by decide⟩

/-- Port 0 UP with a request queue of its own. -/
def queued (fs : List QueuedFrame) : State :=
  State.reset.withLive (State.reset.live.setPort 0 { Port.reset with up := true, requests := fs })

theorem witness_FramesAreQueuedAndChecked :
    ((queued [.faulty, .faulty, .faulty]).resetLow = false ∧ ((queued [.faulty, .faulty, .faulty]).live.port 0).up = true ∧
      ((queued [.faulty, .faulty, .faulty]).live.port 0).requests.length < 4) ∧
    4 ≤ ((queued [.faulty, .faulty, .faulty, .faulty]).live.port 0).requests.length ∧
    receiveFrame (frameBytes 1 1 1 []) ≠ .faulty ∧ receiveFrame (List.replicate 15 0) = .faulty :=
  ⟨⟨rfl, by simp [queued], by simp [queued]⟩, by simp [queued], by decide +kernel, by decide +kernel⟩

theorem witness_FrameRoundTrip :
    (65535 : Nat) < 65536 ∧ (List.replicate 16392 (0 : Byte)).length ≤ 16392 :=
  ⟨by decide, List.length_replicate.le⟩

theorem witness_PortAnswersBadFrames :
    (((queued [.faulty]).live.port 0).requests.head? = some .faulty ∧ ((queued [.faulty]).live.port 0).response = none) ∧
    ((queued [.sound 43 7 []]).live.port 0).requests.head? = some (.sound 43 7 []) ∧ (42 : Nat) < 43 ∧
    ((queued [.sound 0 7 []]).live.port 0).requests.head? = some (.sound 0 7 []) := by
  simp [queued, Port.reset]

theorem witness_RequestsWaitOrAreAnswered :
    requestOf (.describe 0) = some (0, 1) ∧ State.reset.resetLow = false ∧ (State.reset.live.port 0).up = false ∧
      Taken (ask 42 [] State.reset) 0 42 7 [] :=
  ⟨rfl, rfl, by simp [State.reset, Live.reset, Live.port, Port.reset], ask_taken _ _ _ rfl⟩

/-- Port 0 UP with what it has to send. -/
def sending (r : Option HeldResponse) (ns : List Notice) (lost : Bool) : State :=
  State.reset.withLive
    (State.reset.live.setPort 0 { Port.reset with up := true, response := r, notices := ns, lost := lost })

/-- A PUSH cursor with one item to transmit. -/
def pushC : Cursor := { heldC with buffer := { Buffer.opened with outgoing := [⟨0, .marker (.head 0)⟩] } }

theorem witness_PortTransmits :
    (∃ s : State, s.resetLow = false ∧ (s.live.port 0).up = true ∧
      (s.live.port 0).response = some { tag := 1, response := Response.done, ahead := 1 } ∧
      (s.live.port 0).notices = [.store .sealed 0] ∧ (s.live.port 0).lost = true) ∧
    (∃ s : State, s.resetLow = false ∧ (s.live.port 0).up = true ∧
      (s.live.port 0).response = some { tag := 1, response := Response.done, ahead := 0 } ∧
      (s.live.port 0).notices = []) ∧
    ∃ (s : State) (c : Cursor), s.resetLow = false ∧ (s.live.port 0).up = true ∧ (s.live.port 0).response = none ∧
      (s.live.port 0).notices = [] ∧ s.live.cursor 7 = some c ∧ c.owner = 0 ∧
      c.buffer.outgoing = [⟨0, .marker (.head 0)⟩] ∧ c.buffer.waiting = none ∧
      ∀ (j : Slot) (d : Cursor), s.live.cursor j = some d → d.owner = 0 → d.buffer.outgoing ≠ [] →
        (7 + 7 - ((s.live.port 0).turn.elim 7 Fin.val)) % 8 ≤ (j.val + 7 - ((s.live.port 0).turn.elim 7 Fin.val)) % 8 := by
  refine ⟨⟨sending (some { tag := 1, response := Response.done, ahead := 1 }) [.store .sealed 0] true, rfl, ?_⟩,
    ⟨sending (some { tag := 1, response := Response.done, ahead := 0 }) [] false, rfl, ?_⟩,
    (sending none [] false).withLive ((sending none [] false).live.setCursor 7 pushC), pushC, rfl, ?_⟩
  · simp [sending]
  · simp [sending]
  · refine ⟨by simp [sending], by simp [sending], by simp [sending], cursor_setCursor_same _ _ _, rfl, rfl, rfl,
      fun j d hd _ _ => ?_⟩
    rw [live_withLive, cursor_setCursor] at hd
    split_ifs at hd with hj
    · subst hj; simp
    · simp [sending, State.reset, Live.reset, Live.cursor] at hd

theorem witness_NoticeQueueRule :
    ∃ p : Port, p.up = true ∧ p.notices.length = 32 ∧ ({ p with notices := p.notices.drop 1 } : Port).notices.length < 32 :=
  ⟨{ Port.reset with up := true, notices := List.replicate 32 (.store .sealed 0) }, rfl, by simp, by simp⟩

theorem witness_DescribeAndSubscribe :
    Taken (ask 1 [] State.reset) 0 1 7 [] ∧ Taken (ask 2 [15] State.reset) 0 2 7 [15] ∧ (15 : Byte).toNat < 16 ∧
      16 ≤ (16 : Byte).toNat := ⟨ask_taken _ _ _ rfl, ask_taken _ _ _ rfl, by decide, by decide⟩

/-- Tables that validation passes. -/
def passing : Tables :=
  { Tables.reset with
    points := vput Tables.reset.points 0 { PointEntry.reset with enabled := true }
    recorders := vput Tables.reset.recorders 0
      { RecorderEntry.reset with enabled := true, blocks := vput RecorderEntry.reset.blocks 0 (some ⟨0, 4096, 0⟩) } }

theorem test_passing : tableFault passing = none := by decide +kernel

theorem witness_BeginCollectionOpens :
    Taken (ask 3 [] State.reset) 0 3 7 [] ∧ (ask 3 [] State.reset).history.phase = .setup ∧
      tableFault (ask 3 [] State.reset).tables = some (bareFault .noRecorder) ∧
      (ask 3 [] { State.reset with tables := passing }).history.phase = .setup ∧
      tableFault (ask 3 [] { State.reset with tables := passing }).tables = none ∧
      (ask 3 [] collecting).history.phase ≠ .setup :=
  ⟨ask_taken _ _ _ rfl, rfl, test_no_recorder, rfl, test_passing, by decide⟩

theorem witness_ValidationIsExact :
    ∀ (r : RecId) (i : BlockId) (b : MapBlock), (passing.recorders.get r).blocks.get i = some b → 1 ≤ b.count := by
  intro r i b h
  by_cases hr : (0 : RecId) = r
  · subst hr
    by_cases hi : (0 : BlockId) = i
    · subst hi
      simp [passing] at h
      subst h
      simp
    · simp [passing, vput_get_ne _ _ hi, RecorderEntry.reset] at h
  · simp [passing, vput_get_ne _ _ hr, Tables.reset, RecorderEntry.reset] at h

theorem witness_SealAndClear :
    (Taken (ask 4 [] collecting) 0 4 7 [] ∧ (ask 4 [] collecting).history.phase = .collecting ∧
      (ask 4 [] collecting).merge.queue = [] ∧
      ∀ r : RecId, ((ask 4 [] collecting).contexts.get r).timing.pendingList = []) ∧
    (Taken (ask 5 [] collecting) 0 5 7 [] ∧ ∀ k : Slot, (ask 5 [] collecting).live.cursor k = none) ∧
    (ask 4 [] State.reset).history.phase ≠ .collecting ∧
    (ask 4 [] { collecting with merge := { MergeEngine.reset with queue := [⟨0, 0, 0, []⟩] } }).merge.queue ≠ [] ∧
    (ask 5 [] (holding heldC collecting)).live.cursor 0 = some heldC := by
  refine ⟨⟨ask_taken _ _ _ rfl, rfl, rfl, fun r => ?_⟩, ⟨ask_taken _ _ _ rfl, fun k => ?_⟩, by decide, by simp [ask],
    by simp [ask, holding]⟩
  · simp [ask, collecting, State.reset, Context.reset, Timing.reset]
  · simp [ask, collecting, State.reset, Live.reset, Live.cursor, Live.setPort]

theorem witness_ReadsOfTheStoreSelect :
    Taken (ask 6 [] State.reset) 0 6 7 [] ∧ Taken (ask 7 [] State.reset) 0 7 7 [] ∧
      ((32 : Nat) ≤ 32 ∧ (2 ^ 40 - 1 : Nat) ≤ 2 ^ 40 - 1) ∧ ((511 : Nat) ≤ 511 ∧ (63 : Nat) ≤ 63) ∧ ¬(33 : Nat) ≤ 32 ∧
      ¬(512 : Nat) ≤ 511 := ⟨ask_taken _ _ _ rfl, ask_taken _ _ _ rfl, by decide, by decide, by decide, by decide⟩

theorem witness_SetPointWritesRun :
    Taken (ask 8 [] State.reset) 0 8 7 [] ∧ (ask 8 [] State.reset).history.phase = .setup ∧
      (∀ x ∈ [(⟨true, 255, 3, 5⟩ : PointSetting)],
        x.station ≤ 255 ∧ (deviceKindOf x.kindCode).isSome = true ∧ (ptStateOf x.stateCode).isSome = true) ∧
      4095 + [(⟨true, 255, 3, 5⟩ : PointSetting)].length ≤ 4096 ∧
      ¬4096 + [(⟨true, 255, 3, 5⟩ : PointSetting)].length ≤ 4096 := by
  exact ⟨ask_taken _ _ _ rfl, rfl, by decide, by decide, by decide⟩

theorem witness_SetRecorderAndMapBlockWrite :
    Taken (ask 9 [] State.reset) 0 9 7 [] ∧ Taken (ask 10 [] State.reset) 0 10 7 [] ∧
      (ask 9 [] State.reset).history.phase = .setup ∧
      (((1000 : Nat) = 1 ∨ 1000 = 10 ∨ 1000 = 100 ∨ 1000 = 1000) ∧ -(2 ^ 40 - 1) ≤ (-(2 ^ 40 - 1) : Int) ∧
        (500 : Int) ≤ 500 ∧ ∀ b ∈ some (2 ^ 48 - 1), b ≤ 2 ^ 48 - 1) ∧
      (∀ b ∈ some (⟨65535, 4096, 4095⟩ : BlockArgs), b.first ≤ 65535 ∧ 1 ≤ b.count ∧ b.count ≤ 4096 ∧ b.base ≤ 4095) ∧
      ¬(∀ b ∈ some (⟨65535, 4097, 4095⟩ : BlockArgs), b.first ≤ 65535 ∧ 1 ≤ b.count ∧ b.count ≤ 4096 ∧ b.base ≤ 4095) := by
  exact ⟨ask_taken _ _ _ rfl, ask_taken _ _ _ rfl, rfl, by simp, by simp, by simp⟩

theorem witness_SetStudyWritesPresent :
    Taken (ask 11 [] State.reset) 0 11 7 [] ∧ (ask 11 [] State.reset).history.phase = .setup ∧
      ((some 65535 : Option Nat) ≠ none ∧ (∀ x ∈ some 65535, x ≤ 65535) ∧
        (∀ x ∈ some 1000000, 1 ≤ x ∧ x ≤ 1000000) ∧ ∀ x ∈ some 3600, 1 ≤ x ∧ x ≤ 3600) ∧
      ¬∀ x ∈ some 0, 1 ≤ x ∧ x ≤ 3600 := ⟨ask_taken _ _ _ rfl, rfl, by simp, by simp⟩

theorem witness_SetEventZeroWrites :
    Taken (ask 12 [] collecting) 0 12 7 [] ∧ (2 ^ 40 - 1 : Nat) ≤ 2 ^ 40 - 1 ∧ (2 ^ 40 - 1 : Nat) < 2 ^ 40 :=
  ⟨ask_taken _ _ _ rfl, by decide, by decide⟩

theorem witness_TableWritesRefusedOutsideSetup :
    requestOf (.setStudy 0 none none none none) = some (0, 11) ∧ Taken (ask 11 [] collecting) 0 11 7 [] ∧
      (ask 11 [] collecting).history.phase ≠ .setup := ⟨rfl, ask_taken _ _ _ rfl, by decide⟩

/-- COLLECTING with the passing tables and a queue. -/
def ingesting (q : List QueuedSegment) (w : Option Work) : State :=
  { collecting with tables := passing, merge := { MergeEngine.reset with queue := q, work := w } }

/-- A segment header of recorder 0, sequence 5, one entry. -/
def header : List Byte := le 1 0 ++ [0#8] ++ le 2 5 ++ le 2 1 ++ le 2 0

theorem witness_LoadSegmentQueuesOrRefuses :
    Taken (ask 13 header (ingesting [] none)) 0 13 7 header ∧ (ask 13 header (ingesting [] none)).history.phase = .collecting ∧
      8 ≤ header.length ∧ byteAt header 0 = (0 : RecId).val ∧ byteAt header 1 = 0 ∧ leAt header 6 2 = 0 ∧
      ((ask 13 header (ingesting [] none)).tables.recorders.get 0).enabled = true ∧
      (ask 13 header (ingesting (List.replicate 7 ⟨0, 0, 0, []⟩) none)).merge.queue.length < 8 ∧
      8 ≤ (ask 13 header (ingesting (List.replicate 8 ⟨0, 0, 0, []⟩) none)).merge.queue.length ∧
      (ask 13 header State.reset).history.phase ≠ .collecting ∧ ¬8 ≤ (header.take 7).length := by
  exact ⟨ask_taken _ _ _ rfl, rfl, by decide, by decide +kernel, by decide +kernel, by decide +kernel,
    by simp [ask, ingesting, passing], by decide, by decide, by decide, by decide⟩

theorem witness_CancelSegmentRules :
    Taken (ask 14 [] (ingesting [⟨1, 0, 5, []⟩, ⟨0, 0, 5, []⟩] none)) 0 14 7 [] ∧
      (ingesting [⟨1, 0, 5, []⟩, ⟨0, 0, 5, []⟩] none).merge.queue = [⟨1, 0, 5, []⟩] ++ ⟨0, 0, 5, []⟩ :: [] ∧
      ¬((⟨1, 0, 5, []⟩ : QueuedSegment).recorder = 0 ∧ (⟨1, 0, 5, []⟩ : QueuedSegment).seq = 5 ∧
        (⟨1, 0, 5, []⟩ : QueuedSegment).port = 0) ∧
      (∀ g ∈ (ingesting [⟨1, 0, 5, []⟩] none).merge.queue, ¬(g.recorder = 0 ∧ g.seq = 5 ∧ g.port = 0)) ∧
      (∀ g ∈ (ingesting [] none).merge.queue, ¬(g.recorder = 0 ∧ g.seq = 5)) := by
  exact ⟨ask_taken _ _ _ rfl, rfl, by decide, by simp [ingesting], by simp [ingesting]⟩

theorem witness_CancelSegment_finished :
    ∃ s : State, Taken s 0 14 7 [] ∧ (∀ g ∈ s.merge.queue, ¬(g.recorder = 0 ∧ g.seq = 5)) ∧
      s.merge.finished.get 0 = [⟨0, 5, .cleared⟩] ++ ⟨0, 5, .committed⟩ :: [] ∧ s.merge.finished.get 1 = [] :=
  ⟨ask 14 [] { State.reset with
      merge := { MergeEngine.reset with finished := vput MergeEngine.reset.finished 0 [⟨0, 5, .cleared⟩, ⟨0, 5, .committed⟩] } },
    ask_taken _ _ _ rfl, by simp [ask, MergeEngine.reset], by simp [ask],
    by simp [ask, vput_get, MergeEngine.reset]⟩

theorem witness_RecorderContextRequests :
    Taken (ask 15 [63] State.reset) 0 15 7 [63] ∧
      (Taken (ask 16 [63, 0, 0xFF, 7] State.reset) 0 16 7 [63, 0, 0xFF, 7] ∧
        byteAt [63#8, 0#8, 0xFF#8, 7#8] 0 = (63 : RecId).val ∧ leAt [63#8, 0#8, 0xFF#8, 7#8] 2 2 < 2048 ∧
        2048 ≤ leAt [63#8, 0#8, 0#8, 8#8] 2 2 ∧ 64 ≤ byteAt [64#8, 0#8, 0#8, 8#8] 0) ∧
      Taken (ask 17 [63, 0, 0xFF, 7, 1] State.reset) 0 17 7 [63, 0, 0xFF, 7, 1] ∧
        byteAt [63#8, 0#8, 0xFF#8, 7#8, 1#8] 4 < 2 ∧ 2 ≤ byteAt [63#8, 0#8, 0xFF#8, 7#8, 2#8] 4 :=
  ⟨ask_taken _ _ _ rfl, ⟨ask_taken _ _ _ rfl, by decide, by decide, by decide, by decide⟩, ask_taken _ _ _ rfl, by decide,
    by decide⟩

/-- A segment of recorder 0 with one CHANGE on channel 0 (CLOSED), sequence 5. -/
def changeSegment : QueuedSegment :=
  { port := 0, recorder := 0, seq := 5
    body := header ++ (le 1 3 ++ le 1 2 ++ le 2 0 ++ le 2 0 ++ le 1 0 ++ le 1 0) }

/-- An anchored recorder at 6 µs. -/
def anchored : Timing := { Timing.reset with state := .anchored, running := some 6, baseQuality := some .locked }

/-- The segment in progress at the recorder. -/
def processing (t : Timing) (h : History) : State :=
  { ingesting [changeSegment] (some (workOf { Context.reset with timing := t })) with history := h }

/-- What its processing comes to: one candidate at 6 µs. -/
theorem test_change_staged :
    ((processing anchored History.reset).verdict.map fun v =>
      match v.2 with
      | .commit x => x.staged
      | .failed _ _ => []) =
      some [{ time := 6, point := 0, state := .closed, quality := .locked, cause := none, source := sourceOf 0 0 }] := by
  decide +kernel

theorem witness_SegmentCommitInstalls :
    ∃ x : Proc, (processing anchored History.reset).resetLow = false ∧
      (processing anchored History.reset).verdict = some (changeSegment, .commit x) ∧
      identityFails (processing anchored History.reset).history.records x.staged = false ∧
      (processing anchored History.reset).history.commitCount + x.staged.length ≤ 262144 :=
  ⟨_, rfl, rfl, by decide +kernel, by decide +kernel⟩

theorem witness_SegmentFailureDiscards :
    (∃ entry, (processing { anchored with lastSeq := some 5 } History.reset).verdict =
      some (changeSegment, .failed .duplicate entry)) ∧
    (∃ x : Proc, (processing anchored (storing [recordAt 6 1] .collecting).history).verdict =
        some (changeSegment, .commit x) ∧ identityFails [recordAt 6 1] x.staged = true) ∧
    ∃ x : Proc, (processing anchored { History.reset with commitCount := 262144 }).verdict =
        some (changeSegment, .commit x) ∧ identityFails [] x.staged = false ∧ 262144 < 262144 + x.staged.length :=
  ⟨⟨none, by decide +kernel⟩, ⟨_, rfl, by decide +kernel⟩, _, rfl, by decide +kernel, by decide +kernel⟩

theorem witness_SequenceCheck :
    (∃ es, formCheck changeSegment.body = .ok es) ∧ (5 : Nat) = (4 + 1) % 65536 ∧ (5 : Nat) = (3 + 2) % 65536 ∧
      (5 : Nat) = (32774 + 32767) % 65536 ∧ (5 : Nat) = (32773 + 32768) % 65536 ∧ (5 : Nat) = (5 + 65536) % 65536 :=
  ⟨⟨_, rfl⟩, by decide, by decide, by decide, by decide, by decide⟩

theorem witness_AnchoredEntriesAct :
    ∃ (v : ProcEnv) (p : Proc), p.timing.state = .anchored ∧ p.timing.running = some (2 ^ 40 - 1) ∧
      p.timing.baseQuality = some .locked ∧ correct v.entry p.timing.driftBase (2 ^ 40 - 1) = ((2 ^ 40 - 1 : Nat) : Int) ∧
      v.gapsHeld + p.opened < 512 :=
  ⟨{ slot := 0, entry := RecorderEntry.reset, tables := Tables.reset, gapsHeld := 511 },
    { timing := { anchored with running := some (2 ^ 40 - 1) }, staged := [], gapChanges := [], opened := 0, raised := 0 },
    rfl, rfl, rfl, by decide +kernel, by decide⟩

def candidateAt (time : Nat) (q : Quality) : Candidate :=
  { time := time, point := 0, state := .closed, quality := q, cause := none, source := sourceOf 1 0 }

theorem witness_MatchIsNearest :
    findMatch 3 (candidateAt 9 .locked) [recordAt 6 1, recordAt 10 2] = some (recordAt 10 2) ∧
      findMatch 3 (candidateAt 14 .locked) [recordAt 10 2] = none := by decide +kernel

theorem witness_CandidateBecomesOrCorroborates :
    findMatch 3 (candidateAt 9 .free) [] = none ∧
      (findMatch 3 (candidateAt 9 .free) [recordAt 6 1] = some (recordAt 6 1) ∧ (recordAt 6 1).sources.length < 4 ∧
        betterQuality Quality.free (recordAt 6 1).quality = false) ∧
      (findMatch 3 (candidateAt 9 .locked) [{ recordAt 6 1 with quality := .free }] =
          some { recordAt 6 1 with quality := .free } ∧ betterQuality Quality.locked Quality.free = true) ∧
      4 ≤ ({ recordAt 6 1 with others := [sourceOf 2 0, sourceOf 3 0, sourceOf 4 0] } : Record).sources.length := by
  decide +kernel

theorem witness_ControlRequestsJudgeSlot :
    requestOf (.readTrail 0 8) = some (0, 34) ∧ controlledSlot (.readTrail 0 8) = some 8 ∧
      Taken (ask 34 [] collecting) 0 34 7 [] ∧ Taken (ask 34 [8] collecting) 0 34 7 [8] ∧
      (ask 34 [8] collecting).live.cursor 7 = none ∧
      (ask 34 [0] (holding { heldC with owner := 1 } collecting)).live.cursor 0 = some { heldC with owner := 1 } ∧
      (1 : PortId) ≠ 0 :=
  ⟨rfl, rfl, ask_taken _ _ _ rfl, ask_taken _ _ _ rfl,
    by simp [ask, collecting, State.reset, Live.reset, Live.cursor, Live.setPort], by simp [ask, holding], by decide⟩

theorem witness_OpenCursorOpensLowest :
    Taken (ask 18 [] collecting) 0 18 7 [] ∧ (ask 18 [] State.reset).history.phase = .setup ∧
      (ask 18 [] collecting).history.phase ≠ .setup ∧ (ask 18 [] collecting).live.cursor 0 = none ∧
      (∀ j : Slot, j.val < (0 : Slot).val → (ask 18 [] collecting).live.cursor j ≠ none) ∧
      ∃ s : State, Taken s 0 18 7 [] ∧ s.history.phase ≠ .setup ∧ ∀ k : Slot, s.live.cursor k ≠ none :=
  ⟨ask_taken _ _ _ rfl, rfl, by decide, by simp [ask, collecting, State.reset, Live.reset, Live.cursor, Live.setPort],
    by simp, ask 18 [] (collecting.withLive { collecting.live with cursors := Vector.replicate 8 (some heldC) }),
    ask_taken _ _ _ rfl, by decide, by simp [ask, Live.cursor, Live.setPort]⟩

theorem witness_ReadAndCloseCursor :
    Taken (ask 19 [1] (holding seekingC collecting)) 0 19 7 [1] ∧
      (ask 19 [1] (holding seekingC collecting)).live.cursor 0 = some seekingC ∧
      seekingC.op = .rebuild (rebuildOf .seek) ∧ (∀ f : Rebuild, heldC.op ≠ .rebuild f) ∧
      Taken (ask 19 [] (holding seekingC collecting)) 0 19 7 [] ∧ Meets 28 snapC collecting :=
  ⟨ask_taken _ _ _ rfl, by simp [ask, holding], rfl, by simp [heldC, idleC, Cursor.opened], ask_taken _ _ _ rfl,
    meets _ _ _ rfl rfl⟩

/-- A SET_CURSOR payload with the batch size alone present. -/
def batchPayload (n : Byte) : List Byte := le 2 32 ++ [0#8, 0#8, 0#8, n] ++ List.replicate 28 0#8

theorem test_payloadFits : PayloadFits (batchPayload 16) ∧ ¬PayloadFits (1#8 :: batchPayload 16) := by
  unfold PayloadFits; decide +kernel

theorem test_batch_written : optionsOf 0 Options.opened (batchPayload 16) = some { Options.opened with batchSize := 16 } ∧
    optionsOf 0 Options.opened (batchPayload 17) = none := by decide +kernel

theorem test_payload_accepted :
    OptionsWritten Options.opened (batchPayload 16) { Options.opened with batchSize := 16 } ∧
      OptionsAgree 0 (batchPayload 16) { Options.opened with batchSize := 16 } := by
  refine ⟨?_, ?_⟩
  · unfold OptionsWritten; dsimp only; decide +kernel
  · exact ⟨fun _ => by decide, fun _ e he => by simp [Options.opened] at he, fun e he => by simp [Options.opened] at he,
      by decide, by decide, by decide, by decide⟩

theorem witness_SetCursorWritesOptions :
    (Meets 20 snapC collecting ∧ snapC.snap ≠ none) ∧
      (let body : List Byte := BitVec.ofNat 8 (0 : Slot).val :: batchPayload 16
       Taken (ask 20 body (holding endedC collecting)) 0 20 7 body ∧
         Reaches (ask 20 body (holding endedC collecting)) 0 0 body 0 endedC) ∧
      endedC.snap = none ∧ endedC.state = .ended ∧ endedC.options = Options.opened ∧ PayloadFits (batchPayload 16) ∧
      OptionsWritten endedC.options (batchPayload 16) { Options.opened with batchSize := 16 } ∧
      OptionsAgree 0 (batchPayload 16) { Options.opened with batchSize := 16 } ∧
      Options.opened.batchSize ≠ 16 :=
  ⟨⟨meets _ _ _ rfl rfl, by decide⟩, ⟨ask_taken _ _ _ rfl, by simp, by rfl, by simp [ask, holding], rfl⟩, rfl, rfl, rfl,
    test_payloadFits.1, test_payload_accepted.1, test_payload_accepted.2, by decide⟩

/-- A payload that fits its layout, as a body without its slot byte, and a payload that no options accept. -/
theorem witness_SetCursor_refused :
    Meets 20 heldC collecting ∧ heldC.snap = none ∧ heldC.state = .held ∧
      ([0#8] : List Byte) ≠ BitVec.ofNat 8 (0 : Slot).val :: batchPayload 16 ∧
      ∀ o, ¬(PayloadFits (1#8 :: batchPayload 16) ∧ OptionsWritten heldC.options (1#8 :: batchPayload 16) o ∧
        OptionsAgree 0 (1#8 :: batchPayload 16) o) :=
  ⟨meets _ _ _ rfl rfl, rfl, rfl, by decide, fun _ h => test_payloadFits.2 h.1⟩

theorem witness_SeekStartsRebuild :
    (Meets 21 heldC collecting ∧ heldC.snap = none ∧ heldC.state = .held) ∧
      (Meets 21 rebaseC collecting ∧ rebaseC.snap = none ∧ rebaseC.state = .running ∧
        ∃ r, rebaseC.op = .rebuild r) ∧ (2 ^ 40 - 1 : Nat) ≤ 2 ^ 40 - 1 :=
  ⟨⟨meets _ _ _ rfl rfl, rfl, rfl⟩, ⟨meets _ _ _ rfl rfl, rfl, rfl, _, rfl⟩, by decide⟩

theorem witness_CheckpointChoiceAndReach :
    ∃ (t : CheckpointTable) (x : Checkpoint), (t.choose 20000000).1 = some x ∧ (t.choose 9999999).1 = none ∧
      (t.entries.get 0).valid = true :=
  ⟨CheckpointTable.reset.create 10000000 [] none,
    { instant := 10000000, valid := true, image := [], position := none, stamp := 1 }, by decide +kernel,
    by decide +kernel, by decide +kernel⟩

/-- R84: two valid checkpoints and a use counter at its limit. -/
def atLimit : CheckpointTable :=
  let x : Checkpoint := { instant := 20000000, valid := true, image := [], position := none, stamp := 4294967295 }
  { entries := vput (vput CheckpointTable.reset.entries 2 x) 9 { x with instant := 10000000, stamp := 7 }
    counter := 4294967295 }

theorem witness_Renumbering :
    ∃ x : Checkpoint, 4294967295 ≤ atLimit.counter ∧ (atLimit.choose 20000000).1 = some x ∧
      (atLimit.entries.get 2).valid = true ∧ (atLimit.entries.get 3).valid = false :=
  ⟨{ instant := 20000000, valid := true, image := [], position := none, stamp := 4294967295 }, by decide +kernel,
    by decide +kernel, by decide +kernel, by decide +kernel⟩

/-- R84: the choice renumbers them 2 and 1 and takes 3. -/
theorem test_renumbering :
    (let u := (atLimit.choose 20000000).2
     [(u.entries.get 2).stamp, (u.entries.get 9).stamp, (u.entries.get 0).stamp, u.counter] = [3, 1, 0, 3]) := by
  decide +kernel

theorem witness_PlayRunsOrSeeks :
    (Meets 22 heldC collecting ∧ heldC.state = .held ∧ heldC.snap = none ∧ heldC.options.pacing = .freeRun ∧
      heldC.overtaken = none ∧ overtakenC.overtaken ≠ none) ∧
    (Meets 22 runC collecting ∧ runC.state = .running ∧ runC.op ≠ .seekDone ∧ runC.op ≠ .rebaseDone ∧
      ∀ r, runC.op ≠ .rebuild r) ∧
    Meets 22 boundC collecting ∧ boundC.options.pacing = .bound ∧ boundC.instant ≠ some collecting.clock.instant ∧
      ({ boundC with instant := some 0 } : Cursor).instant = some collecting.clock.instant :=
  ⟨⟨meets _ _ _ rfl rfl, rfl, rfl, rfl, rfl, by decide⟩,
    ⟨meets _ _ _ rfl rfl, rfl, by decide, by decide, by simp [runC, heldC, idleC, Cursor.opened]⟩,
    meets _ _ _ rfl rfl, rfl, by decide, rfl⟩

theorem witness_StepRunsCount :
    Meets 23 overtakenC collecting ∧ overtakenC.state = .held ∧ overtakenC.snap = none ∧
      overtakenC.options.pacing = .freeRun ∧ (1 : Nat) ≤ 4096 ∧ (4096 : Nat) ≤ 4096 ∧ (4096 : Nat) < 4097 ∧
      Meets 23 boundC collecting ∧ boundC.options.pacing = .bound :=
  ⟨meets _ _ _ rfl rfl, rfl, rfl, rfl, by decide, by decide, by decide, meets _ _ _ rfl rfl, rfl⟩

theorem witness_CursorStateRefusals :
    requestOf (.snapshot 0 0 0 0 none) = some (0, 27) ∧ controlledSlot (.snapshot 0 0 0 0 none) = some 0 ∧
      Meets 27 armedC collecting ∧ armedC.state = .armed ∧ Meets 26 unsettledC collecting ∧ unsettledC.snap = none ∧
      unsettledC.state = .unsettled ∧ Meets 23 idleC collecting ∧ idleC.state = .idle ∧ Meets 23 endedC collecting ∧
      endedC.state = .ended ∧ Meets 21 stepC collecting ∧ stepC.state = .running ∧
      ¬(stepC.op = .seekDone ∨ stepC.op = .rebaseDone ∨ ∃ r, stepC.op = .rebuild r) ∧ (2 ^ 40 - 1 : Nat) < 2 ^ 40 ∧
      Meets 21 rebaseC collecting ∧ rebaseC.snap = none ∧ rebaseC.state = .running ∧
      rebaseC.op = .rebuild (rebuildOf .rebase) :=
  ⟨rfl, rfl, meets _ _ _ rfl rfl, rfl, meets _ _ _ rfl rfl, rfl, rfl, meets _ _ _ rfl rfl, rfl, meets _ _ _ rfl rfl, rfl,
    meets _ _ _ rfl rfl, rfl, by simp [stepC], by decide, meets _ _ _ rfl rfl, rfl, rfl, rfl⟩

theorem witness_HoldAndStop :
    (Meets 24 runC collecting ∧ runC.snap = none ∧ runC.state = .running ∧ runC.op = .none ∧ runC.probes = [] ∧
      runC.redo = false) ∧
    (Meets 24 stepC collecting ∧ stepC.op ≠ .none ∧
      ¬(stepC.op = .seekDone ∨ stepC.op = .rebaseDone ∨ ∃ r, stepC.op = .rebuild r)) ∧
    (Meets 25 armedC collecting ∧ armedC.state = .armed) ∧ (Meets 24 seekingC collecting ∧ seekingC.state = .seeking) ∧
    (Meets 25 rebaseC collecting ∧ rebaseC.state = .running ∧ rebaseC.op = .rebuild (rebuildOf .rebase)) ∧
    (Meets 25 { seekingC with op := .seekDone } collecting ∧
      ∀ r : Rebuild, ({ seekingC with op := .seekDone } : Cursor).op ≠ .rebuild r) ∧
    Meets 24 snapC collecting ∧ snapC.snap ≠ none :=
  ⟨⟨meets _ _ _ rfl rfl, rfl, rfl, rfl, rfl, rfl⟩, ⟨meets _ _ _ rfl rfl, by decide, by simp [stepC]⟩,
    ⟨meets _ _ _ rfl rfl, rfl⟩, ⟨meets _ _ _ rfl rfl, rfl⟩, ⟨meets _ _ _ rfl rfl, rfl, rfl⟩,
    ⟨meets _ _ _ rfl rfl, by simp⟩, meets _ _ _ rfl rfl, by decide⟩

theorem witness_ArmArms :
    Meets 26 heldC collecting ∧ heldC.options.source = .request ∧
      Meets 26 { heldC with options := armedC.options } collecting ∧ armedC.options.source ≠ .request :=
  ⟨meets _ _ _ rfl rfl, rfl, meets _ _ _ rfl rfl, by decide⟩

theorem witness_SnapshotCountsPoints :
    Meets 27 endedC collecting ∧ endedC.snap = none ∧ endedC.state = .ended ∧ Meets 27 overtakenC collecting ∧
      overtakenC.overtaken ≠ none ∧ (4095 : Nat) ≤ 4095 ∧ (∀ x ∈ some 255, x ≤ 255) ∧ ¬(4096 : Nat) ≤ 4095 :=
  ⟨meets _ _ _ rfl rfl, rfl, rfl, meets _ _ _ rfl rfl, by decide, by decide, by simp, by decide⟩

theorem witness_FetchAndReadTrail :
    ∃ (c : Cursor) (b : Batch), Meets 29 c collecting ∧ Meets 34 c collecting ∧ c.options.mode = .notice ∧
      c.buffer.completed = [b] ∧ c.buffer.waiting = none ∧ heldC.buffer.completed = [] :=
  ⟨{ heldC with buffer := { Buffer.opened with completed := [⟨none, 0, []⟩] } }, ⟨none, 0, []⟩, meets _ _ _ rfl rfl,
    meets _ _ _ rfl rfl, rfl, rfl, rfl, rfl⟩

theorem witness_ProbeJoinsQueue :
    (Meets 30 probeC collecting ∧ probeC.probes.length < 4) ∧ (Meets 30 heldC collecting ∧ heldC.probes = [] ∧
      heldC.state ≠ .seeking ∧ heldC.state ≠ .running) ∧ (Meets 30 stepC collecting ∧ stepC.op = .step flight ∧
      stepC.buffer.writing.length < flight.written ∧ ({ flight with written := 0 } : StepFlight).written ≤ 0) ∧
      4 ≤ ({ probeC with probes := List.replicate 4 ⟨0, 0, 0, none⟩ } : Cursor).probes.length ∧
      ((4095 : Nat) ≤ 4095 ∧ (2 ^ 40 - 1 : Nat) ≤ 2 ^ 40 - 1 ∧ (65535 : Nat) ≤ 65535) ∧ ¬(65536 : Nat) ≤ 65535 :=
  ⟨⟨meets _ _ _ rfl rfl, by decide⟩, ⟨meets _ _ _ rfl rfl, rfl, by decide, by decide⟩,
    ⟨meets _ _ _ rfl rfl, rfl, by decide, by decide⟩, by decide, by decide, by decide⟩

theorem witness_WatchRequests :
    Meets 31 heldC collecting ∧ ¬(heldC.state = .seeking ∨ heldC.state = .running ∨ heldC.state = .armed) ∧
      (∃ cond, watchCondOf (.stationCount 255 0 4 4096) = some cond) ∧ (7 : Byte).toNat < 8 ∧ 8 ≤ (8 : Byte).toNat ∧
      watchCondOf (.stationCount 255 0 4 4097) = none ∧ watchCondOf (.pointState 0 5) = none ∧
      Meets 32 runC collecting ∧ runC.state = .running ∧ Meets 33 runC collecting ∧ (∀ n ∈ [7], n < 8) ∧
      ∃ n ∈ [8], 8 ≤ n :=
  ⟨meets _ _ _ rfl rfl, by decide, ⟨_, rfl⟩, by decide, by decide, by decide, by decide, meets _ _ _ rfl rfl, rfl,
    meets _ _ _ rfl rfl, by decide, by decide⟩

theorem witness_ClockArbitration :
    Taken (ask 35 [] State.reset) 0 35 7 [] ∧ (ask 35 [] State.reset).clock.controller = none ∧
      (Taken (controlling Clock.reset 35) 0 35 7 [] ∧ (controlling Clock.reset 35).clock.controller = some 0) ∧
      (∃ s : State, Taken s 0 35 7 [] ∧ s.clock.controller = some 1 ∧ (1 : PortId) ≠ 0 ∧
        s.clock.waitList = [2] ++ 0 :: [] ∧ (0 : PortId) ∉ ([2] : List PortId)) ∧
      (Taken (controlling Clock.reset 36) 0 36 7 [] ∧ (controlling Clock.reset 36).clock.waitList = []) ∧
      (Taken (controlling { Clock.reset with waitList := [1] } 36) 0 36 7 [] ∧
        (controlling { Clock.reset with waitList := [1] } 36).clock.waitList = 1 :: []) ∧
      Taken (ask 37 [] State.reset) 0 37 7 [] :=
  ⟨ask_taken _ _ _ rfl, rfl, ⟨ask_taken _ _ _ rfl, rfl⟩,
    ⟨ask 35 [] { State.reset with clock := { Clock.reset with controller := some 1, waitList := [2, 0] } },
      ask_taken _ _ _ rfl, rfl, by decide, rfl, by decide⟩,
    ⟨ask_taken _ _ _ rfl, rfl⟩, ⟨ask_taken _ _ _ rfl, rfl⟩, ask_taken _ _ _ rfl⟩

theorem witness_ClockControlRequests :
    requestOf (.clockSet 0 (2 ^ 40)) = some (0, 40) ∧ (2 ^ 40 - 1 : Nat) < 2 ^ 40 ∧
      (Taken (ask 40 [] State.reset) 0 40 7 [] ∧ (ask 40 [] State.reset).clock.controller ≠ some 0) ∧
      (Taken (controlling { Clock.reset with run := .running } 39) 0 39 7 [] ∧
        (controlling { Clock.reset with run := .running } 39).clock.run = .running) ∧
      (Taken (controlling Clock.reset 41) 0 41 7 [] ∧ (1 : Nat) ≤ 65535 ∧ (65535 : Nat) ≠ Clock.reset.rate) ∧
      (Taken (controlling Clock.reset 42) 0 42 7 [] ∧ (3600 : Nat) ≤ 3600) ∧
      (Taken (controlling { Clock.reset with instant := 2 ^ 40 - 1 } 38) 0 38 7 [] ∧
        (controlling { Clock.reset with instant := 2 ^ 40 - 1 } 38).clock.run = .stopped) ∧
      Taken (controlling { Clock.reset with instant := 2 ^ 40 - 2 } 38) 0 38 7 [] ∧ (2 ^ 40 - 2 : Nat) < 2 ^ 40 - 1 :=
  ⟨rfl, by decide, ⟨ask_taken _ _ _ rfl, by simp [ask, State.reset, Clock.reset]⟩, ⟨ask_taken _ _ _ rfl, rfl⟩,
    ⟨ask_taken _ _ _ rfl, by decide, by decide⟩, ⟨ask_taken _ _ _ rfl, by decide⟩, ⟨ask_taken _ _ _ rfl, rfl⟩,
    ask_taken _ _ _ rfl, by decide⟩

theorem witness_ClockSetReseeks :
    ∃ s : State, Taken s 0 40 7 [0] ∧ s.clock.controller = some 0 ∧
      s.live.cursor 0 = some { boundC with state := .running } ∧
      ({ boundC with state := .running } : Cursor).options.pacing = .bound ∧ (2 ^ 40 - 1 : Nat) ≤ 2 ^ 40 - 1 :=
  ⟨ask 40 [0] (holding { boundC with state := .running }
      { State.reset with clock := { Clock.reset with controller := some 0 } }),
    ask_taken _ _ _ rfl, rfl, by simp [ask, holding], rfl, by decide⟩

/-- R171: a RUNNING bound cursor with a batch being written and an item that waits. -/
theorem witness_ClockSet_flushes :
    let b : Buffer := { Buffer.opened with writing := [⟨0, .marker (.head 0)⟩], waiting := some (.marker (.head 0)) }
    let c : Cursor := { boundC with state := .running, buffer := b }
    c.state = .running ∧ c.options.pacing = .bound ∧ c.options.mode = .notice ∧ c.buffer.writing ≠ [] ∧
      c.buffer.waiting ≠ none :=
  ⟨rfl, rfl, rfl, by simp, by simp⟩

/-- A RUNNING clock in front of a waiting bound cursor. -/
def waitingBound : Cursor := { boundC with state := .running, waiting := true, parked := true, instant := some 0 }

theorem witness_WallTimePasses :
    State.reset.pending = [] ∧
      (∃ s : State, s.resetLow = false ∧ s.clock.run = .running ∧ s.clock.instant + s.clock.rate ≤ 2 ^ 40 - 1 ∧
        s.live.cursor 0 = some waitingBound ∧ waitingBound.waiting = true ∧ waitingBound.op = .none) ∧
      2 ^ 40 - 1 < (2 ^ 40 - 1000) + Clock.reset.rate ∧
      ∃ s : State, s.resetLow = false ∧ s.clock.leaseLeft ≠ none ∧ s.clock.controller = some 0 ∧
        s.clock.waitList = 1 :: [] :=
  ⟨rfl, ⟨holding waitingBound { State.reset with clock := { Clock.reset with run := .running, pacing := some 0 } }, rfl, rfl,
      by decide, by simp [holding], rfl, rfl⟩, by decide,
    { State.reset with clock := { Clock.reset with controller := some 0, waitList := [1], leaseLeft := some 0 } }, rfl,
    by simp, rfl, rfl⟩

theorem witness_StepReadApplies :
    ∃ (s : State) (c : Cursor), s.resetLow = false ∧ s.live.cursor 0 = some c ∧ c.state = .running ∧ c.op = .none ∧
      c.probes = [] ∧ c.parked = false ∧ c.overtaken = none ∧
      nextAfter c.position s.history.records = some (recordAt 6 1) ∧ (∀ e ∈ c.options.windowEnd, 6 ≤ e) ∧
      (c.options.pacing = .bound → (recordAt 6 1).time ≤ s.clock.instant) ∧ c.trailFrozen = false ∧
      s.history.records.Pairwise fun a b => keyBefore a.key b.key = true :=
  ⟨holding { runC with options := { Options.opened with windowEnd := some 6 } } (storing [recordAt 6 1, recordAt 7 2] .sealed),
    _, rfl, holding_cursor _ _, rfl, rfl, rfl, rfl, rfl, by decide +kernel, by simp, by simp [Options.opened], rfl,
    by simp [holding, storing]; decide⟩

theorem witness_StepReadWaitsOrEnds :
    (∃ (s : State) (c : Cursor), s.live.cursor 0 = some c ∧ c.state = .running ∧ c.options.pacing = .bound ∧
      c.pendingHold = none ∧ c.underStep = false ∧ nextAfter c.position s.history.records = some (recordAt 6 1) ∧
      s.clock.instant < 6 ∧ ∀ e ∈ c.options.windowEnd, 6 ≤ e) ∧
    (∃ (s : State) (c : Cursor), s.live.cursor 0 = some c ∧ c.state = .running ∧ c.options.pacing = .freeRun ∧
      c.atHead = false ∧ s.history.phase = .collecting ∧ nextAfter c.position s.history.records = none ∧
      c.buffer.hasRoom c.options = true) ∧
    (∃ (s : State) (c : Cursor), s.live.cursor 0 = some c ∧ c.state = .running ∧ c.options.pacing = .freeRun ∧
      c.options.loop = false ∧ c.buffer.hasRoom c.options = true ∧
      nextAfter c.position s.history.records = none ∧ s.history.phase = .sealed) ∧
    ∃ (s : State) (c : Cursor), s.live.cursor 0 = some c ∧ c.state = .running ∧ c.options.pacing = .freeRun ∧
      c.options.loop = true ∧ c.applied = true ∧ c.buffer.hasRoom c.options = true ∧
      nextAfter c.position s.history.records = some (recordAt 6 1) ∧ c.options.windowEnd = some 5 ∧
      (5 : Nat) < (recordAt 6 1).time :=
  ⟨⟨holding { boundC with state := .running } (storing [recordAt 6 1] .sealed), _, holding_cursor _ _, rfl, rfl, rfl, rfl,
      by decide +kernel, by decide, by simp [boundC, Options.opened]⟩,
    ⟨holding runC (storing [] .collecting), _, holding_cursor _ _, rfl, rfl, rfl, rfl, rfl, rfl⟩,
    ⟨holding runC (storing [] .sealed), _, holding_cursor _ _, rfl, rfl, rfl, rfl, rfl, rfl⟩,
    holding { runC with applied := true, options := { Options.opened with loop := true, windowEnd := some 5 } }
      (storing [recordAt 6 1] .sealed), _, holding_cursor _ _, rfl, rfl, rfl, rfl, rfl, by decide +kernel, rfl, by decide⟩

theorem witness_RebuildReadsApplyOrComplete :
    (∃ (s : State) (c : Cursor), s.live.cursor 0 = some c ∧ c.op = .rebuild (rebuildOf .seek) ∧
      nextAfter c.position s.history.records = some (recordAt 9 1) ∧ (recordAt 9 1).time ≤ (rebuildOf .seek).target) ∧
    (∃ (s : State) (c : Cursor), s.live.cursor 0 = some c ∧ c.op = .rebuild (rebuildOf .seek) ∧
      (∀ r ∈ nextAfter c.position s.history.records, (rebuildOf .seek).target < r.time) ∧
      c.buffer.hasRoom c.options = true ∧ c.probes = [] ∧ c.overtaken = none ∧ c.pendingHold = none ∧
      c.underStep = false ∧ c.snap = none) ∧
    ∃ (s : State) (c : Cursor), s.live.cursor 0 = some c ∧ c.op = .rebuild (rebuildOf .rebase) ∧ c.state = .running ∧
      ∀ r ∈ nextAfter c.position s.history.records, (rebuildOf .rebase).target < r.time :=
  ⟨⟨holding seekingC (storing [recordAt 9 1] .sealed), _, holding_cursor _ _, rfl, by decide +kernel, by decide⟩,
    ⟨holding seekingC (storing [recordAt 10 1] .sealed), _, holding_cursor _ _, rfl, by decide +kernel, rfl, rfl, rfl, rfl,
      rfl, rfl⟩,
    holding rebaseC (storing [] .sealed), _, holding_cursor _ _, rfl, rfl, by simp [holding, storing, nextAfter]⟩

/-- A probe of point 0 at 9 µs that has begun. -/
def begun : ProbeWork :=
  { chosen := none, lastRead := none, answer := { state := .unknown, time := none, commit := none, quality := none } }

theorem witness_ProbesAndSnapshotsProceed :
    (∃ (s : State) (c : Cursor), s.live.cursor 0 = some c ∧ c.state = .held ∧
      c.probes = [{ tag := 1, point := 0, instant := 9, work := some begun }] ∧
      probeNext s.env { tag := 1, point := 0, instant := 9, work := some begun } begun = some (recordAt 9 1)) ∧
    (probeNext (storing [recordAt 10 1] .sealed).env { tag := 1, point := 0, instant := 9, work := some begun } begun = none) ∧
    ∃ (s : State) (c : Cursor), s.live.cursor 0 = some c ∧ c.op = .none ∧ c.buffer.waiting = none ∧ c.probes = [] ∧
      c.snap = some { todo := 0 :: [1], opening := false } ∧ c.options.mode = .push ∧ c.buffer.outgoing.length < 16 :=
  ⟨⟨holding { heldC with probes := [{ tag := 1, point := 0, instant := 9, work := some begun }] }
      (storing [recordAt 9 1] .sealed), _, holding_cursor _ _, rfl, rfl, by decide +kernel⟩, by decide +kernel,
    holding { snapC with options := { Options.opened with mode := .push } } collecting, _, holding_cursor _ _, rfl, rfl, rfl,
    rfl, rfl, by decide⟩

theorem witness_ItemCompletesBatch :
    ∃ (s : State) (c : Cursor), s.resetLow = false ∧ s.live.cursor 0 = some c ∧ c.op = .none ∧ c.buffer.waiting = none ∧
      c.probes = [] ∧ c.snap = some { todo := 0 :: 1 :: [], opening := false } ∧ c.options.mode = .notice ∧
      c.options.split = false ∧ c.buffer.completed = [] ∧ c.buffer.writing.length + 1 < c.options.batchSize ∧
      ({ c with options := { c.options with batchSize := 1 } } : Cursor).options.batchSize ≤ c.buffer.writing.length + 1 :=
  ⟨holding snapC collecting, _, rfl, holding_cursor _ _, rfl, rfl, rfl, rfl, rfl, rfl, rfl, by decide, by decide⟩

/-- The cursor with one SNAP item of its snapshot left. -/
def lastSnapC : Cursor := { snapC with snap := some { todo := [0], opening := false } }

/-- A last SNAP item with room and without, in NOTICE mode, and one that a rebase opened, with no probe waiting. -/
theorem witness_ItemCompletesBatch_last :
    let blocked : Cursor := { lastSnapC with buffer := { Buffer.opened with completed := [⟨none, 0, []⟩] } }
    let opened : Cursor := { lastSnapC with snap := some { todo := [0], opening := true } }
    ((holding lastSnapC collecting).live.cursor 0 = some lastSnapC ∧ lastSnapC.op = .none ∧
      lastSnapC.buffer.waiting = none ∧ lastSnapC.snap = some { todo := 0 :: [], opening := false } ∧
      lastSnapC.options.mode = .notice ∧ lastSnapC.buffer.hasRoom lastSnapC.options = true ∧
      lastSnapC.buffer.writing.length + 1 < lastSnapC.options.batchSize) ∧
    (blocked.op = .none ∧ blocked.buffer.waiting = none ∧ blocked.buffer.hasRoom blocked.options = false) ∧
    opened.snap = some { todo := 0 :: [], opening := true } ∧ opened.probes = [] :=
  ⟨⟨holding_cursor _ _, rfl, rfl, rfl, rfl, rfl, by decide⟩, ⟨rfl, rfl, rfl⟩, rfl, rfl⟩

/-- R123, R134, R135: the last SNAP item ends the snapshot and flushes a batch of one item, with its BATCH_READY. -/
theorem test_snapshot_ends :
    (match exec (.itemWritten 0) (ask 19 [] (holding lastSnapC collecting)) with
      | .next t =>
          (t.live.cursor 0).map fun d =>
            (d.snap.isNone, d.buffer.writing.length, d.buffer.completed.map fun b => b.items.length,
              (t.live.port 0).notices.map Notice.kind)
      | _ => none) = some (true, 0, [1], [.batchReady]) := by decide +kernel

/-! ### Further clauses: the premises of each are met -/

/-- A pending entry of point 0 at a tick distance. -/
def pendingAt (ticks : Nat) : PendingEntry := { seq := 5, idx := 0, point := 0, state := .closed, cause := none, ticks := ticks }

/-- UNANCHORED with one pending entry. -/
def waitingTiming (lastKnown : Option Nat) : Timing :=
  { Timing.reset with pendingList := [pendingAt 2], tickCount := 4, lastKnown := lastKnown }

/-- Recorder 0 can spill, recorder 1 has no base; a cursor waits at the head. -/
def sealing : State :=
  ask 4 []
    (holding { runC with atHead := true, parked := true }
      { collecting with
        contexts :=
          vput (vput State.reset.contexts 0 { Context.reset with timing := waitingTiming (some 9) }) 1
            { Context.reset with timing := waitingTiming none } })

theorem witness_Seal_spills :
    Taken sealing 0 4 7 [] ∧ sealing.history.phase = .collecting ∧ sealing.merge.queue = [] ∧
      (sealing.contexts.get 0).timing = waitingTiming (some 9) ∧ (sealing.contexts.get 1).timing = waitingTiming none ∧
      (sealing.tables.recorders.get 1).fallback = none ∧
      placedAll (sealing.procEnv 0) none .estimated (estimated 9 1000 [pendingAt 2]) =
        [{ time := 2009, point := 0, state := .closed, quality := .estimated, cause := none
           source := { recorder := 0, seq := 5, idx := 0, recorderTime := 2009 } }] :=
  ⟨ask_taken _ _ _ rfl, rfl, rfl, by simp [sealing, ask, holding, vput_get], by simp [sealing, ask, holding], by
    simp [sealing, ask, holding, collecting, State.reset, Tables.reset, RecorderEntry.reset], by decide +kernel⟩

theorem witness_Seal_ends_at_head :
    sealing.live.cursor 0 = some { runC with atHead := true, parked := true } ∧ runC.state = .running ∧
      runC.options.pacing = .freeRun ∧ runC.options.loop = false ∧ runC.op = .none ∧ runC.probes = [] ∧
      runC.pendingHold = none ∧ runC.overtaken = none ∧ runC.underStep = false ∧
      runC.buffer.hasRoom runC.options = true ∧
      ∀ r : RecId, ((ask 4 [] (holding { runC with atHead := true } collecting)).contexts.get r).timing.pendingList = [] :=
  ⟨by simp [sealing, ask, holding], rfl, rfl, rfl, rfl, rfl, rfl, rfl, rfl, by decide, fun r => by
    simp [ask, holding, collecting, State.reset, Context.reset, Timing.reset]⟩

/-- R8: admitted; no room left; a source that the store holds; a source admitted before (log 15). -/
theorem witness_sealAdmit :
    sealAdmit [] 1 [] [candidateAt 9 .locked] = ([candidateAt 9 .locked], []) ∧
      sealAdmit [] 0 [] [candidateAt 9 .locked] = ([], [candidateAt 9 .locked]) ∧
      sealAdmit [{ recordAt 6 1 with timing := sourceOf 1 0 }] 1 [] [candidateAt 9 .locked] = ([], [candidateAt 9 .locked]) ∧
      sealAdmit [] 2 [] [candidateAt 9 .locked, candidateAt 8 .free] = ([candidateAt 9 .locked], [candidateAt 8 .free]) := by
  decide +kernel

theorem witness_Clear_queued :
    Taken (ask 5 [] (ingesting [⟨0, 0, 5, []⟩] none)) 0 5 7 [] ∧
      (∀ k : Slot, (ask 5 [] (ingesting [⟨0, 0, 5, []⟩] none)).live.cursor k = none) ∧
      (ask 5 [] (ingesting [⟨0, 0, 5, []⟩] none)).merge.queue = [⟨0, 0, 5, []⟩] ∧
      ((ask 5 [] (ingesting [⟨0, 0, 5, []⟩] none)).merge.finished.get 0).length ≤ 8 :=
  ⟨ask_taken _ _ _ rfl, fun k => by simp [ask, ingesting, collecting, State.reset, Live.reset, Live.cursor, Live.setPort], rfl,
    by simp [ask, ingesting, MergeEngine.reset]⟩

/-- What the commit of `witness_SegmentCommitInstalls` touches: a record of point 0 at 6 µs. -/
theorem test_touched :
    ((processing anchored History.reset).verdict.map fun v =>
      match v.2 with
      | .commit x =>
          (takeCandidates 2000 (processing anchored History.reset).history x.staged).touched.map fun y => (y.point, y.times)
      | .failed _ _ => []) = some [(0, [6])] := by
  decide +kernel

/-- A cursor beside the segment in progress. -/
def beside (c : Cursor) : State := holding c (processing anchored History.reset)

/-- A commit finds a cursor it overtakes at a boundary, one with a hold pending, one at the head, one that computes a
probe of the point and one whose probe lies before the record. -/
theorem witness_Commit_reaches_cursors :
    (∀ c : Cursor, (beside c).resetLow = false ∧ (beside c).live.cursor 0 = some c ∧
      ∃ x : Proc, (beside c).verdict = some (changeSegment, .commit x)) ∧
    (let c : Cursor := { runC with instant := some 6 }
     c.state = .running ∧ c.op = .none ∧ c.probes = [] ∧ c.redo = false ∧ c.pendingHold = none ∧ c.underStep = false ∧
       Overtakes (some 6) [{ commit := 1, point := 0, times := [6], key := ⟨6, 0, 0, 5⟩ }] none (some ⟨6, 1⟩)) ∧
    ({ runC with pendingHold := some .hold } : Cursor).pendingHold ≠ none ∧
    (({ runC with atHead := true } : Cursor).atHead = true ∧ keyAfter ⟨6, 0, 0, 5⟩ runC.position = true) ∧
    (∀ i : Nat, ({ heldC with probes := [⟨1, 0, i, some ⟨none, none, ⟨.unknown, none, none, none⟩⟩⟩] } : Cursor).probes =
      ⟨1, 0, i, some ⟨none, none, ⟨.unknown, none, none, none⟩⟩⟩ :: []) ∧ (6 : Nat) ≤ 6 ∧ (5 : Nat) < 6 :=
  ⟨fun c => ⟨rfl, holding_cursor _ _, _, rfl⟩,
    ⟨rfl, rfl, rfl, rfl, rfl, rfl, fun h => absurd h (by decide), fun _ => ⟨_, rfl, by decide, by decide, by decide⟩⟩,
    by decide, ⟨rfl, by decide⟩, fun _ => rfl, by decide, by decide⟩

/-- A recorder's processing from a timing. -/
def procOf (t : Timing) : Proc := { timing := t, staged := [], gapChanges := [], opened := 0, raised := 0 }

def envOf (fallback : Option Nat) (held : Nat) : ProcEnv :=
  { slot := 0, entry := { RecorderEntry.reset with fallback := fallback }, tables := Tables.reset, gapsHeld := held }

/-- 64 pending entries. -/
def fullTiming : Timing := { Timing.reset with pendingList := List.replicate 64 (pendingAt 0) }

/-- The 65th entry with and without a base. -/
theorem witness_Pending_spills :
    (procOf fullTiming).timing.state = .unanchored ∧ 64 ≤ (procOf fullTiming).timing.pendingList.length ∧
      (procOf fullTiming).spill (envOf none 0) = none ∧
      (((procOf fullTiming).spill (envOf (some 3) 0)).map fun z => (z.staged.length, z.timing.state)) =
        some (64, .estimating) ∧ (procOf (waitingTiming none)).timing.pendingList.length < 64 := by decide +kernel

/-- An ANCHOR in each timing state: back-placing, a step judged, a gap to close; one off the grid. -/
theorem witness_Anchor_states :
    (procOf (waitingTiming none)).timing.state = .unanchored ∧ (procOf anchored).timing.state = .anchored ∧
      (procOf { anchored with state := .estimating, openGap := some 3 }).timing.state = .estimating ∧
      (((procOf (waitingTiming none)).anchor (envOf none 0) 9000 .locked).staged.map Candidate.time) = [7000] ∧
      ((procOf (waitingTiming none)).anchor (envOf none 0) 1000 .locked).staged = [] ∧
      ((procOf anchored).anchor (envOf none 0) 9000 .free).raised.holds .clockStep = true ∧
      ((procOf { anchored with state := .estimating, openGap := some 3 }).anchor (envOf none 0) 9 .locked).gapChanges =
        [.closing 3 9] ∧ (2 ^ 40 - 1 : Int) < correct (envOf none 0).entry (some (2 ^ 40)) (2 ^ 40) := by decide +kernel

/-- A LOSS that opens a gap, adds to an open one, spills first, and meets a full Gap List. -/
theorem witness_Loss_states :
    ((procOf { Timing.reset with openGap := some 3 }).timing.state = .unanchored ∧
      (procOf { Timing.reset with openGap := some 3 }).timing.pendingList = []) ∧
    ((procOf anchored).timing.state = .anchored ∧ (envOf none 511).gapsHeld + (procOf anchored).opened < 512 ∧
      512 ≤ (envOf none 512).gapsHeld + (procOf anchored).opened) ∧
    ((procOf { anchored with state := .estimating }).timing.openGap = none) ∧
    (((procOf (waitingTiming (some 9))).spill (envOf none 0)).isSome = true ∧
      (procOf (waitingTiming none)).spill (envOf none 0) = none) ∧
    ([(⟨0, 1, none, some 4294967295⟩ : Gap)][0]? = some ⟨0, 1, none, some 4294967295⟩ ∧
      applyGap [⟨0, 1, none, some 4294967295⟩] (.addLost 0 (some 1)) = [⟨0, 1, none, some 4294967295⟩]) := by
  decide +kernel

/-- R16: two equally near records. -/
theorem witness_Match_tie :
    findMatch 3 (candidateAt 9 .locked) [recordAt 6 1, recordAt 12 2] = some (recordAt 6 1) ∧
      [recordAt 6 1, recordAt 12 2].Pairwise fun a b => keyBefore a.key b.key = true := by decide +kernel

/-- R148: a condition of each kind at the ends of its ranges, and a code or number past them. -/
theorem witness_WatchConds :
    watchCondOf (.pointState 4095 4) = some (.pointState 4095 .faulty) ∧ watchCondOf (.pointState 4096 4) = none ∧
      watchCondOf (.stationCount 255 0 1 4096) = some (.stationCount 255 none .opened 4096) ∧
      watchCondOf (.stationCount 256 0 1 1) = none ∧ watchCondOf (.stationCount 0 4 1 1) = none ∧
      watchCondOf (.quality 2) = some (.quality .estimatedOnly) ∧ watchCondOf (.quality 3) = none ∧
      watchCondOf (.instant (2 ^ 40 - 1)) = some (.instant (2 ^ 40 - 1)) ∧ watchCondOf (.instant (2 ^ 40)) = none ∧
      watchCondOf (.gap (some 63)) = some (.gap (some 63)) ∧ watchCondOf (.gap (some 64)) = none := by decide

/-- A bound cursor in slot 0 where port 0 controls the clock. -/
def besideClock (c : Cursor) : State :=
  ask 40 [0] (holding c { State.reset with clock := { Clock.reset with controller := some 0 } })

theorem witness_ClockSet_chained :
    Taken (besideClock { seekingC with options := boundC.options, chain := true }) 0 40 7 [0] ∧
      (besideClock { seekingC with options := boundC.options, chain := true }).live.cursor 0 =
        some { seekingC with options := boundC.options, chain := true } ∧ seekingC.state = .seeking ∧
      boundC.options.pacing = .bound ∧ (besideClock boundC).live.cursor 0 = some boundC ∧ boundC.state = .held ∧
      (besideClock armedC).live.cursor 0 = some armedC ∧ armedC.state = .armed ∧ armedC.options.source ≠ .clockMark :=
  ⟨ask_taken _ _ _ rfl, by simp [besideClock, ask, holding], rfl, rfl, by simp [besideClock, ask, holding], rfl,
    by simp [besideClock, ask, holding], rfl, by decide⟩

/-- R170: a RUNNING bound cursor with a probe queued, behind a record that the advance reaches. -/
theorem witness_Lagging :
    let c : Cursor := { boundC with state := .running, probes := probeC.probes }
    let s : State := holding c { storing [recordAt 6 1] .sealed with clock := { Clock.reset with run := .running } }
    s.resetLow = false ∧ s.clock.run = .running ∧ s.live.cursor 0 = some c ∧ c.state = .running ∧
      c.options.pacing = .bound ∧ c.probes ≠ [] ∧ recordAt 6 1 ∈ s.history.records ∧
      (recordAt 6 1).time ≤ s.clock.instant + s.clock.rate ∧ keyAfter (recordAt 6 1).key c.position = true :=
  ⟨rfl, rfl, holding_cursor _ _, rfl, rfl, by decide, by simp [holding, storing], by decide, by decide⟩

/-- A watch of every action on point 0 CLOSED. -/
def closedWatch : Watch :=
  { cond := .pointState 0 .closed, actions := { hold := true, mark := true, signal := true }, fired := false, hits := 65535 }

/-- A cursor whose next step crosses a gap and fires its watch. -/
def watchedC : Cursor := { runC with watches := vput idleC.watches 0 (some closedWatch) }

theorem witness_Step_begins :
    let s : State := holding watchedC { storing [recordAt 6 1] .sealed with gaps := [⟨1, 6, none, none⟩] }
    s.live.cursor 0 = some watchedC ∧ watchedC.state = .running ∧ watchedC.op = .none ∧ watchedC.buffer.waiting = none ∧
      nextAfter watchedC.position s.history.records = some (recordAt 6 1) ∧
      StepMarker s.gaps watchedC.stepBase 6 (.gapOpen 1 0 6) ∧
      Fires s.tables s.gaps watchedC (recordAt 6 1) closedWatch.cond ∧ watchedC.watches.get 0 = some closedWatch := by
  refine ⟨holding_cursor _ _, rfl, rfl, rfl, by decide +kernel, ⟨0, _, rfl, Or.inl ⟨⟨fun b hb => ?_, by decide⟩, rfl⟩⟩,
    ⟨by decide +kernel, by decide +kernel⟩, by simp [watchedC]⟩
  cases hb
  decide

/-- A cursor in a step of recordAt 6 with these items to write. -/
def inStep (c : Cursor) (items : List ItemPlan) (fired : List WatchId) : Cursor :=
  { c with op := .step { flight with todo := items, fired := fired } }

/-- An item of a step without room, with items after it, and as the last: with a HOLD and SIGNAL watch fired, with a
hold pending, overtaken, and with a probe queued. -/
theorem witness_Step_items :
    (∀ (c : Cursor) (items : List ItemPlan) (fired : List WatchId),
      (holding (inStep c items fired) collecting).live.cursor 0 = some (inStep c items fired) ∧
        (inStep c items fired).op = .step { flight with todo := items, fired := fired }) ∧
    watchedC.state = .running ∧ watchedC.buffer.waiting = none ∧ watchedC.buffer.hasRoom watchedC.options = true ∧
    ({ watchedC.buffer with completed := [⟨none, 0, []⟩] } : Buffer).hasRoom watchedC.options = false ∧
    SomeFired WatchActions.hold [0] watchedC ∧ SomeFired WatchActions.signal [0] watchedC ∧
    ¬SomeFired WatchActions.hold [] runC ∧ runC.pendingHold = none ∧ runC.underStep = false ∧ runC.probes = [] ∧
    runC.redo = false ∧ ({ runC with pendingHold := some .hold } : Cursor).pendingHold ≠ none ∧
    ({ runC with overtaken := some ⟨3, 1⟩ } : Cursor).overtaken ≠ none ∧ probeC.probes ≠ [] ∧
    Awaits 0 { armedC with options := { armedC.options with source := .cursor 0 } } :=
  ⟨fun _ _ _ => ⟨holding_cursor _ _, rfl⟩, rfl, rfl, by decide, by decide, ⟨0, by simp, closedWatch, by simp [watchedC], rfl⟩,
    ⟨0, by simp, closedWatch, by simp [watchedC], rfl⟩, fun ⟨_, h, _⟩ => by simp at h, rfl, rfl, rfl, rfl, by decide, by decide,
    by decide, rfl, rfl⟩

/-- A bound cursor that waits with a batch being written, and a bound one at the head. -/
theorem witness_Waits_bound :
    (let c : Cursor :=
       { boundC with state := .running, buffer := { Buffer.opened with writing := [⟨0, .marker (.head 0)⟩] } }
     c.options.mode = .notice ∧ c.buffer.writing ≠ [] ∧ c.options.pacing = .bound) ∧
    let c : Cursor := { boundC with state := .running }
    (holding c (storing [] .collecting)).live.cursor 0 = some c ∧ c.atHead = false ∧ c.parked = false ∧
      c.buffer.hasRoom c.options = true ∧ nextAfter c.position (storing [] .collecting).history.records = none :=
  ⟨⟨rfl, by decide, rfl⟩, holding_cursor _ _, rfl, rfl, by decide, rfl⟩

/-- A completed rebase with its kept record, a completed wrap, and a read at which a checkpoint is created. -/
theorem witness_Rebuild_kinds :
    (let c : Cursor := { runC with op := .rebuild { rebuildOf .rebase with kept := some ⟨3, 1⟩ } }
     c.state = .running ∧ c.buffer.hasRoom c.options = true ∧ c.overtaken = none ∧ c.pendingHold = none ∧
       c.underStep = false ∧ c.snap = none) ∧
    (let c : Cursor := { runC with op := .rebuild (rebuildOf .wrap) }
     c.state = .running ∧ c.op = .rebuild (rebuildOf .wrap)) ∧
    Eligible 10000000 none (fun b => b < 6) 0 ∧ (1 : Nat) ≤ Study.reset.interval ∧
      CheckpointTable.reset.counter < 4294967295 ∧ 4294967295 ≤ atLimit.counter ∧
      ∀ i : CkptId, (CheckpointTable.reset.entries.get i).valid = false := by
  refine ⟨⟨rfl, by decide, rfl, rfl, rfl, rfl⟩, ⟨rfl, rfl⟩,
    ⟨Nat.dvd_zero _, fun _ h => by simp at h, by decide, fun _ _ _ _ => Nat.zero_le _⟩, by decide, by decide,
    by decide +kernel, fun i => ?_⟩
  simp [CheckpointTable.reset, Checkpoint.reset]

/-- A probe that answers, with and without one after it, in the states that go on from it. -/
theorem witness_Probe_completes :
    let q : Probe := { tag := 1, point := 0, instant := 9, work := some begun }
    let x : Probe := { tag := 2, point := 0, instant := 9, work := none }
    let s : State := storing [recordAt 10 1] .sealed
    (∀ c : Cursor, (holding c s).live.cursor 0 = some c ∧ probeNext (holding c s).env q begun = none) ∧
      (s.history.records.Pairwise fun a b => keyBefore a.key b.key = true) ∧
      (let c : Cursor := { seekingC with op := .serving, probes := [q] }
       c.state = .seeking ∧ c.op = .serving ∧ c.chain = false ∧ ({ c with chain := true } : Cursor).chain = true) ∧
      (let c : Cursor := { runC with probes := [q] }
       c.state = .running ∧ c.op = .none ∧ c.redo = false ∧ c.pendingHold = none ∧ c.underStep = false ∧
         c.overtaken = none ∧ ({ c with pendingHold := some .hold } : Cursor).pendingHold ≠ none ∧
         ({ c with overtaken := some ⟨3, 1⟩ } : Cursor).overtaken ≠ none) ∧
      (let c : Cursor := { stepC with probes := [q, x] }
       c.state = .running ∧ c.op ≠ .none ∧ c.probes = q :: [x] ∧ x.work = none) ∧
      { unsettledC with probes := [q] }.state = .unsettled :=
  ⟨fun _ => ⟨holding_cursor _ _, by simp [holding, storing]; decide +kernel⟩, by simp [storing], ⟨rfl, rfl, rfl, rfl⟩,
    ⟨rfl, rfl, rfl, rfl, rfl, rfl, by decide, by decide⟩, ⟨rfl, by decide, rfl, rfl⟩, rfl⟩

/-- R155: a probe's quality from the store, where its answer holds a commit number and no quality. -/
theorem witness_Probe_quality :
    let w : ProbeWork := { begun with answer := { state := .known .closed, time := some 6, commit := some 1, quality := none } }
    recordAt 6 1 ∈ (storing [recordAt 6 1] .sealed).history.records ∧ w.answer.quality = none ∧
      w.answer.commit = some (recordAt 6 1).commit ∧
      (probeAnswer (storing [recordAt 6 1] .sealed).env w).quality = some .locked := by decide +kernel

/-- A snapshot's item in a split buffer with its other half free, with it completed, and without room in both modes. -/
theorem witness_ItemCompletesBatch_split :
    let c : Cursor := { snapC with snap := some { todo := 0 :: 1 :: [], opening := false } }
    let split : Cursor := { c with options := { c.options with split := true, batchSize := 1 } }
    (split.op = .none ∧ split.buffer.waiting = none ∧ split.probes = [] ∧ split.options.mode = .notice ∧
      split.options.split = true ∧ split.buffer.half = some .a ∧
      split.options.batchSize ≤ split.buffer.writing.length + 1 ∧ ¬∃ b ∈ split.buffer.completed, b.half = some .b) ∧
    (∃ b ∈ [(⟨some .b, 0, []⟩ : Batch)], b.half = some .b) ∧
    (¬({ split.buffer with half := none } : Buffer).half ≠ none) ∧
    ¬({ c.buffer with completed := [⟨none, 0, []⟩] } : Buffer).completed = [] ∧ c.options.split = false := by
  decide

/-! The premises of the invariants are met by states that reset does not show. -/

def twoRecords : State := storing [recordAt 6 1, { recordAt 7 2 with timing := sourceOf 0 1 }] .collecting

theorem witness_StepKeepsStoreLaw : StoreLaw twoRecords ∧ twoRecords.pending = [] := by
  refine ⟨⟨⟨by decide, by decide, by decide⟩, ?_, ?_, ?_⟩, rfl⟩
  · unfold History.ordered; decide
  · decide
  · decide

theorem passing_ranged : passing.ranged := by
  refine ⟨fun p => ?_, fun r => ?_, by decide⟩
  · by_cases hp : (0 : PointId) = p
    · subst hp; simp [passing, PointEntry.reset]
    · simp [passing, vput_get_ne _ _ hp, Tables.reset, PointEntry.reset]
  · refine ⟨?_, ?_, ?_, ?_, ?_, ?_, fun i b hb => ?_⟩
    rotate_left 6
    · by_cases hr : (0 : RecId) = r
      · subst hr
        by_cases hi : (0 : BlockId) = i
        · subst hi
          simp [passing] at hb
          subst hb
          decide
        · simp [passing, vput_get_ne _ _ hi, RecorderEntry.reset] at hb
      · simp [passing, vput_get_ne _ _ hr, Tables.reset, RecorderEntry.reset] at hb
    all_goals
      by_cases hr : (0 : RecId) = r
      · subst hr; simp [passing, RecorderEntry.reset, Config.maxGrid]
      · simp [passing, vput_get_ne _ _ hr, Tables.reset, RecorderEntry.reset, Config.maxGrid]

theorem witness_StepKeepsSetupAndTablesLaws :
    SetupLaw twoRecords ∧ TablesLaw { twoRecords with tables := passing } :=
  ⟨fun h => absurd h (by decide), passing_ranged, fun _ => test_passing⟩

/-- A segment in progress. -/
def loading : State := State.takeNext { collecting with merge := { MergeEngine.reset with queue := [⟨0, 0, 0, []⟩] } }

theorem witness_StepKeepsIngestLaw : IngestLaw loading ∧ loading.merge.work.isSome = true := by
  refine ⟨⟨⟨by decide, fun p => ?_, fun _ => by decide, ?_⟩, fun r => ?_, by decide⟩, by decide⟩
  · simp [loading, State.takeNext, MergeEngine.reset]
  · simp [loading, State.takeNext, workOf]
  · simp [loading, State.takeNext, collecting, State.reset, Context.reset, Timing.reset, Timing.lawful]

theorem witness_StepKeepsClockLaw :
    ∃ s : State, ClockLaw s ∧ s.clock.controller = some 0 ∧ s.resetLow = false := by
  refine ⟨controlling { Clock.reset with leaseLeft := some 60000 } 35, ⟨by unfold Clock.lawful; decide, by decide, by decide, by decide, ?_⟩,
    rfl, rfl⟩
  exact ⟨fun p hp => by simp [controlling, ask] at hp; subst hp; simp [controlling, ask],
    fun p hp => by simp [controlling, ask, Clock.reset] at hp⟩

theorem witness_StepKeepsPortLaw : PortLaw (queued [.faulty]) ∧ ((queued [.faulty]).live.port 0).up = true := by
  refine ⟨⟨fun p => ?_, fun _ k c hc => ?_⟩, by simp [queued]⟩
  · by_cases hp : (0 : PortId) = p
    · subst hp; simp [queued, Port.lawful, Port.reset, Config.requestCapacity]
    · have : (queued [.faulty]).live.port p = Port.reset := by
        rw [queued, live_withLive, port_setPort_ne _ _ hp]
        simp [State.reset, Live.reset, Live.port]
      rw [this]; simp [Port.lawful, Port.reset]
  · simp [queued, State.reset, Live.reset, Live.cursor, Live.setPort] at hc

theorem opened_lawful : Buffer.opened.lawful Options.opened :=
  ⟨by decide, by decide, by decide, fun h => (by cases h), fun _ => ⟨rfl, by decide, by simp [Buffer.opened],
    fun _ => by decide, fun h => (by cases h)⟩⟩

/-- A lawful buffer with a completed batch of one half while the other is written, and one at the full 16 items. -/
theorem witness_full_buffer :
    Buffer.lawful { Options.opened with split := true }
        { Buffer.opened with
          writing := List.replicate 7 ⟨8, .marker (.head 0)⟩, half := some .b
          completed := [⟨some .a, 0, List.replicate 8 ⟨0, .marker (.head 0)⟩⟩] } ∧
      Buffer.lawful { Options.opened with mode := .push }
        { Buffer.opened with outgoing := List.replicate 16 ⟨0, .marker (.head 0)⟩ } := by
  refine ⟨⟨by decide, by decide, by decide, fun h => (by cases h), fun _ => ⟨rfl, by decide, ?_, ?_, fun _ => ⟨?_, ?_, ?_⟩⟩⟩,
    by decide, by decide, by decide, fun _ => ⟨rfl, rfl⟩, fun h => (by cases h)⟩ <;> simp [Options.opened]

theorem witness_StepKeepsCursorLaw : CursorLaw (holding stepC State.reset) := by
  intro k c hc
  by_cases hk : (0 : Slot) = k
  · subst hk
    rw [holding_cursor] at hc
    obtain rfl := Option.some.inj hc
    refine ⟨by decide, by decide, by decide, by decide, by decide, opened_lawful, by decide, fun f hf => ?_⟩
    cases hf
    decide
  · rw [show (holding stepC State.reset).live.cursor k = State.reset.live.cursor k from cursor_setCursor_ne _ _ hk,
      reset_cursor] at hc
    cases hc

/-! ### Triggers, clock marks and the limit -/

/-- A cursor armed from HELD for a source, with a pacing, an action and a window that starts at 7 µs. -/
def armedFor (source : TriggerSource) (pacing : Pacing) (action : TriggerAction) : Cursor :=
  { armedC with
    options := { Options.opened with source := source, pacing := pacing, action := action, windowStart := 7 } }

/-- R119, R172: each case of a trigger's target. -/
theorem witness_triggerTarget :
    triggerTarget 5 (armedFor .line .freeRun .play) = none ∧ triggerTarget 5 (armedFor .line .freeRun .seekPlay) = some 7 ∧
      triggerTarget 5 { armedFor .line .freeRun .play with armedFrom := some .idle } = some 7 ∧
      triggerTarget 5 (armedFor .line .bound .seekPlay) = none ∧ triggerTarget 6 (armedFor .line .bound .play) = some 6 := by
  decide

/-- What a command makes of the cursor in slot 0: its state, its instant and the target of its rebuild. -/
def becomes (o : Host.Outcome State Fault Refusal) : Option (CursorState × Option Nat × Option Nat) :=
  match o with
  | .next t => (t.live.cursor 0).map fun d =>
      (d.state, d.instant, match d.op with
        | .rebuild f => some f.target
        | _ => none)
  | _ => none

/-- R119, R122: one that runs from where it stands, one overtaken, one that seeks, and a BOUND one at and off the clock
instant (its own is 5 µs). -/
theorem test_mark_in_starts :
    becomes (exec .markInEdge (holding (armedFor .line .freeRun .play) collecting)) = some (.running, some 5, none) ∧
      becomes (exec .markInEdge
          (holding { armedFor .line .freeRun .play with overtaken := some ⟨3, 1⟩ } collecting)) =
        some (.running, some 5, some 5) ∧
      becomes (exec .markInEdge (holding (armedFor .line .freeRun .seekPlay) collecting)) =
        some (.seeking, some 5, some 7) ∧
      becomes (exec .markInEdge (holding (armedFor .line .bound .play) collecting)) = some (.seeking, some 5, some 0) ∧
      becomes (exec .markInEdge
          (holding (armedFor .line .bound .play) { collecting with clock := { Clock.reset with instant := 5 } })) =
        some (.running, some 5, none) := by decide +kernel

/-- A clock mark at the ends of its range, and one not reached. -/
theorem witness_MarkReaches :
    MarkReaches 6 7 (armedFor .clockMark .freeRun .play) ∧ ¬MarkReaches 7 8 (armedFor .clockMark .freeRun .play) ∧
      ¬MarkReaches 5 6 (armedFor .clockMark .freeRun .play) ∧ ¬MarkReaches 6 7 (armedFor .line .freeRun .play) := by
  unfold MarkReaches
  decide

/-- A running clock before its mark, at 5 µs, with the rate that reaches it. -/
def beforeMark (c : Cursor) : State :=
  holding c { collecting with clock := { Clock.reset with instant := 5, run := .running, rate := 2, pacing := some 0 } }

/-- R173: CLOCK_SET and an advance start a cursor at its clock mark, a BOUND one toward the instant they come to. -/
theorem witness_ClockMarks :
    (let c := armedFor .clockMark .bound .play
     (besideClock c).live.cursor 0 = some c ∧ MarkReaches (besideClock c).clock.instant 7 c ∧
       becomes (exec (.clockSet 0 7) (besideClock c)) = some (.seeking, some 5, some 7)) ∧
    (let c := armedFor .clockMark .freeRun .seekPlay
     (beforeMark c).live.cursor 0 = some c ∧ (beforeMark c).pending = [] ∧
       becomes (Machine.step (beforeMark c)) = some (.seeking, some 5, some 7)) ∧
    let c := { armedFor .clockMark .bound .play with instant := some 7 }
    becomes (Machine.step (beforeMark c)) = some (.running, some 7, none) := by
  refine ⟨⟨by simp [besideClock, ask, holding], ?_, ?_⟩, ⟨by simp [beforeMark, holding], rfl, ?_⟩, ?_⟩
  · unfold MarkReaches; decide
  all_goals decide +kernel

/-- The advance that meets the limit, before a port subscribed to CLOCK. -/
theorem witness_Limit :
    ∃ s : State, s.resetLow = false ∧ s.clock.run = .running ∧ (s.live.port 0).subs.clock = true ∧
      2 ^ 40 - 1 < s.clock.instant + s.clock.rate :=
  ⟨{ State.reset with
      live := State.reset.live.setPort 0 { Port.reset with up := true, subs := { Port.reset.subs with clock := true } }
      clock := { Clock.reset with run := .running, instant := 2 ^ 40 - 1 } },
    rfl, rfl, by simp, by decide⟩

/-! ### The first fault, the form check, the entries -/

/-- Recorder 0 with two blocks beside a higher recorder at fault. -/
def twoBlocks (a b : MapBlock) : Tables :=
  { passing with
    recorders :=
      vput
        (vput passing.recorders 0
          { passing.recorders.get 0 with blocks := vput (vput RecorderEntry.reset.blocks 0 (some a)) 1 (some b) }) 1
        { passing.recorders.get 0 with blocks := vput RecorderEntry.reset.blocks 0 (some ⟨65535, 4096, 4095⟩) } }

/-- R37, R38: each fault of Table 2-6, at its boundary and before the faults behind it. -/
theorem witness_first_fault :
    tableFault Tables.reset = some (bareFault .noRecorder) ∧
      tableFault { passing with points := Tables.reset.points } = some (bareFault .noPoint) ∧
      tableFault (twoBlocks ⟨0, 1, 0⟩ ⟨65535, 2, 4095⟩) =
        some { kind := .blockChannelRange, recorder := some 0, block := some 1, otherBlock := none, point := none } ∧
      tableFault (twoBlocks ⟨65534, 2, 4094⟩ ⟨65535, 1, 4096⟩) =
        some { kind := .blockPointRange, recorder := some 0, block := some 1, otherBlock := none, point := some 4096 } ∧
      tableFault (twoBlocks ⟨0, 8, 0⟩ ⟨7, 1, 0⟩) =
        some { kind := .blockOverlap, recorder := some 0, block := some 1, otherBlock := some 0, point := none } ∧
      tableFault (twoBlocks ⟨0, 8, 0⟩ ⟨8, 1, 0⟩) =
        some { kind := .blockChannelRange, recorder := some 1, block := some 0, otherBlock := none, point := none } := by
  decide +kernel

/-- R41, R188: a sound body and its entries, an entry at fault, and bodies that name none. -/
theorem witness_formCheck :
    (let es : List SegEntry := [.anchor 65535 (2 ^ 48 - 1) .free, .change 0 65535 .faulty none, .loss 0 none]
     (∀ x ∈ es, x.inRange) ∧
       (formCheck (le 1 4 ++ [0#8] ++ le 2 30 ++ le 2 3 ++ le 2 0 ++ es.flatMap SegEntry.units)).toOption = some es) ∧
    (formCheck (segmentBody.set 24 9#8) = .error (some 1)) ∧ formCheck (segmentBody.set 4 0#8) = .error none ∧
      formCheck (segmentBody.set 1 1#8) = .error none ∧ formCheck (segmentBody ++ [0#8]) = .error none := by
  refine ⟨⟨?_, by decide +kernel⟩, ?_⟩
  · simp [SegEntry.inRange]
  · decide +kernel

/-- An environment with the passing tables. -/
def mapped : ProcEnv := { slot := 0, entry := passing.recorders.get 0, tables := passing, gapsHeld := 0 }

/-- R28, R45: an enabled point, a disabled one, a channel past the block; the lowest-numbered of two blocks, and a point
above 4,095 (log 57). -/
theorem witness_pointOf :
    mapped.pointOf 0 = some 0 ∧ mapped.pointOf 1 = none ∧ mapped.pointOf 4096 = none ∧
      ({ mapped with entry := (twoBlocks ⟨0, 8, 0⟩ ⟨0, 8, 5⟩).recorders.get 0 } : ProcEnv).pointOf 0 = some 0 ∧
      ({ mapped with entry := (twoBlocks ⟨0, 8, 4090⟩ ⟨8, 1, 0⟩).recorders.get 0 } : ProcEnv).pointOf 7 = none := by
  decide +kernel

/-- R44, R40: time advances in each timing state, and stays at 2^48 − 1; a STEP advances twice. -/
theorem witness_advance :
    (procOf anchored).timing.state ≠ .unanchored ∧ (procOf (waitingTiming none)).timing.pendingList ≠ [] ∧
      (procOf Timing.reset).timing.pendingList = [] ∧
      ((procOf anchored).advance mapped (2 ^ 48)).timing.running = some (2 ^ 48 - 1) ∧
      ((procOf (waitingTiming none)).advance mapped 3).timing.tickCount = 7 ∧
      (((procOf anchored).entry mapped 5 0 (.step 1 2)).map fun q => q.timing.running) =
        some (some (6 + 3 * mapped.entry.tickUnit)) := by decide +kernel

/-- R45, R67, R71: an entry without a point, entries in order, and a spill without a base. -/
theorem witness_entries :
    (((procOf anchored).entry mapped 5 0 (.change 0 1 .closed none)).map fun q => (q.staged, q.raised)) =
        some ([], Cause.unmapped.set) ∧
      ((procOf fullTiming).entry mapped 5 0 (.change 0 0 .closed none)).isNone = true ∧
      runEntries mapped 5 (procOf fullTiming) [.step 0 1, .change 0 0 .closed none] = .failed .noTimeBase (some 1) := by
  decide +kernel

/-- R17, R18: the order of the qualities. -/
theorem witness_better :
    (∀ c m : Quality, betterQuality c m = true ↔ c = .locked ∧ m ≠ .locked ∨ c = .free ∧ m = .estimated) := by
  intro c m; cases c <;> cases m <;> decide

/-! ### Items that wait for room -/

/-- A full buffer whose one batch is completed, with an item that waits. -/
def fullWith (x : ItemPlan) : Buffer :=
  { Buffer.opened with completed := [⟨none, 0, [⟨0, .marker (.head 0)⟩]⟩], nextNumber := 1, waiting := some x }

/-- A cursor with an operation that waits to write an item. -/
def waitingFor (state : CursorState) (op : Op) (m : Marker) : Cursor :=
  { heldC with state := state, op := op, buffer := fullWith (.marker m) }

/-- A port's FETCH before a cursor in a state of the part. -/
def fetchingIn (s : State) (c : Cursor) : State := ask 29 [0#8] (holding c s)

/-- A port's FETCH before it. -/
def fetching (c : Cursor) : State := fetchingIn collecting c

theorem witness_Fetch_frees :
    (∀ c : Cursor, c.owner = 0 →
      Taken (fetching c) 0 29 7 [0#8] ∧ Reaches (fetching c) 0 0 [0#8] 0 c) ∧
    heldC.options.mode = .notice ∧
    (∀ x : ItemPlan, (fullWith x).completed = ⟨none, 0, [⟨0, .marker (.head 0)⟩]⟩ :: [] ∧ (fullWith x).waiting = some x ∧
      (fullWith x).hasRoom Options.opened = false ∧
      ({ fullWith x with completed := [] } : Buffer).hasRoom Options.opened = true) :=
  ⟨fun c h => meets 29 c collecting rfl h, rfl, fun _ => ⟨rfl, rfl, rfl, rfl⟩⟩

/-- What a FETCH makes of the cursor: its state, whether it is at rest, the numbers of the items being written, and AT_HEAD. -/
def fetchedIn (s : State) (c : Cursor) : Option (CursorState × Bool × List Nat × Bool) :=
  match exec (.fetch 0 0) (fetchingIn s c) with
  | .next t => (t.live.cursor 0).map fun d =>
      (d.state, d.op == .none, (d.buffer.completed.flatMap Batch.items ++ d.buffer.writing).map Item.number, d.atHead)
  | _ => none

/-- What a FETCH makes of the cursor while the store is empty and COLLECTING. -/
def fetched (c : Cursor) : Option (CursorState × Bool × List Nat × Bool) := fetchedIn collecting c

/-- R131, R136: a marker that waits completes its operation. -/
theorem test_fetch_completes :
    [waitingFor .seeking .seekDone (.seekDone 5), { waitingFor .seeking .seekDone (.seekDone 5) with chain := true },
        waitingFor .running .rebaseDone (.rebase 3 1), waitingFor .running (.ending .windowEnd) (.endPass 5),
        waitingFor .running .heading (.head 5), waitingFor .running .wrapping (.wrap 0)].map fetched =
      [some (.held, true, [1], false), some (.running, true, [1], false), some (.running, true, [1], false),
        some (.ended, true, [1], false), some (.running, true, [1], true), some (.running, false, [1], false)] := by
  decide +kernel

/-- A cursor whose HEAD waits. -/
def headWaits : Cursor := waitingFor .running .heading (.head 5)

/-- The buffer of its HEAD in split mode, with one batch completed and no half being written. -/
def splitFull : Buffer :=
  { Buffer.opened with half := none, completed := [⟨some .a, 0, []⟩], waiting := some (.marker (.head 5)) }

/-- R117, R169: a waiting HEAD in a SEALED store, with and without room for what follows, single and looping, and of a
bound cursor before and at its end; and one with a record after its position. -/
theorem witness_Head_written :
    (∀ c : Cursor, c.owner = 0 → ∀ s : State, s.resetLow = false →
      Taken (fetchingIn s c) 0 29 7 [0#8] ∧ Reaches (fetchingIn s c) 0 0 [0#8] 0 c) ∧
    (storing [] .sealed).history.phase = .sealed ∧ headWaits.op = .heading ∧ headWaits.state = .running ∧
    nextAfter headWaits.position (storing [] .sealed).history.records = none ∧
    nextAfter headWaits.position (storing [recordAt 6 1] .collecting).history.records ≠ none ∧
    (({ fullWith (.marker (.head 5)) with completed := [], waiting := none } : Buffer).delivered Options.opened true
      (.marker (.head 5))).hasRoom Options.opened = false ∧
    (let o : Options := { Options.opened with split := true }
     let taken : Buffer := { splitFull with completed := [], half := some .a }
     splitFull.hasRoom o = false ∧ taken.hasRoom o = true ∧
       (({ taken with waiting := none } : Buffer).delivered o true (.marker (.head 5))).hasRoom o = true) ∧
    (headWaits.options.loop = false ∧
      ¬(({ headWaits with applied := true, options := { Options.opened with loop := true } } : Cursor).options.loop =
          false ∨ ({ headWaits with applied := true } : Cursor).applied = false)) ∧
    (headWaits.options.pacing = .freeRun ∧ boundC.options.pacing = .bound ∧
      collecting.clock.instant < max collecting.clock.instant 9 ∧
      max collecting.clock.instant 0 ≤ collecting.clock.instant) := by
  refine ⟨fun c h s hs => meets 29 c s hs h, ?_⟩
  decide +kernel

/-- R131, R156: SEEK_DONE and REBASE that wait before a probe that waits. -/
theorem witness_Markers_before_probes :
    (let c : Cursor := { waitingFor .seeking .seekDone (.seekDone 5) with probes := probeC.probes }
     c.op = .seekDone ∧ c.state = .seeking ∧ c.probes = { tag := 1, point := 0, instant := 9, work := none } :: []) ∧
    let c : Cursor := { waitingFor .running .rebaseDone (.rebase 3 1) with probes := probeC.probes }
    c.op = .rebaseDone ∧ c.state = .running ∧ c.probes = { tag := 1, point := 0, instant := 9, work := none } :: [] :=
  ⟨⟨rfl, rfl, rfl⟩, rfl, rfl, rfl⟩

/-- R117, R131, R156: END that waits behind HEAD in a SEALED store, a cursor that reads on behind its HEAD, and markers
written before a probe. -/
theorem test_fetch_follows :
    [fetchedIn (storing [] .sealed) headWaits, fetchedIn (storing [recordAt 6 1] .collecting) headWaits,
        fetched { waitingFor .seeking .seekDone (.seekDone 5) with probes := probeC.probes },
        fetched { waitingFor .running .rebaseDone (.rebase 3 1) with probes := probeC.probes }] =
      [some (.running, false, [1], false), some (.running, true, [1], false), some (.seeking, false, [1], false),
        some (.running, true, [1], false)] := by decide +kernel

/-- A step's item and a snapshot's item that wait. -/
theorem witness_Fetch_items :
    (let c : Cursor := { stepC with buffer := fullWith (.marker (.watch 0)) }
     c.op = .step flight ∧ c.owner = 0) ∧
    let c : Cursor := { snapC with buffer := fullWith (.snap 0) }
    c.op = .none ∧ c.snap = some { todo := [0, 1], opening := false } ∧ c.buffer.waiting = some (.snap 0) :=
  ⟨⟨rfl, rfl⟩, rfl, rfl, rfl⟩

/-- R137: a PUSH cursor at 16 outgoing items with an item of its snapshot that waits; the DELIVERY makes its room. -/
theorem witness_Delivery_frees :
    let b : Buffer := { Buffer.opened with outgoing := List.replicate 16 ⟨0, .marker (.head 0)⟩, waiting := some (.snap 0) }
    let c : Cursor := { snapC with options := { Options.opened with mode := .push }, buffer := b }
    c.op = .none ∧ c.snap = some { todo := [0, 1], opening := false } ∧ b.hasRoom c.options = false ∧
      ({ b with outgoing := b.outgoing.drop 1, waiting := none } : Buffer).hasRoom c.options = true := by
  decide

/-- R137: a PUSH cursor at 16 outgoing items with a marker that waits; the DELIVERY makes its room. -/
theorem witness_Delivery_markers :
    ∀ m : Marker,
      let b : Buffer :=
        { Buffer.opened with outgoing := List.replicate 16 ⟨0, .marker (.head 0)⟩, waiting := some (.marker m) }
      let c : Cursor := { waitingFor .running .heading m with options := { Options.opened with mode := .push }, buffer := b }
      c.op = .heading ∧ c.probes = [] ∧ c.redo = false ∧ c.pendingHold = none ∧ c.underStep = false ∧
        c.overtaken = none ∧ b.hasRoom c.options = false ∧
        ({ b with outgoing := b.outgoing.drop 1, waiting := none } : Buffer).hasRoom c.options = true :=
  fun _ => ⟨rfl, rfl, rfl, rfl, rfl, rfl, rfl, rfl⟩

/-- R156, R157: a RUNNING cursor at a step boundary, one whose step is withdrawn, and ones that wait. -/
theorem witness_Probe_begins :
    (Meets 30 runC collecting ∧ runC.probes = [] ∧ runC.state = .running ∧ runC.op = .none) ∧
      (let c : Cursor := { runC with op := .step { flight with written := 0 } }
       Meets 30 c collecting ∧ c.probes = [] ∧ c.op = .step { flight with written := 0 } ∧ c.options.mode ≠ .push ∧
         (0 : Nat) ≤ c.buffer.writing.length) ∧
      (Meets 30 seekingC collecting ∧ seekingC.state = .seeking ∧ seekingC.op ≠ .serving) ∧
      Meets 30 stepC collecting ∧ stepC.op = .step flight ∧ stepC.buffer.writing.length < flight.written :=
  ⟨⟨meets _ _ _ rfl rfl, rfl, rfl, rfl⟩, ⟨meets _ _ _ rfl rfl, rfl, rfl, by decide, by decide⟩,
    ⟨meets _ _ _ rfl rfl, rfl, by decide⟩, meets _ _ _ rfl rfl, rfl, by decide⟩

/-! ### The seal at the head of the store -/

/-- A cursor at the head of the store. -/
def headC : Cursor := { runC with atHead := true, parked := true }

/-- What the spill of `sealing` touches: one record at 2,009 µs. -/
theorem test_seal_touched :
    ((sealCommit sealing).touched.map fun y => (y.times, y.key)) = [([2009], ⟨2009, 0, 5, 0⟩)] := by decide +kernel

/-- R9, R116, R117, R169: cursors that the spill leaves at the head, one that it overtakes, one that it follows; single
and looping passes, with room and without, and a bound one before and at its end. -/
theorem witness_Seal_at_head :
    (∀ y ∈ (sealCommit sealing).touched, keyAfter y.key (some ⟨2010, 0, 0, 0⟩) = false) ∧
      (∀ y ∈ (sealCommit sealing).touched, ∀ x ∈ y.times, ¬x ≤ 5) ∧
      (∃ y ∈ (sealCommit sealing).touched, keyAfter y.key headC.position = true) ∧
      (∃ y ∈ (sealCommit sealing).touched, ∃ x ∈ y.times, x ≤ 2009) ∧
      (headC.state = .running ∧ headC.atHead = true ∧ headC.op = .none ∧ headC.probes = [] ∧ headC.pendingHold = none ∧
        headC.overtaken = none ∧ headC.redo = false ∧ headC.instant = some 5) ∧
      (let c : Cursor := { headC with underStep := true, stepsLeft := 1, applied := true
                                      options := { Options.opened with loop := true, windowEnd := some 9 } }
       (c.underStep = true → c.stepsLeft ≠ 0) ∧ ¬(c.options.loop = false ∨ c.applied = false) ∧
         c.buffer.hasRoom c.options = true) ∧
      ({ Buffer.opened with completed := [⟨none, 0, []⟩] } : Buffer).hasRoom Options.opened = false ∧
      (boundC.options.pacing = .bound ∧ collecting.clock.instant < max (boundC.instant.getD 0) 0 ∧
        max (boundC.instant.getD 0) 0 ≤ 5) := by
  decide +kernel

/-- R9, R116, R169: SEAL_HISTORY at each of them: ENDED at its own instant, a wrap toward the window start, a wait for
the clock, and a rebase of one that the spill overtakes. -/
theorem test_seal_takes :
    [headC, { headC with applied := true, options := { Options.opened with loop := true, windowStart := 3 } },
        { headC with options := { Options.opened with loop := true } },
        { headC with options := boundC.options, waiting := true }].map
      (fun c => becomes (exec (.sealHistory 0) (ask 4 [] (holding c collecting)))) =
        [some (.ended, some 5, none), some (.running, some 5, some 3), some (.ended, some 5, none),
          some (.running, some 5, none)] := by
  decide +kernel

/-- R22, R114: the spill overtakes a cursor at the head, which rebases. -/
theorem test_seal_overtakes :
    becomes (exec (.sealHistory 0)
        (sealing.withLive (sealing.live.setCursor 0 { headC with instant := some 3000, position := some ⟨2010, 0, 0, 0⟩ }))) =
      some (.running, some 3000, some 3000) := by
  decide +kernel

/-- R22, R117, R158: the spill marks a HELD cursor that it overtakes; one at the head that computes a probe is marked
and ends; a cursor can wait for its signal (R120). -/
theorem test_seal_commit :
    let q : Probe := { tag := 1, point := 0, instant := 9, work := some begun }
    let waits : Cursor := { armedC with options := { Options.opened with source := .cursor 1 } }
    (Awaits 1 waits ∧ waits.atHead = false) ∧
      [{ headC with instant := some 3000, position := some ⟨2010, 0, 0, 0⟩, probes := [q] },
          { heldC with instant := some 3000 }].map
        (fun c =>
          match exec (.sealHistory 0) (sealing.withLive (sealing.live.setCursor 0 c)) with
          | .next t => (t.live.cursor 0).map fun d => (d.state, d.overtaken)
          | _ => none) =
        [some (.ended, some ⟨2009, 1⟩), some (.held, some ⟨2009, 1⟩)] :=
  ⟨⟨⟨rfl, rfl⟩, rfl⟩, by decide +kernel⟩

/-! ### A fault in a segment, a snapshot of no point, a step withdrawn, and a clock that runs or changes hands -/

/-- A segment body of three one-unit entries; the second is of no kind. -/
def faultyBody : List Byte :=
  [0#8, 0#8, 5#8, 0#8, 3#8, 0#8, 0#8, 0#8] ++ (SegEntry.step 1 2).units ++ 9#8 :: List.replicate 7 0#8 ++
    (SegEntry.loss 0 none).units

/-- R41, R71, R188: the fault of its second entry is reported; counts that disagree name no entry (log 14). -/
theorem witness_formCheck_index :
    8 ≤ faultyBody.length ∧ byteAt faultyBody 1 = 0 ∧ leAt faultyBody 6 2 = 0 ∧ leAt faultyBody 4 2 = 3 ∧
      EntryUnits (faultyBody.drop 8)
        [(SegEntry.step 1 2).units, 9#8 :: List.replicate 7 0#8, (SegEntry.loss 0 none).units] ∧
      (SegEntry.step 1 2).inRange ∧
      (∀ (x : SegEntry) (more : List Byte),
        (9#8 :: List.replicate 7 0#8) ++ (SegEntry.loss 0 none).units ≠ x.units ++ more) ∧
      formCheck faultyBody = .error (some 1) ∧ formCheck (faultyBody.set 4 2#8) = .error none ∧
      formCheck (faultyBody ++ 1#8 :: List.replicate 7 0#8) = .error none := by
  refine ⟨by decide, by decide, by decide, by decide, ⟨by decide, by decide⟩, by simp [SegEntry.inRange], ?_,
    by decide +kernel, by decide +kernel, by decide +kernel⟩
  intro x more h
  have h : (9#8 : Byte) = (x.units ++ more).headD 0 := congrArg (List.headD · 0) h
  cases x <;> revert h <;> simp [SegEntry.units, le]

/-- R123: a cursor whose batch a SNAPSHOT of no point flushes. -/
theorem witness_Snapshot_none :
    let c : Cursor := { overtakenC with buffer := { Buffer.opened with writing := [⟨0, .marker (.head 0)⟩] } }
    Meets 27 c collecting ∧ c.snap = none ∧ c.state = .held ∧ c.options.mode = .notice ∧ c.buffer.writing ≠ [] ∧
      heldC.buffer.writing = [] ∧ ∀ q : PointId, (collecting.tables.points.get q).enabled = false :=
  ⟨meets _ _ _ rfl rfl, rfl, rfl, rfl, by decide, rfl, fun q => by
    simp [collecting, State.reset, Tables.reset, PointEntry.reset]⟩

/-- R138: steps that can be withdrawn, with their item in the batch being written and in the outgoing queue. -/
theorem witness_Probe_withdraws :
    let item : Item := ⟨0, .marker (.head 0)⟩
    let notice : Cursor := { stepC with buffer := { Buffer.opened with writing := [item] } }
    let push : Cursor :=
      { stepC with
        options := { Options.opened with mode := .push }, buffer := { Buffer.opened with outgoing := [item] } }
    (Meets 30 notice collecting ∧ notice.op = .step flight ∧ notice.options.mode = .notice ∧
        flight.written ≤ notice.buffer.writing.length) ∧
      Meets 30 push collecting ∧ push.op = .step flight ∧ push.options.mode = .push ∧
        flight.written ≤ push.buffer.outgoing.length :=
  ⟨⟨meets _ _ _ rfl rfl, rfl, rfl, by decide⟩, meets _ _ _ rfl rfl, rfl, rfl, by decide⟩

/-- R170: CLOCK_RUN finds a RUNNING bound cursor that does not wait, with a probe queued. -/
theorem witness_ClockRun_tests :
    let c : Cursor := { boundC with state := .running, probes := probeC.probes }
    let s : State := ask 38 [0] (holding c { storing [recordAt 6 1] .sealed with
      clock := { Clock.reset with controller := some 0, instant := 6 } })
    Taken s 0 38 7 [0] ∧ s.clock.controller = some 0 ∧ s.clock.run = .stopped ∧ s.clock.instant < 2 ^ 40 - 1 ∧
      s.live.cursor 0 = some c ∧ c.state = .running ∧ c.options.pacing = .bound ∧ c.waiting = false ∧
      LagTested s.history.records s.clock.instant c true :=
  ⟨ask_taken _ _ _ rfl, rfl, rfl, by decide, by simp [ask, holding], rfl, rfl, rfl,
    fun _ => .inr ⟨rfl, rfl, .inr (.inl (by decide)), recordAt 6 1, by simp [ask, holding, storing], by decide,
      fun h => absurd h (by simp [boundC, heldC, idleC, Cursor.opened]), fun _ => by decide⟩, fun _ => rfl⟩

/-- R163, R164, R167: the port promoted by a link-down takes CLOCK_GRANTED, then CLOCK. -/
theorem test_linkDown_grants :
    let s : State :=
      { State.reset.withLive
          (State.reset.live.setPort 0 { Port.reset with up := true } |>.setPort 1
            { Port.reset with up := true, subs := { Subs.empty with clock := true } }) with
        clock := { Clock.reset with controller := some 0, waitList := [1] } }
    (match exec (.linkDown 0) s with
     | .next t => (t.live.port 1).notices
     | _ => []) =
      [.clockGranted 0 .stopped Clock.reset.rate Clock.reset.leasePeriod,
        .clock .control 0 .stopped Clock.reset.rate (some 1) 0] := by
  decide +kernel

/-- R75, R76: a failed segment raises its cause and sets noted, and leaves the mask. -/
theorem test_failure_merges :
    (match exec .segmentFailure (processing { anchored with lastSeq := some 5 } History.reset) with
     | .next t => ((t.contexts.get 0).flags, (t.contexts.get 0).noted, (t.contexts.get 0).mask)
     | _ => (0, false, 0)) = (Cause.segmentFailed.set, true, Context.reset.mask) := by
  decide +kernel

/-- R114, R157: the last probe of a RUNNING cursor under STEP: with no step left, with one left, and overtaken. -/
theorem witness_Probe_under_step :
    let q : Probe := { tag := 1, point := 0, instant := 9, work := some begun }
    let c : Cursor := { runC with probes := [q], underStep := true, stepsLeft := 1 }
    let s : State := storing [recordAt 10 1] .sealed
    c.op = .none ∧ c.redo = false ∧ ¬(c.pendingHold ≠ none ∨ c.underStep = true ∧ c.stepsLeft = 0) ∧
      [{ c with stepsLeft := 0 }, c, { c with overtaken := some ⟨3, 1⟩ }].map
        (fun x => becomes (exec (.probeRead 0) (holding x s))) =
        [some (.held, some 5, none), some (.running, some 5, none), some (.running, some 5, some 5)] := by
  refine ⟨rfl, rfl, by decide, by decide +kernel⟩

/-! ### Ends of a pass, and of a rebuild -/

/-- A bound cursor whose window, and whose SEALED store, ends after the clock instant and at it. -/
theorem witness_Bound_ends :
    (let c : Cursor := { boundC with state := .running, options := { boundC.options with windowEnd := some 5 } }
     let s : State := holding c (storing [recordAt 6 1] .sealed)
     s.live.cursor 0 = some c ∧ nextAfter c.position s.history.records = some (recordAt 6 1) ∧
       (5 : Nat) < (recordAt 6 1).time ∧ s.clock.instant < max (c.instant.getD 0) 5 ∧
       max (c.instant.getD 0) 5 ≤ ({ s with clock := { Clock.reset with instant := 5 } } : State).clock.instant) ∧
    let c : Cursor := { boundC with state := .running }
    let s : State := holding c (storing [] .sealed)
    s.live.cursor 0 = some c ∧ nextAfter c.position s.history.records = none ∧ s.history.phase = .sealed ∧
      s.clock.instant < max (c.instant.getD 0) (c.options.windowEnd.getD (s.history.greatest.getD 0)) :=
  ⟨⟨holding_cursor _ _, by decide +kernel, by decide, by decide, by decide⟩, holding_cursor _ _, rfl, rfl, by decide⟩

/-- R116, R131: a looping cursor at a SEALED store's end, with and without a record applied, with and without room. -/
theorem witness_Loop_ends :
    let c : Cursor := { runC with applied := true, options := { Options.opened with loop := true } }
    let full : Cursor := { c with buffer := { Buffer.opened with completed := [⟨none, 0, []⟩] } }
    (∀ x : Cursor, (holding x (storing [] .sealed)).live.cursor 0 = some x ∧
      nextAfter x.position (holding x (storing [] .sealed)).history.records = none) ∧
      c.options.loop = true ∧ c.applied = true ∧ ({ c with applied := false } : Cursor).applied = false ∧
      c.buffer.hasRoom c.options = true ∧ full.buffer.hasRoom full.options = false ∧ full.atHead = false :=
  ⟨fun _ => ⟨holding_cursor _ _, rfl⟩, rfl, rfl, rfl, by decide, by decide, rfl⟩

/-- A rebuild at its end without room, in a snapshot, overtaken, and before a probe. -/
theorem witness_Rebuild_ends :
    (∀ c : Cursor, (holding c (storing [] .sealed)).live.cursor 0 = some c ∧
      ∀ r ∈ nextAfter c.position (holding c (storing [] .sealed)).history.records, (rebuildOf .seek).target < r.time) ∧
    (({ Buffer.opened with completed := [⟨none, 0, []⟩] } : Buffer).hasRoom Options.opened = false) ∧
    (let c : Cursor := { snapC with op := .rebuild (rebuildOf .rebase) }
     c.state ≠ .running ∧ c.op = .rebuild (rebuildOf .rebase) ∧ c.buffer.hasRoom c.options = true) ∧
    (let c : Cursor := { seekingC with overtaken := some ⟨3, 1⟩, chain := true }
     c.overtaken = some ⟨3, 1⟩ ∧ c.chain = true ∧ c.probes = [] ∧ c.pendingHold = none ∧ c.underStep = false ∧
       c.redo = false ∧ c.buffer.waiting = none) ∧
    let c : Cursor := { seekingC with probes := probeC.probes }
    c.probes = { tag := 1, point := 0, instant := 9, work := none } :: [] ∧ c.state = .seeking :=
  ⟨fun _ => ⟨holding_cursor _ _, fun r h => by simp [holding, storing, nextAfter] at h⟩, by decide, ⟨by decide, rfl, by decide⟩,
    ⟨rfl, rfl, rfl, rfl, rfl, rfl, rfl⟩, rfl, rfl⟩

/-! ### The head again, a stop before a probe, and LAGGING -/

/-- A bound cursor at the head of the store whose read an advance has made due, at clock instant 7. -/
def againC : Cursor := { headC with options := boundC.options, waiting := true, parked := false, lagging := true }

/-- The store COLLECTING with one record at 6 µs, at clock instant 7. -/
def atSeven : State := { storing [recordAt 6 1] .collecting with clock := { Clock.reset with instant := 7 } }

/-- R117, R169: cursors with AT_HEAD set whose read is due again and finds no record, bound and FREE_RUN. -/
theorem witness_StepRead_again :
    let s : State := { collecting with clock := atSeven.clock }
    (∀ c : Cursor, (holding c s).live.cursor 0 = some c ∧ (holding c s).resetLow = false ∧
      (holding c s).history.phase = .collecting ∧ nextAfter c.position (holding c s).history.records = none) ∧
      (againC.state = .running ∧ againC.op = .none ∧ againC.probes = [] ∧ againC.parked = false ∧
        againC.overtaken = none ∧ againC.pendingHold = none ∧ againC.underStep = false ∧ againC.atHead = true ∧
        againC.options.pacing = .bound ∧ againC.waiting = true) ∧
      ({ headC with parked := false } : Cursor).options.pacing = .freeRun :=
  ⟨fun _ => ⟨holding_cursor _ _, rfl, rfl, rfl⟩, ⟨rfl, rfl, rfl, rfl, rfl, rfl, rfl, rfl, rfl, rfl⟩, rfl⟩

/-- R117, R169: no second HEAD, the clock instant taken, LAGGING cleared. -/
theorem test_head_again :
    (match exec (.stepRead 0) (holding againC { collecting with clock := atSeven.clock }) with
      | .next t => (t.live.cursor 0).map fun d => (d.instant, d.atHead, d.lagging, d.buffer.nextNumber)
      | _ => none) = some (some 7, true, false, 0) := by
  decide +kernel

/-- R156: STOP finds a rebuild in flight with a probe that waits. -/
theorem witness_Stop_before_probe :
    let c : Cursor := { rebaseC with probes := probeC.probes }
    Meets 25 c collecting ∧ c.snap = none ∧ c.state = .running ∧ c.op = .rebuild (rebuildOf .rebase) ∧
      c.probes = { tag := 1, point := 0, instant := 9, work := none } :: [] :=
  ⟨meets _ _ _ rfl rfl, rfl, rfl, rfl, rfl⟩

/-- R156, R96: the probe begins as STOP abandons the rebuild. -/
theorem test_stop_begins_probe :
    (match exec (.stop 0 0) (ask 25 [0#8] (holding { rebaseC with probes := probeC.probes } collecting)) with
      | .next t => (t.live.cursor 0).map fun d => (d.state, d.instant, d.probes.map fun q => q.work.isSome)
      | _ => none) = some (.unsettled, some 4, [true]) := by
  decide +kernel

/-- R170: an overtaken bound cursor at a boundary, behind a record at or below the clock instant; a bound one without
room, before that record; one that a PROBE makes PROBING; and a FREE_RUN one, which the test never sets. -/
theorem witness_LagTests :
    let c : Cursor := { boundC with state := .running }
    (∃ r ∈ atSeven.history.records, r.time ≤ atSeven.clock.instant ∧ c.instant.getD 0 < r.time ∧
      keyAfter r.key c.position = true) ∧
      c.options.pacing = .bound ∧ c.op = .none ∧ c.redo = false ∧ c.pendingHold = none ∧ c.underStep = false ∧
      ({ c with overtaken := some ⟨3, 1⟩ } : Cursor).overtaken ≠ none ∧
      ({ Buffer.opened with completed := [⟨none, 0, []⟩] } : Buffer).hasRoom c.options = false ∧ c.probes = [] ∧
      Meets 30 c atSeven ∧ runC.options.pacing = .freeRun :=
  ⟨⟨recordAt 6 1, by simp [atSeven, storing], by decide, by decide, by decide⟩, rfl, rfl, rfl, rfl, rfl, by decide,
    by decide, rfl, meets _ _ _ rfl rfl, rfl⟩

/-- R170: LAGGING as the probe of a bound cursor behind the clock, and of a FREE_RUN one, sets it. -/
theorem test_probe_lags :
    [{ boundC with state := .running }, runC].map
      (fun c =>
        match exec (.probe 0 0 1 0 9) (ask 30 [0#8] (holding c atSeven)) with
        | .next t => (t.live.cursor 0).map Cursor.lagging
        | _ => none) = [some true, some false] := by
  decide +kernel

/-- R21: the reach of touched times and of the starts of gaps added and closed, and of neither. -/
theorem test_reach :
    commitReach [⟨1, 0, [9, 6], ⟨6, 0, 5, 0⟩⟩] (gapStarts [⟨1, 7, none, none⟩] [.closing 0 12, .opening 1 8 none]) =
        some 6 ∧
      gapStarts [⟨1, 7, none, none⟩] [.closing 0 12, .addLost 0 none, .opening 1 8 none] = [7, 8] ∧
      commitReach [] [] = none := by
  decide

/-! ### The images of the records -/

/-- One record of point 0, a cursor that stands at it, and a checkpoint past it. -/
def replaying : State :=
  let s := storing [recordAt 6 1] .sealed
  let img : Image := [(0, { state := .closed, time := 6, commit := 1 })]
  let live := State.reset.live.setCursor 0 { heldC with image := some img, position := some ⟨6, 0, 5, 0⟩, instant := some 6 }
  { s with
    live := { live with checkpoints := CheckpointTable.reset.create 10000000 img (some ⟨6, 0, 5, 0⟩) }
    tables := passing }

theorem replaying_agrees :
    Agrees [recordAt 6 1] (some ⟨6, 0, 5, 0⟩) [(0, { state := .closed, time := 6, commit := 1 })] := by
  intro p
  by_cases hp : (0 : PointId) = p
  · subst hp; decide +kernel
  · have h : ((0 : PointId) == p) = false := by simpa using hp
    have h' : (recordAt 6 1).point = 0 := rfl
    simp [Image.cell, h', h, hp]

theorem replaying_at : AtRecord [recordAt 6 1] (some ⟨6, 0, 5, 0⟩) :=
  fun _ h => ⟨recordAt 6 1, by simp, by cases h; rfl⟩

theorem replaying_valid (i : CkptId) (h : (replaying.live.checkpoints.entries.get i).valid = true) :
    i = 0 ∧ replaying.live.checkpoints.entries.get i =
      { instant := 10000000, valid := true, image := [(0, { state := .closed, time := 6, commit := 1 })]
        position := some ⟨6, 0, 5, 0⟩, stamp := 1 } := by
  revert i
  decide +kernel

/-- The premises of the law of images are met where a cursor, and a valid checkpoint, hold the image of a record. -/
theorem witness_StepKeepsCursorLaw_images :
    StoreLaw replaying ∧ SetupLaw replaying ∧ TablesLaw replaying ∧ NotPast replaying ∧ ReplayLaw replaying ∧
      (replaying.live.checkpoints.entries.get 0).valid = true := by
  have hc : ∀ k c, replaying.live.cursor k = some c →
      c = { heldC with
            image := some [(0, { state := .closed, time := 6, commit := 1 })], position := some ⟨6, 0, 5, 0⟩
            instant := some 6 } := by
    intro k c h
    by_cases hk : (0 : Slot) = k
    · subst hk
      exact (Option.some.inj (Eq.symm (holding_cursor _ State.reset) |>.trans h)).symm
    · exact absurd ((cursor_setCursor_ne State.reset.live _ hk).symm.trans h) (by rw [reset_cursor]; simp)
  refine ⟨⟨⟨by decide, by decide, by decide⟩, ?_, ?_, ?_⟩, fun h => absurd h (by decide), ⟨passing_ranged, fun _ => test_passing⟩,
    fun k c h _ q hq => ?_, ⟨fun k c h => ?_, fun i h => ?_, fun i j hi hj _ => ?_⟩, by decide +kernel⟩
  · unfold History.ordered; decide
  · decide
  · decide
  · obtain rfl := hc k c h
    cases hq
    exact ⟨6, rfl, by decide⟩
  · obtain rfl := hc k c h
    exact ⟨fun _ => ⟨replaying_agrees, replaying_at⟩, fun f hf => (by cases hf), fun f hf => (by cases hf)⟩
  · rw [(replaying_valid i h).2]
    exact ⟨by decide, replaying_agrees, replaying_at, by decide⟩
  · rw [(replaying_valid i hi).1, (replaying_valid j hj).1]

end Sys2Proof.Tests
end

section
/-!
PROOF. What most commands leave alone: the store, the tables, the Gap List and the Segment Queue; and, while no cursor is
open, the Checkpoint Table too.
-/

namespace Sys2Proof.Machine

open Sys2Proof

/-! ### The live part while no cursor is open -/

/-- With every slot FREE in `l`, every slot is FREE in `m` and the Checkpoint Table is the same. -/
def Dormant (l m : Live) : Prop :=
  (∀ k : Slot, l.cursor k = none) → (∀ k : Slot, m.cursor k = none) ∧ m.checkpoints = l.checkpoints

theorem Dormant.refl (l : Live) : Dormant l l := fun h => ⟨h, rfl⟩

theorem Dormant.trans {a b c : Live} (h : Dormant a b) (g : Dormant b c) : Dormant a c := fun ha =>
  ⟨(g (h ha).1).1, (g (h ha).1).2.trans (h ha).2⟩

theorem Dormant.of_grows {l m : Live} (h : Grows l m) (e : m.checkpoints = l.checkpoints) : Dormant l m := fun ha =>
  ⟨fun k => h.free (ha k), e⟩

/-- An operation on the cursor of a slot does nothing where the slot is FREE. -/
theorem Dormant.withCursor (l : Live) (k : Slot) (f : Cursor → Live) : Dormant l (l.withCursor k f) := fun h => by
  rw [withCursor_none f (h k)]
  exact ⟨h, rfl⟩

theorem slotsWhere_eq_nil {l : Live} (h : ∀ k : Slot, l.cursor k = none) (test : Cursor → Bool) :
    l.slotsWhere test = [] := by
  simp [Live.slotsWhere, h]

theorem Dormant.inFreeOrder (l : Live) (test : Cursor → Bool) (f : Slot → Live → Live) :
    Dormant l (inFreeOrder (l.slotsWhere test) f l) := fun h => by
  rw [slotsWhere_eq_nil h test]
  exact ⟨h, rfl⟩

theorem Dormant.setPort (l : Live) (p : PortId) (x : Port) : Dormant l (l.setPort p x) := fun h => ⟨h, rfl⟩

theorem Dormant.notify (l : Live) (p : PortId) (n : Notice) : Dormant l (l.notify p n) := fun h => ⟨h, rfl⟩

theorem Dormant.notifyWhere (l : Live) (sel : PortId → Port → Bool) (n : Notice) :
    Dormant l (l.notifyWhere sel n) := fun h => ⟨h, rfl⟩

theorem notifyAttention_dormant (r : RecId) (a b : Context) (l : Live) : Dormant l (notifyAttention r a b l) := by
  unfold notifyAttention
  split_ifs
  · exact Dormant.notifyWhere l _ _
  · exact Dormant.refl l

theorem closeOwned_dormant (p : PortId) (l : Live) : Dormant l (closeOwned p l) := fun h =>
  ⟨fun k => by
    have hk : l.cursors.get k = none := h k
    simp [closeOwned, Live.cursor, hk], rfl⟩

/-! ### The whole state -/

/-- From `s` to `t` the store, the tables, the Gap List and the Segment Queue are the same; and with no cursor open, none
is opened and the Checkpoint Table is the same. -/
def Spares (s t : State) : Prop :=
  t.history = s.history ∧ t.tables = s.tables ∧ t.gaps = s.gaps ∧ t.merge.queue = s.merge.queue ∧
    Dormant s.live t.live

theorem Spares.refl (s : State) : Spares s s := ⟨rfl, rfl, rfl, rfl, Dormant.refl _⟩

theorem Spares.trans {a b c : State} (h : Spares a b) (g : Spares b c) : Spares a c := by
  obtain ⟨h1, h2, h3, h4, h5⟩ := h
  obtain ⟨g1, g2, g3, g4, g5⟩ := g
  exact ⟨g1.trans h1, g2.trans h2, g3.trans h3, g4.trans h4, h5.trans g5⟩

theorem Spares.withLive {s : State} {l : Live} (h : Dormant s.live l) : Spares s (s.withLive l) :=
  ⟨rfl, rfl, rfl, rfl, h⟩

theorem Spares.clock (s : State) (c : Clock) : Spares s { s with clock := c } := ⟨rfl, rfl, rfl, rfl, Dormant.refl _⟩

theorem popRequest_spares (s : State) (p : PortId) : Spares s (s.popRequest p) :=
  Spares.withLive (Dormant.setPort _ _ _)

theorem respond_spares (s : State) (p : PortId) (t a : Nat) (r : Response) : Spares s (s.respond p t a r) :=
  Spares.withLive (Dormant.setPort _ _ _)

theorem takeRequest_spares {rule : List Byte → State → Response × State} (h : ∀ b u, Spares u (rule b u).2)
    (p : PortId) (code : Nat) (s : State) : Spares s (takeRequest p code rule s) := by
  rcases takeRequest_cases p code rule s with e | ⟨tag, body, -, e⟩ <;> rw [e]
  · exact Spares.refl s
  · exact ((popRequest_spares s p).trans (h body _)).trans (respond_spares _ _ _ _ _)

/-! ### The rules of the requests on a cursor -/

/-- A rule for a cursor changes the live part alone. -/
def LiveOnly (rule : Slot → Cursor → State → Response × State) : Prop :=
  ∀ k c s, ∃ l, (rule k c s).2 = s.withLive l

theorem cursorRequest_spares {rule : Slot → Cursor → State → Response × State} (h : LiveOnly rule) (p : PortId)
    (slot : Nat) (b : List Byte) (s : State) : Spares s (cursorRequest p slot rule b s).2 := by
  rcases cursorRequest_cases p slot rule b s with ⟨code, e⟩ | ⟨k, c, hc, -, e⟩ <;> rw [e]
  · exact Spares.refl s
  · obtain ⟨l, hl⟩ := h k c s
    rw [hl]
    exact Spares.withLive fun hn => absurd (hn k) (by simp [hc])

/-- A request on a cursor whose rule changes the live part alone. -/
theorem takeCursorRequest_spares {rule : Slot → Cursor → State → Response × State} (h : LiveOnly rule) (p : PortId)
    (code slot : Nat) (s : State) : Spares s (takeRequest p code (cursorRequest p slot rule) s) :=
  takeRequest_spares (cursorRequest_spares h p slot) p code s

theorem setCursor_liveOnly (x b : List Byte) : LiveOnly (setCursor x b) := fun k c s => by
  unfold setCursor
  split_ifs
  · exact ⟨_, rfl⟩
  · exact ⟨_, rfl⟩
  · split <;> exact ⟨_, rfl⟩

theorem seek_liveOnly (t : Nat) (ch : Bool) : LiveOnly (seek t ch) := fun k c s => by
  unfold seek
  split_ifs <;> exact ⟨_, rfl⟩

theorem play_liveOnly (re : Bool) : LiveOnly (play re) := fun k c s => by
  unfold play
  split <;> exact ⟨_, rfl⟩

theorem stepRequest_liveOnly (n : Nat) : LiveOnly (stepRequest n) := fun k c s => by
  unfold stepRequest
  split
  · exact ⟨_, rfl⟩
  · split_ifs <;> exact ⟨_, rfl⟩

theorem hold_liveOnly : LiveOnly hold := fun k c s => by
  unfold hold
  split_ifs <;> exact ⟨_, rfl⟩

theorem stop_liveOnly : LiveOnly stop := fun k c s => by
  unfold stop
  split_ifs <;> exact ⟨_, rfl⟩

theorem arm_liveOnly : LiveOnly arm := fun k c s => by
  unfold arm
  split
  · exact ⟨_, rfl⟩
  · split <;> exact ⟨_, rfl⟩

theorem snapshot_liveOnly (a b : Nat) (st : Option Nat) : LiveOnly (snapshot a b st) := fun k c s => by
  unfold snapshot
  split
  · exact ⟨_, rfl⟩
  · split_ifs <;> exact ⟨_, rfl⟩

theorem closeCursor_liveOnly : LiveOnly closeCursor := fun _ _ _ => ⟨_, rfl⟩

theorem fetch_liveOnly : LiveOnly fetch := fun k c s => by
  unfold fetch
  split <;> exact ⟨_, rfl⟩

theorem probeRequest_liveOnly (tag pt t : Nat) : LiveOnly (probeRequest tag pt t) := fun k c s => by
  unfold probeRequest
  split
  · exact ⟨_, rfl⟩
  · split_ifs <;> exact ⟨_, rfl⟩

theorem setWatch_liveOnly (w : Nat) (args : WatchArgs) (a : Byte) : LiveOnly (setWatch w args a) := fun k c s => by
  unfold setWatch
  split_ifs
  · exact ⟨_, rfl⟩
  · split <;> exact ⟨_, rfl⟩

theorem clearWatch_liveOnly (w : Nat) : LiveOnly (clearWatch w) := fun k c s => by
  unfold clearWatch
  split_ifs
  · exact ⟨_, rfl⟩
  · split <;> exact ⟨_, rfl⟩

theorem readWatches_liveOnly (ws : List Nat) : LiveOnly (readWatches ws) := fun k c s => by
  unfold readWatches
  split <;> exact ⟨_, rfl⟩

theorem readTrail_liveOnly : LiveOnly readTrail := fun _ _ _ => ⟨_, rfl⟩

/-! ### The Common Clock -/

theorem notifyClock_spares (c : ClockCause) (s : State) : Spares s (notifyClock c s) :=
  Spares.withLive (Dormant.notifyWhere _ _ _)

theorem notifyLost_spares (l : Option PortId) (s : State) : Spares s (notifyLost l s) := by
  unfold notifyLost
  split
  · exact Spares.refl s
  · exact Spares.withLive (Dormant.notify _ _ _)

theorem notifyGranted_spares (s : State) : Spares s (notifyGranted s) := by
  unfold notifyGranted
  split
  · exact Spares.refl s
  · exact Spares.withLive (Dormant.notify _ _ _)

theorem passClock_spares (l : Option PortId) (s : State) : Spares s (passClock l s) :=
  (((Spares.clock s s.clock.passOn).trans (notifyLost_spares l _)).trans (notifyGranted_spares _)).trans
    (notifyClock_spares _ _)

theorem endClockRole_spares (p : PortId) (s : State) : Spares s (endClockRole p s) := by
  unfold endClockRole
  split_ifs
  · exact passClock_spares _ s
  · exact Spares.clock s _

theorem followers_spares (s : State) : Spares s (followers s) :=
  Spares.withLive (Dormant.of_grows (followClockAll_grows _ _) rfl)

theorem clockMarks_spares (b : Nat) (s : State) : Spares s (clockMarks b s) :=
  Spares.withLive (Dormant.inFreeOrder _ _ _)

theorem clockAdvance_spares (s : State) : Spares s (clockAdvance s) := by
  have h := Spares.clock s s.clock.advance
  unfold clockAdvance
  dsimp only
  split_ifs
  · exact ((h.trans (notifyClock_spares _ _)).trans (followers_spares _)).trans (clockMarks_spares _ _)
  · exact (h.trans (followers_spares _)).trans (clockMarks_spares _ _)

theorem idle_spares (s : State) : Spares s (idle s) := by
  unfold idle
  split_ifs
  · exact Spares.refl s
  · exact clockAdvance_spares s
  · exact passClock_spares _ s
  · exact Spares.clock s _

theorem clockRun_spares (s : State) : Spares s (clockRun s) := by
  unfold clockRun
  split
  · exact Spares.refl s
  · split_ifs
    · exact ((Spares.clock s _).trans (notifyClock_spares _ _)).trans (followers_spares _)
    · exact notifyClock_spares _ s

theorem clockPause_spares (s : State) : Spares s (clockPause s) := by
  unfold clockPause
  split
  · exact Spares.refl s
  · exact (Spares.clock s _).trans (notifyClock_spares _ _)

theorem clockSet_spares (t : Nat) (s : State) : Spares s (clockSet t s) :=
  ((Spares.clock s _).trans (notifyClock_spares _ _)).trans (Spares.withLive (Dormant.inFreeOrder _ _ _))

theorem clockRate_spares (n : Nat) (s : State) : Spares s (clockRate n s) := by
  unfold clockRate
  dsimp only
  split_ifs
  · exact Spares.clock s _
  · exact (Spares.clock s _).trans (notifyClock_spares _ _)

theorem controlRequest_spares (p : PortId) (ok : Bool) {rule : State → State} (h : ∀ s, Spares s (rule s))
    (b : List Byte) (s : State) : Spares s (controlRequest p ok rule b s).2 := by
  unfold controlRequest
  split_ifs
  · exact Spares.refl s
  · exact (h s).trans (Spares.clock _ _)
  · exact Spares.refl s

/-- A control request whose rule spares the store. -/
theorem takeControlRequest_spares (ok : Bool) {rule : State → State} (h : ∀ s, Spares s (rule s)) (p : PortId)
    (code : Nat) (s : State) : Spares s (takeRequest p code (controlRequest p ok rule) s) :=
  takeRequest_spares (controlRequest_spares p ok h) p code s

theorem takeClock_spares (p : PortId) (w : Bool) (b : List Byte) (s : State) : Spares s (takeClock p w b s).2 := by
  unfold takeClock
  dsimp only
  split
  · exact (Spares.clock s _).trans (notifyClock_spares _ _)
  · split_ifs
    · exact Spares.clock s _
    · exact Spares.refl s
    · exact Spares.refl s
    · exact Spares.clock s _

theorem releaseClock_spares (p : PortId) (b : List Byte) (s : State) : Spares s (releaseClock p b s).2 := by
  unfold releaseClock
  split_ifs
  · exact passClock_spares _ s
  · exact Spares.clock s _
  · exact Spares.refl s

/-! ### The other requests -/

theorem subscribe_spares (p : PortId) (set : Byte) (b : List Byte) (s : State) : Spares s (subscribe p set b s).2 := by
  unfold subscribe
  split
  · exact Spares.refl s
  · exact Spares.withLive (Dormant.setPort _ _ _)

theorem setAttentionMask_spares (b : List Byte) (s : State) : Spares s (setAttentionMask b s).2 := by
  unfold setAttentionMask
  split
  · exact Spares.refl s
  · exact ⟨rfl, rfl, rfl, rfl, notifyAttention_dormant _ _ _ _⟩

theorem clearCauses_spares (b : List Byte) (s : State) : Spares s (clearCauses b s).2 := by
  unfold clearCauses
  split
  · exact Spares.refl s
  · exact ⟨rfl, rfl, rfl, rfl, Dormant.refl _⟩

/-- A request whose rule changes nothing. -/
theorem takeRequest_same_spares {rule : List Byte → State → Response × State} (h : ∀ b u, (rule b u).2 = u)
    (p : PortId) (code : Nat) (s : State) : Spares s (takeRequest p code rule s) :=
  takeRequest_spares (fun b u => by rw [h b u]; exact Spares.refl u) p code s

/-! ### The lines, the links and the cursors' own events -/

theorem resetAssert_spares (s : State) : ∃ t, execResetAssert s = .next t ∧ Spares s t := by
  refine ⟨_, rfl, rfl, rfl, rfl, rfl, fun h => ⟨fun k => ?_, rfl⟩⟩
  have hk : s.live.cursors.get k = none := h k
  simp [Live.cursor, hk]

theorem linkUp_spares (p : PortId) (s : State) : ∃ t, execLinkUp p s = .next t ∧ Spares s t := by
  refine ⟨_, rfl, ?_⟩
  split_ifs
  · exact Spares.refl s
  · exact Spares.withLive (Dormant.setPort _ _ _)

theorem linkDown_spares (p : PortId) (s : State) : ∃ t, execLinkDown p s = .next t ∧ Spares s t := by
  refine ⟨_, rfl, ?_⟩
  split_ifs
  · exact Spares.refl s
  · exact (Spares.withLive ((Dormant.setPort _ _ _).trans (closeOwned_dormant p _))).trans (endClockRole_spares p _)

theorem markInEdge_spares (s : State) : ∃ t, execMarkInEdge s = .next t ∧ Spares s t := by
  refine ⟨_, rfl, ?_⟩
  split_ifs
  · exact Spares.refl s
  · exact Spares.withLive (Dormant.inFreeOrder _ _ _)

theorem frameReceive_spares (p : PortId) (bytes : List Byte) (s : State) :
    ∃ t, execFrameReceive p bytes s = .next t ∧ Spares s t := by
  refine ⟨_, rfl, ?_⟩
  split_ifs
  · exact Spares.refl s
  · exact Spares.withLive (Dormant.setPort _ _ _)

theorem frameError_spares (p : PortId) (s : State) : ∃ t, execFrameError p s = .next t ∧ Spares s t := by
  refine ⟨_, rfl, ?_⟩
  split
  · split_ifs
    · exact (popRequest_spares s p).trans (respond_spares _ _ _ _ _)
    · exact Spares.refl s
  · exact Spares.refl s

theorem unknownRequest_spares (p : PortId) (s : State) : ∃ t, execUnknownRequest p s = .next t ∧ Spares s t := by
  refine ⟨_, rfl, ?_⟩
  split
  · split_ifs
    · exact (popRequest_spares s p).trans (respond_spares _ _ _ _ _)
    · exact Spares.refl s
  · exact Spares.refl s

/-- A delivery is sent of an open cursor alone. -/
theorem sendDelivery_spares (p : PortId) (s : State) : Spares s (sendDelivery p s) := by
  unfold sendDelivery
  split
  · exact Spares.refl s
  · split
    · exact Spares.refl s
    · rename_i k _ _ c hc
      split
      · exact Spares.refl s
      · exact Spares.withLive fun hn => absurd (hn k) (by simp [hc])

theorem transmit_spares (p : PortId) (s : State) : Spares s (transmit p s) := by
  have hr : ∀ h, Spares s (sendResponse p h s) := fun _ => Spares.withLive fun hn => ⟨hn, rfl⟩
  have hn : ∀ n, Spares s (sendNotice p n s) := fun _ => Spares.withLive fun hn => ⟨hn, rfl⟩
  unfold transmit
  split
  · split_ifs
    · exact hr _
    · exact hn _
  · exact hr _
  · exact hn _
  · exact sendDelivery_spares p s

theorem frameTransmit_spares (p : PortId) (s : State) : ∃ t, execFrameTransmit p s = .next t ∧ Spares s t := by
  refine ⟨_, rfl, ?_⟩
  split_ifs
  · exact Spares.refl s
  · exact transmit_spares p s

/-- An event of one cursor. -/
theorem slotEvent_spares (s : State) (k : Slot) (f : Cursor → Live) :
    Spares s (if s.resetLow then s else s.withLive (s.live.withCursor k f)) := by
  split_ifs
  · exact Spares.refl s
  · exact Spares.withLive (Dormant.withCursor _ _ _)

theorem execClockAdvance_spares (s : State) : ∃ t, execClockAdvance s = .next t ∧ Spares s t := by
  refine ⟨_, rfl, ?_⟩
  split_ifs
  · exact Spares.refl s
  · exact (Spares.clock s _).trans (clockAdvance_spares _)

theorem execLeaseExpiry_spares (s : State) : ∃ t, execLeaseExpiry s = .next t ∧ Spares s t := by
  refine ⟨_, rfl, ?_⟩
  split_ifs
  · exact Spares.refl s
  · exact passClock_spares _ s

/-! ### Every command but those that write what `Spares` keeps -/

/-- The commands that may write the store, the tables, the Gap List or the Segment Queue, or open a cursor. -/
def Writes : Instr → Bool
  | .powerOn | .resetRelease | .beginCollection _ | .sealHistory _ | .clearHistory _ | .setPoint .. | .setRecorder ..
  | .setMapBlock .. | .setStudy .. | .setEventZero .. | .loadSegment _ | .cancelSegment .. | .openCursor _
  | .segmentCommit | .segmentFailure => true
  | _ => false

/-- What every other command leaves. -/
theorem exec_spares {i : Instr} (hi : Writes i = false) (s : State) : ∃ t, exec i s = .next t ∧ Spares s t := by
  cases i with
  | powerOn | resetRelease | beginCollection | sealHistory | clearHistory | setPoint | setRecorder | setMapBlock
  | setStudy | setEventZero | loadSegment | cancelSegment | openCursor | segmentCommit | segmentFailure => cases hi
  | resetAssert => exact resetAssert_spares s
  | linkUp p => exact linkUp_spares p s
  | linkDown p => exact linkDown_spares p s
  | markInEdge => exact markInEdge_spares s
  | frameReceive p bytes => exact frameReceive_spares p bytes s
  | frameError p => exact frameError_spares p s
  | unknownRequest p => exact unknownRequest_spares p s
  | frameTransmit p => exact frameTransmit_spares p s
  | describe p => exact ⟨_, rfl, takeRequest_same_spares (fun _ _ => rfl) p 1 s⟩
  | subscribe p set => exact ⟨_, rfl, takeRequest_spares (subscribe_spares p set) p 2 s⟩
  | readRecords p st e n z => exact ⟨_, rfl, takeRequest_same_spares (readRecords_same st e n z) p 6 s⟩
  | readGaps p a n r => exact ⟨_, rfl, takeRequest_same_spares (readGaps_same a n r) p 7 s⟩
  | readRecorder p r => exact ⟨_, rfl, takeRequest_same_spares (readRecorder_same r) p 15 s⟩
  | setAttentionMask p => exact ⟨_, rfl, takeRequest_spares setAttentionMask_spares p 16 s⟩
  | clearCauses p => exact ⟨_, rfl, takeRequest_spares clearCauses_spares p 17 s⟩
  | readCursor p slot => exact ⟨_, rfl, takeRequest_same_spares (readCursor_same slot) p 19 s⟩
  | setCursor p slot x => 
      exact ⟨_, rfl, takeRequest_spares (fun b => cursorRequest_spares (setCursor_liveOnly x b) p slot b) p _ s⟩
  | seek p slot t ch => exact ⟨_, rfl, takeCursorRequest_spares (seek_liveOnly t ch) p _ slot s⟩
  | play p slot re => exact ⟨_, rfl, takeCursorRequest_spares (play_liveOnly re) p _ slot s⟩
  | step p slot n => exact ⟨_, rfl, takeCursorRequest_spares (stepRequest_liveOnly n) p _ slot s⟩
  | hold p slot => exact ⟨_, rfl, takeCursorRequest_spares hold_liveOnly p _ slot s⟩
  | stop p slot => exact ⟨_, rfl, takeCursorRequest_spares stop_liveOnly p _ slot s⟩
  | arm p slot => exact ⟨_, rfl, takeCursorRequest_spares arm_liveOnly p _ slot s⟩
  | snapshot p slot a b st => exact ⟨_, rfl, takeCursorRequest_spares (snapshot_liveOnly a b st) p _ slot s⟩
  | closeCursor p slot => exact ⟨_, rfl, takeCursorRequest_spares closeCursor_liveOnly p _ slot s⟩
  | fetch p slot => exact ⟨_, rfl, takeCursorRequest_spares fetch_liveOnly p _ slot s⟩
  | probe p slot tag pt t => exact ⟨_, rfl, takeCursorRequest_spares (probeRequest_liveOnly tag pt t) p _ slot s⟩
  | setWatch p slot w args a => exact ⟨_, rfl, takeCursorRequest_spares (setWatch_liveOnly w args a) p _ slot s⟩
  | clearWatch p slot w => exact ⟨_, rfl, takeCursorRequest_spares (clearWatch_liveOnly w) p _ slot s⟩
  | readWatches p slot ws => exact ⟨_, rfl, takeCursorRequest_spares (readWatches_liveOnly ws) p _ slot s⟩
  | readTrail p slot => exact ⟨_, rfl, takeCursorRequest_spares readTrail_liveOnly p _ slot s⟩
  | takeClock p w => exact ⟨_, rfl, takeRequest_spares (takeClock_spares p w) p 35 s⟩
  | releaseClock p => exact ⟨_, rfl, takeRequest_spares (releaseClock_spares p) p 36 s⟩
  | readClock p => exact ⟨_, rfl, takeRequest_same_spares (fun _ _ => rfl) p 37 s⟩
  | clockRun p => exact ⟨_, rfl, takeControlRequest_spares true clockRun_spares p _ s⟩
  | clockPause p => exact ⟨_, rfl, takeControlRequest_spares true clockPause_spares p _ s⟩
  | clockSet p t => exact ⟨_, rfl, takeControlRequest_spares _ (clockSet_spares t) p _ s⟩
  | clockRate p n => exact ⟨_, rfl, takeControlRequest_spares _ (clockRate_spares n) p _ s⟩
  | setLease p n => exact ⟨_, rfl, takeControlRequest_spares (rule := setLease n) _ (fun u => Spares.clock u _) p _ s⟩
  | clockAdvance => exact execClockAdvance_spares s
  | leaseExpiry => exact execLeaseExpiry_spares s
  | stepRead k => exact ⟨_, rfl, slotEvent_spares s k _⟩
  | rebuildRead k => exact ⟨_, rfl, slotEvent_spares s k _⟩
  | probeRead k => exact ⟨_, rfl, slotEvent_spares s k _⟩
  | itemWritten k => exact ⟨_, rfl, slotEvent_spares s k _⟩

end Sys2Proof.Machine
end

section
/-!
PROOF. The laws of the store (R2 to R4, R14, R15, R17): each candidate keeps them, so a commit does, and so does every step.
-/

namespace Sys2Proof.Machine

open Sys2Proof

/-! ### Sources (R14) -/

theorem Source.same_eq_false {a b : Source} :
    a.same b = false ↔ ¬(a.recorder = b.recorder ∧ a.seq = b.seq ∧ a.idx = b.idx) := by
  rw [← Source.same_iff, Bool.not_eq_true]

theorem Source.same_comm (a b : Source) : a.same b = b.same a := by
  rw [Bool.eq_iff_iff, Source.same_iff, Source.same_iff]
  exact ⟨fun ⟨h1, h2, h3⟩ => ⟨h1.symm, h2.symm, h3.symm⟩, fun ⟨h1, h2, h3⟩ => ⟨h1.symm, h2.symm, h3.symm⟩⟩

/-- The sources of the records, in order. -/
def sourcesOf (rs : List Record) : List Source := rs.flatMap Record.sources

/-- R14: no source in two places. -/
def Apart (xs : List Source) : Prop := xs.Pairwise fun a b => a.same b = false

theorem Apart.perm {xs ys : List Source} (h : xs.Perm ys) : Apart xs ↔ Apart ys :=
  h.pairwise_iff fun {a b} e => by rw [Source.same_comm]; exact e

theorem Apart.cons {x : Source} {xs : List Source} : Apart (x :: xs) ↔ (∀ y ∈ xs, x.same y = false) ∧ Apart xs :=
  List.pairwise_cons

theorem sourceHeld_false {rs : List Record} {x : Source} :
    sourceHeld rs x = false ↔ ∀ y ∈ sourcesOf rs, x.same y = false := by
  simp only [sourceHeld, sourcesOf, List.any_eq_false, Bool.not_eq_true, List.mem_flatMap]
  exact ⟨fun h y ⟨r, hr, hy⟩ => h r hr y hy, fun h r hr y hy => h y ⟨r, hr, hy⟩⟩

theorem mem_sourcesOf_timing {rs : List Record} {r : Record} (h : r ∈ rs) : r.timing ∈ sourcesOf rs :=
  List.mem_flatMap.mpr ⟨r, h, List.mem_cons_self⟩

theorem sourcesOf_perm {rs qs : List Record} (h : rs.Perm qs) : (sourcesOf rs).Perm (sourcesOf qs) :=
  h.flatMap_right _

/-- R2, R14: records of different timing sources have different keys. -/
theorem key_ne_of_timing {a b : Record} (h : a.timing.same b.timing = false) : a.key ≠ b.key := fun e => by
  simp only [Record.key, Key.mk.injEq] at e
  exact Source.same_eq_false.1 h ⟨Fin.ext e.2.1, e.2.2⟩

/-! ### Records by commit number (R3) -/

/-- The record of a commit number among records of different numbers: what is taken out and what is replaced. -/
theorem split_at_record {rs : List Record} {m : Record} (hm : m ∈ rs) (hn : (rs.map Record.commit).Nodup) :
    ∃ xs ys, rs = xs ++ m :: ys ∧ removeRecord m.commit rs = xs ++ ys ∧
      ∀ r : Record, r.commit = m.commit → replaceRecord r rs = xs ++ r :: ys := by
  obtain ⟨xs, ys, rfl⟩ := List.append_of_mem hm
  have hne : ∀ x ∈ xs ++ ys, x.commit ≠ m.commit := by
    rw [(List.perm_middle.map Record.commit).nodup_iff, List.map_cons, List.nodup_cons] at hn
    exact fun x hx e => hn.1 (e ▸ List.mem_map_of_mem hx)
  have hx : ∀ x ∈ xs, x.commit ≠ m.commit := fun x h => hne x (List.mem_append_left _ h)
  have hy : ∀ x ∈ ys, x.commit ≠ m.commit := fun x h => hne x (List.mem_append_right _ h)
  refine ⟨xs, ys, rfl, ?_, fun r hr => ?_⟩
  · have keep : ∀ zs : List Record, (∀ x ∈ zs, x.commit ≠ m.commit) → removeRecord m.commit zs = zs := fun zs h =>
      List.filter_eq_self.mpr fun x hz => by simp [h x hz]
    have hxs := keep xs hx
    have hys := keep ys hy
    unfold removeRecord at *
    rw [List.filter_append, List.filter_cons_of_neg (by simp), hxs, hys]
  · have keep : ∀ zs : List Record, (∀ x ∈ zs, x.commit ≠ m.commit) → replaceRecord r zs = zs := fun zs h =>
      (List.map_congr_left fun x hz => by rw [hr, if_neg (h x hz)]).trans (List.map_id' zs)
    have hxs := keep xs hx
    have hys := keep ys hy
    unfold replaceRecord at *
    rw [List.map_append, List.map_cons, hxs, hys, hr, if_pos rfl]

/-! ### One candidate (R16 to R19) -/

/-- The laws of the records, without the greatest committed time and the capacity. -/
def History.Sound (h : History) : Prop :=
  (h.records.map Record.commit).Perm (List.range' 1 h.commitCount) ∧ h.ordered ∧ h.sourced

/-- The ways a candidate changes the records: not at all, by a new record of the next number, by a record in its place, or
by a record at another place. -/
theorem takeCandidate_cases (w : Nat) (g : Option Nat) (a : CommitAcc) (c : Candidate) :
    (takeCandidate w g a c).history = a.history ∨
    (takeCandidate w g a c).history =
        { a.history with
          records := insertRecord (newRecord g (a.history.commitCount + 1) c) a.history.records
          commitCount := a.history.commitCount + 1 } ∨
    ∃ m ∈ a.history.records, m.matches w c = true ∧ m.sources.length < Config.sourceCapacity ∧
      ((takeCandidate w g a c).history =
          { a.history with records := replaceRecord (m.corroborate c) a.history.records } ∨
        (takeCandidate w g a c).history =
          { a.history with records := insertRecord (m.reposition c) (removeRecord m.commit a.history.records) }) := by
  unfold takeCandidate
  dsimp only
  split
  · exact .inr (.inl rfl)
  · rename_i m hm
    obtain ⟨hmem, hmatch⟩ := findMatch_some hm
    split
    · rename_i hroom
      refine .inr (.inr ⟨m, hmem, hmatch, hroom, ?_⟩)
      split
      · exact .inr rfl
      · exact .inl rfl
    · exact .inl rfl

/-- R16: a record that matches a candidate holds no source of its recorder. -/
theorem matches_recorder {w : Nat} {c : Candidate} {m : Record} (h : m.matches w c = true) :
    ∀ x ∈ m.sources, x.recorder ≠ c.source.recorder := by
  simp only [Record.matches, Bool.and_eq_true, List.all_eq_true] at h
  exact fun x hx => by simpa using h.2 x hx

/-- A record takes its place: the laws that speak of the records as a set, from those of the others and its own. -/
theorem sourced_of_perm {h : History} {r : Record} {qs : List Record} (hp : h.records.Perm (r :: qs))
    (hr : r.sources.length ≤ Config.sourceCapacity ∧ r.sources.Pairwise fun a b => a.recorder ≠ b.recorder)
    (hq : ∀ x ∈ qs, x.sources.length ≤ Config.sourceCapacity ∧ x.sources.Pairwise fun a b => a.recorder ≠ b.recorder)
    (ha : Apart (sourcesOf (r :: qs))) : h.sourced := by
  refine ⟨fun x hx => ?_, (Apart.perm (sourcesOf_perm hp)).2 ha⟩
  rcases List.mem_cons.mp (hp.mem_iff.mp hx) with rfl | hx
  · exact hr
  · exact hq x hx

/-- R19: a new record keeps the laws. -/
theorem Sound.insert_new {h : History} (hs : h.Sound) {g : Option Nat} {c : Candidate}
    (hf : sourceHeld h.records c.source = false) :
    History.Sound
      { h with
        records := insertRecord (newRecord g (h.commitCount + 1) c) h.records, commitCount := h.commitCount + 1 } := by
  obtain ⟨hnum, hord, hsrc⟩ := hs
  have hp := insertRecord_perm (newRecord g (h.commitCount + 1) c) h.records
  have hfresh := sourceHeld_false.1 hf
  refine ⟨?_, insertRecord_sorted hord fun x hx => ?_, sourced_of_perm hp ?_ hsrc.1 ?_⟩
  · refine (hp.map Record.commit).trans ?_
    rw [List.map_cons, List.range'_concat]
    refine (hnum.cons _).trans ?_
    have : (newRecord g (h.commitCount + 1) c).commit = 1 + 1 * h.commitCount := by
      show h.commitCount + 1 = _
      omega
    rw [this]
    exact (List.perm_append_singleton _ _).symm
  · exact (key_ne_of_timing (hfresh _ (mem_sourcesOf_timing hx))).symm
  · exact ⟨Nat.le_of_ble_eq_true rfl, List.pairwise_singleton _ _⟩
  · exact Apart.cons.2 ⟨hfresh, hsrc.2⟩

/-- The sources of a matched record with a candidate's: within capacity, from different recorders, and apart from those of
the other records. -/
theorem sources_with_candidate {w : Nat} {c : Candidate} {m : Record} {qs : List Record}
    (hmatch : m.matches w c = true) (hroom : m.sources.length < Config.sourceCapacity)
    (hm : m.sources.Pairwise fun a b => a.recorder ≠ b.recorder) (ha : Apart (sourcesOf (m :: qs)))
    (hf : ∀ y ∈ sourcesOf (m :: qs), c.source.same y = false) {r : Record}
    (hr : r.sources.Perm (c.source :: m.sources)) :
    (r.sources.length ≤ Config.sourceCapacity ∧ r.sources.Pairwise fun a b => a.recorder ≠ b.recorder) ∧
      Apart (sourcesOf (r :: qs)) := by
  refine ⟨⟨by rw [hr.length_eq]; exact hroom, ?_⟩, ?_⟩
  · rw [hr.pairwise_iff fun {a b} e => e.symm]
    exact List.pairwise_cons.mpr ⟨fun x hx => (matches_recorder hmatch x hx).symm, hm⟩
  · have hp : (sourcesOf (r :: qs)).Perm (c.source :: sourcesOf (m :: qs)) := hr.append_right (sourcesOf qs)
    exact (Apart.perm hp).2 (Apart.cons.2 ⟨hf, ha⟩)

/-- R17: a corroborated record keeps its place and the laws. -/
theorem Sound.replace {h : History} (hs : h.Sound) {w : Nat} {c : Candidate} {m : Record} (hmem : m ∈ h.records)
    (hmatch : m.matches w c = true) (hroom : m.sources.length < Config.sourceCapacity)
    (hf : sourceHeld h.records c.source = false) :
    History.Sound { h with records := replaceRecord (m.corroborate c) h.records } := by
  obtain ⟨hnum, hord, hsrc⟩ := hs
  obtain ⟨xs, ys, hsplit, -, hrep⟩ := split_at_record hmem (hnum.nodup_iff.2 List.nodup_range')
  have hperm : h.records.Perm (m :: (xs ++ ys)) := hsplit ▸ List.perm_middle
  have hnew : (replaceRecord (m.corroborate c) h.records).Perm (m.corroborate c :: (xs ++ ys)) := by
    rw [hrep (m.corroborate c) rfl]; exact List.perm_middle
  have hmap : ∀ {α : Type} (f : Record → α), f (m.corroborate c) = f m →
      (replaceRecord (m.corroborate c) h.records).map f = h.records.map f := fun f hfm => by
    rw [hrep (m.corroborate c) rfl, hsplit]
    simp [hfm]
  have hothers : ∀ x ∈ xs ++ ys, x ∈ h.records := fun x hx => hperm.mem_iff.2 (List.mem_cons_of_mem _ hx)
  have hsources := sources_with_candidate (r := m.corroborate c) hmatch hroom (hsrc.1 m hmem).2
    ((Apart.perm (sourcesOf_perm hperm)).1 hsrc.2)
    (fun y hy => sourceHeld_false.1 hf y ((sourcesOf_perm hperm).mem_iff.2 hy))
    (List.perm_append_singleton c.source (m.timing :: m.others))
  refine ⟨?_, ?_, sourced_of_perm hnew hsources.1 (fun x hx => hsrc.1 x (hothers x hx)) hsources.2⟩
  · show ((replaceRecord (m.corroborate c) h.records).map Record.commit).Perm _
    rw [hmap Record.commit rfl]
    exact hnum
  · have : ((replaceRecord (m.corroborate c) h.records).map Record.key).Pairwise fun a b => keyBefore a b = true := by
      rw [hmap Record.key rfl]
      exact List.pairwise_map.2 hord
    exact List.pairwise_map.1 this

/-- R18: a repositioned record takes its new place and keeps the laws. -/
theorem Sound.reposition {h : History} (hs : h.Sound) {w : Nat} {c : Candidate} {m : Record} (hmem : m ∈ h.records)
    (hmatch : m.matches w c = true) (hroom : m.sources.length < Config.sourceCapacity)
    (hf : sourceHeld h.records c.source = false) :
    History.Sound { h with records := insertRecord (m.reposition c) (removeRecord m.commit h.records) } := by
  obtain ⟨hnum, hord, hsrc⟩ := hs
  obtain ⟨xs, ys, hsplit, hrem, -⟩ := split_at_record hmem (hnum.nodup_iff.2 List.nodup_range')
  have hperm : h.records.Perm (m :: (xs ++ ys)) := hsplit ▸ List.perm_middle
  have hnew := insertRecord_perm (m.reposition c) (xs ++ ys)
  have hothers : ∀ x ∈ xs ++ ys, x ∈ h.records := fun x hx => hperm.mem_iff.2 (List.mem_cons_of_mem _ hx)
  have hfresh := sourceHeld_false.1 hf
  have hsources := sources_with_candidate (r := m.reposition c) hmatch hroom (hsrc.1 m hmem).2
    ((Apart.perm (sourcesOf_perm hperm)).1 hsrc.2)
    (fun y hy => hfresh y ((sourcesOf_perm hperm).mem_iff.2 hy)) (List.Perm.refl _)
  rw [hrem]
  refine ⟨?_, insertRecord_sorted ?_ fun x hx => ?_,
    sourced_of_perm hnew hsources.1 (fun x hx => hsrc.1 x (hothers x hx)) hsources.2⟩
  · exact ((hnew.map Record.commit).trans (hperm.map Record.commit).symm).trans hnum
  · have hsub : (xs ++ ys).Sublist h.records := hsplit ▸ (List.sublist_cons_self m ys).append_left xs
    exact List.Pairwise.sublist hsub hord
  · exact (key_ne_of_timing (hfresh _ (mem_sourcesOf_timing (hothers x hx)))).symm

/-- R16 to R19: a candidate of a source that no record holds keeps the laws. -/
theorem takeCandidate_sound (w : Nat) (g : Option Nat) {a : CommitAcc} {c : Candidate} (hs : a.history.Sound)
    (hf : sourceHeld a.history.records c.source = false) : (takeCandidate w g a c).history.Sound := by
  rcases takeCandidate_cases w g a c with e | e | ⟨m, hmem, hmatch, hroom, e | e⟩ <;> rw [e]
  · exact hs
  · exact Sound.insert_new hs hf
  · exact Sound.replace hs hmem hmatch hroom hf
  · exact Sound.reposition hs hmem hmatch hroom hf

/-- A candidate brings the store no source but its own. -/
theorem takeCandidate_sources (w : Nat) (g : Option Nat) {a : CommitAcc} {c : Candidate} (hs : a.history.Sound)
    {y : Source} (hy : y ∈ sourcesOf (takeCandidate w g a c).history.records) :
    y ∈ sourcesOf a.history.records ∨ y = c.source := by
  have matched : ∀ {m : Record} {xs ys : List Record} {r : Record}, a.history.records = xs ++ m :: ys →
      r.sources.Perm (c.source :: m.sources) → ∀ {rs : List Record}, rs.Perm (r :: (xs ++ ys)) →
      y ∈ sourcesOf rs → y ∈ sourcesOf a.history.records ∨ y = c.source := by
    intro m xs ys r hsplit hr rs hp hy
    rw [hsplit, (sourcesOf_perm List.perm_middle).mem_iff]
    rw [(sourcesOf_perm hp).mem_iff, sourcesOf, List.flatMap_cons, List.mem_append, hr.mem_iff, List.mem_cons] at hy
    rw [sourcesOf, List.flatMap_cons, List.mem_append]
    tauto
  have nodup := hs.1.nodup_iff.2 List.nodup_range'
  rcases takeCandidate_cases w g a c with e | e | ⟨m, hmem, -, -, e | e⟩ <;> rw [e] at hy
  · exact .inl hy
  · rw [(sourcesOf_perm (insertRecord_perm _ _)).mem_iff, sourcesOf, List.flatMap_cons, List.mem_append] at hy
    exact hy.symm.imp_right List.mem_singleton.1
  · obtain ⟨xs, ys, hsplit, -, hrep⟩ := split_at_record hmem nodup
    exact matched (r := m.corroborate c) hsplit (List.perm_append_singleton c.source m.sources)
      (hrep (m.corroborate c) rfl ▸ List.perm_middle) hy
  · obtain ⟨xs, ys, hsplit, hrem, -⟩ := split_at_record hmem nodup
    exact matched (r := m.reposition c) hsplit (List.Perm.refl _) (hrem ▸ insertRecord_perm _ _) hy

theorem takeCandidate_count (w : Nat) (g : Option Nat) (a : CommitAcc) (c : Candidate) :
    (takeCandidate w g a c).history.commitCount ≤ a.history.commitCount + 1 := by
  rcases takeCandidate_cases w g a c with e | e | ⟨m, -, -, -, e | e⟩ <;> rw [e] <;> simp

/-! ### A commit (R12, R14, R15) -/

/-- R14: the identity check does not fail: no record holds a candidate's source, and no two candidates have one. -/
theorem identityFails_false {rs : List Record} {cs : List Candidate} :
    identityFails rs cs = false ↔
      (∀ c ∈ cs, sourceHeld rs c.source = false) ∧ cs.Pairwise fun a b => a.source.same b.source = false := by
  rw [← Bool.not_eq_true, identityFails_iff, not_or, not_not]
  refine and_congr ?_ (by simp)
  simp [sourceHeld]

/-- The candidates of a commit that the identity check passes keep the laws, each counted once at most. -/
theorem foldl_takeCandidate_sound (w : Nat) (g : Option Nat) {cs : List Candidate} {a : CommitAcc}
    (hs : a.history.Sound) (hf : identityFails a.history.records cs = false) :
    (cs.foldl (takeCandidate w g) a).history.Sound ∧
      (cs.foldl (takeCandidate w g) a).history.commitCount ≤ a.history.commitCount + cs.length := by
  induction cs generalizing a with
  | nil => exact ⟨hs, le_rfl⟩
  | cons c cs ih =>
    obtain ⟨hheld, hpair⟩ := identityFails_false.1 hf
    rw [List.pairwise_cons] at hpair
    have next : identityFails (takeCandidate w g a c).history.records cs = false := by
      refine identityFails_false.2 ⟨fun d hd => sourceHeld_false.2 fun y hy => ?_, hpair.2⟩
      rcases takeCandidate_sources w g hs hy with hy | rfl
      · exact sourceHeld_false.1 (hheld d (List.mem_cons_of_mem _ hd)) y hy
      · rw [Source.same_comm]
        exact hpair.1 d hd
    obtain ⟨h1, h2⟩ := ih (takeCandidate_sound w g hs (hheld c List.mem_cons_self)) next
    refine ⟨h1, h2.trans ?_⟩
    have := takeCandidate_count w g a c
    rw [List.length_cons]
    omega

theorem StoreLaw.sound {s : State} (h : StoreLaw s) : s.history.Sound := ⟨h.1.1, h.2⟩

/-- A commit that the checks of R14 and R15 pass leaves a lawful store. -/
theorem takeCandidates_storeLaw {s t : State} (hs : StoreLaw s) (w : Nat) {cs : List Candidate}
    (hf : identityFails s.history.records cs = false) (hc : s.history.commitCount + cs.length ≤ Config.storeCapacity)
    {ph : Phase} (ht : t.history = { (takeCandidates w s.history cs).history.settle with phase := ph }) :
    StoreLaw t := by
  obtain ⟨⟨hnum, hord, hsrc⟩, hcount⟩ := foldl_takeCandidate_sound w s.history.greatest
    (a := { history := s.history, touched := [], committed := 0, corroborated := 0, full := [] }) hs.sound hf
  unfold StoreLaw
  rw [ht]
  exact ⟨⟨hnum, hcount.trans hc, rfl⟩, hord, hsrc⟩

/-- R8: what SEAL_HISTORY takes passes the identity check, has no source taken before, and fits the room. -/
theorem sealAdmit_passes (rs : List Record) (room : Nat) (seen : List Source) (cs : List Candidate) :
    (∀ c ∈ (sealAdmit rs room seen cs).1, sourceHeld rs c.source = false ∧ seen.any c.source.same = false) ∧
      ((sealAdmit rs room seen cs).1.Pairwise fun a b => a.source.same b.source = false) ∧
      (sealAdmit rs room seen cs).1.length ≤ room := by
  induction cs generalizing room seen with
  | nil => simp [sealAdmit]
  | cons c cs ih =>
    unfold sealAdmit
    split
    · exact ih room seen
    · rename_i hc
      simp only [Bool.or_eq_true, not_or, Bool.not_eq_true, beq_eq_false_iff_ne] at hc
      obtain ⟨⟨hheld, hseen⟩, hroom⟩ := hc
      obtain ⟨h1, h2, h3⟩ := ih (room - 1) (c.source :: seen)
      have h4 : ∀ d ∈ (sealAdmit rs (room - 1) (c.source :: seen) cs).1,
          d.source.same c.source = false ∧ seen.any d.source.same = false := fun d hd => by
        have := (h1 d hd).2
        rwa [List.any_cons, Bool.or_eq_false_iff] at this
      refine ⟨fun d hd => ?_, List.pairwise_cons.2 ⟨fun d hd => ?_, h2⟩, ?_⟩
      · rcases List.mem_cons.1 hd with rfl | hd
        · exact ⟨hheld, hseen⟩
        · exact ⟨(h1 d hd).1, (h4 d hd).2⟩
      · rw [Source.same_comm]
        exact (h4 d hd).1
      · rw [List.length_cons]
        omega

/-! ### Every step -/

theorem StoreLaw.of_history {s t : State} (h : StoreLaw s) (e : t.history = s.history) : StoreLaw t := by
  unfold StoreLaw
  rw [e]
  exact h

/-- The store of R5 with no record. -/
theorem reset_storeLaw {t : State} {ph : Phase} (e : t.history = { History.reset with phase := ph }) : StoreLaw t := by
  unfold StoreLaw
  rw [e]
  exact ⟨⟨List.Perm.refl _, Nat.zero_le _, rfl⟩, List.Pairwise.nil, fun _ h => absurd h List.not_mem_nil, List.Pairwise.nil⟩

theorem takeRequest_storeLaw {rule : List Byte → State → Response × State}
    (h : ∀ b u, StoreLaw u → StoreLaw (rule b u).2) (p : PortId) (code : Nat) {s : State} (hs : StoreLaw s) :
    StoreLaw (takeRequest p code rule s) := by
  rcases takeRequest_cases p code rule s with e | ⟨tag, body, -, e⟩ <;> rw [e]
  · exact hs
  · exact (h body _ (hs.of_history (t := s.popRequest p) rfl)).of_history rfl

/-- A request whose rule leaves the store. -/
theorem takeRequest_history {rule : List Byte → State → Response × State}
    (h : ∀ b u, (rule b u).2.history = u.history) (p : PortId) (code : Nat) {s : State} (hs : StoreLaw s) :
    StoreLaw (takeRequest p code rule s) :=
  takeRequest_storeLaw (fun b u hu => hu.of_history (h b u)) p code hs

theorem tableWrite_history (w : Tables → Option (RespBody × Tables)) (b : List Byte) (s : State) :
    (tableWrite w b s).2.history = s.history := by
  rcases tableWrite_cases w b s with h | ⟨t, h⟩ <;> rw [h]

theorem setEventZero_history (t : Nat) (b : List Byte) (s : State) :
    (setEventZero t b s).2.history = s.history := by
  unfold setEventZero
  split_ifs <;> rfl

theorem loadSegment_history (p : PortId) (b : List Byte) (s : State) :
    (loadSegment p b s).2.history = s.history := by
  unfold loadSegment joinQueue
  repeat' split
  all_goals rfl

theorem cancelSegment_history (p : PortId) (r q : Nat) (b : List Byte) (s : State) :
    (cancelSegment p r q b s).2.history = s.history := by
  unfold cancelSegment cancelAt
  repeat' split
  all_goals rfl

theorem openCursor_history (p : PortId) (b : List Byte) (s : State) :
    (openCursor p b s).2.history = s.history := by
  unfold openCursor
  split_ifs
  · rfl
  · split <;> rfl

theorem failSegment_history (g : QueuedSegment) (o : SegOutcome) (i : Option Nat) (s : State) :
    (failSegment g o i s).history = s.history := rfl

theorem beginCollection_storeLaw (b : List Byte) {s : State} (hs : StoreLaw s) : StoreLaw (beginCollection b s).2 := by
  unfold beginCollection
  split_ifs
  · exact hs
  · split
    · exact hs
    · exact hs

theorem sealContexts_history (b : State) (rej : List Candidate) (full : List RecId) (rs : List RecId) (s : State) :
    (rs.foldl (sealContext b rej full) s).history = s.history := by
  induction rs generalizing s with
  | nil => rfl
  | cons r rs ih => exact ih _

theorem handOut_history (r : Option Nat) (ts : List Touched) (s : State) : (handOut r ts s).history = s.history :=
  history_withLive s _

theorem sealCursors_history (s : State) : (sealCursors s).history = s.history := history_withLive s _

theorem notifyStore_history (s : State) : (notifyStore s).history = s.history := rfl

theorem sealHistory_history (s : State) :
    (sealHistory s).history = { (sealCommit s).history.settle with phase := .sealed } := by
  unfold sealHistory
  rw [sealCursors_history, handOut_history, notifyStore_history, sealContexts_history]

theorem sealRequest_storeLaw (b : List Byte) {s : State} (hs : StoreLaw s) : StoreLaw (sealRequest b s).2 := by
  unfold sealRequest
  split_ifs
  · exact hs
  · exact hs
  · obtain ⟨h1, h2, h3⟩ := sealAdmit_passes s.history.records (Config.storeCapacity - s.history.commitCount) []
      (sealCandidates s)
    have hcap := hs.1.2.1
    exact takeCandidates_storeLaw hs _ (identityFails_false.2 ⟨fun c hc => (h1 c hc).1, h2⟩)
      (show _ + (sealSplit s).1.length ≤ _ by unfold sealSplit; omega) (sealHistory_history s)

theorem clearRequest_storeLaw (b : List Byte) {s : State} (hs : StoreLaw s) : StoreLaw (clearRequest b s).2 := by
  unfold clearRequest
  split_ifs
  · exact hs
  · exact reset_storeLaw (ph := .setup) rfl

theorem segmentCommit_storeLaw {s : State} (hs : StoreLaw s) : ∃ t, execSegmentCommit s = .next t ∧ StoreLaw t := by
  refine ⟨_, rfl, ?_⟩
  split_ifs
  · exact hs
  · split
    · rename_i g p _
      unfold handOver
      split_ifs with hid hcap
      · exact hs.of_history (failSegment_history g _ _ s)
      · exact hs.of_history (failSegment_history g _ _ s)
      · have hroom : s.history.commitCount + p.staged.length ≤ Config.storeCapacity := by
          simpa [capacityFails] using hcap
        exact takeCandidates_storeLaw hs s.tables.study.window (by simpa using hid) hroom
          (ph := (takeCandidates s.tables.study.window s.history p.staged).history.phase) rfl
    · exact hs

theorem segmentFailure_storeLaw {s : State} (hs : StoreLaw s) : ∃ t, execSegmentFailure s = .next t ∧ StoreLaw t := by
  refine ⟨_, rfl, ?_⟩
  split_ifs
  · exact hs
  · split
    · exact hs.of_history (failSegment_history _ _ _ s)
    · exact hs

/-- Every command keeps the laws of the store. -/
theorem exec_storeLaw (i : Instr) {s : State} (hs : StoreLaw s) : ∃ t, exec i s = .next t ∧ StoreLaw t := by
  by_cases hw : Writes i = true
  · cases i with
    | powerOn => exact ⟨_, rfl, reset_storeLaw (ph := .setup) rfl⟩
    | resetRelease =>
      refine ⟨_, rfl, ?_⟩
      split_ifs
      · exact reset_storeLaw (ph := .setup) rfl
      · exact hs
    | beginCollection p => exact ⟨_, rfl, takeRequest_storeLaw (fun b _ hu => beginCollection_storeLaw b hu) p 3 hs⟩
    | sealHistory p => exact ⟨_, rfl, takeRequest_storeLaw (fun b _ hu => sealRequest_storeLaw b hu) p 4 hs⟩
    | clearHistory p => exact ⟨_, rfl, takeRequest_storeLaw (fun b _ hu => clearRequest_storeLaw b hu) p 5 hs⟩
    | setPoint p first xs => exact ⟨_, rfl, takeRequest_history (tableWrite_history _) p 8 hs⟩
    | setRecorder p r e u o d f => exact ⟨_, rfl, takeRequest_history (tableWrite_history _) p 9 hs⟩
    | setMapBlock p r b x => exact ⟨_, rfl, takeRequest_history (tableWrite_history _) p 10 hs⟩
    | setStudy p e w t v => exact ⟨_, rfl, takeRequest_history (tableWrite_history _) p 11 hs⟩
    | setEventZero p t => exact ⟨_, rfl, takeRequest_history (setEventZero_history t) p 12 hs⟩
    | loadSegment p => exact ⟨_, rfl, takeRequest_history (loadSegment_history p) p 13 hs⟩
    | cancelSegment p r q => exact ⟨_, rfl, takeRequest_history (cancelSegment_history p r q) p 14 hs⟩
    | openCursor p => exact ⟨_, rfl, takeRequest_history (openCursor_history p) p 18 hs⟩
    | segmentCommit => exact segmentCommit_storeLaw hs
    | segmentFailure => exact segmentFailure_storeLaw hs
    | _ => cases hw
  · obtain ⟨t, he, hh, -⟩ := exec_spares (by simpa using hw) s
    exact ⟨t, he, hs.of_history hh⟩

/-- A step is the timers' or that of the command at the front of the queue. -/
theorem step_cases {s t : State} (h : step s = .next t) :
    t = idle s ∨ ∃ i rest, exec i { s with pending := rest } = .next t := by
  unfold step at h
  split at h
  · exact .inl (Host.Outcome.next.inj h).symm
  · exact .inr ⟨_, _, h⟩

/-- What every command and the timers keep, and what does not turn on the queue of commands, every step keeps. -/
theorem step_keeps {P : State → Prop} (hq : ∀ (s : State) (rest : List Instr), P s → P { s with pending := rest })
    (hi : ∀ s, P s → P (idle s)) (he : ∀ i s, P s → ∃ t, exec i s = .next t ∧ P t) {s t : State} (hs : P s)
    (h : step s = .next t) : P t := by
  rcases step_cases h with rfl | ⟨i, rest, h⟩
  · exact hi s hs
  · obtain ⟨u, hu, hp⟩ := he i _ (hq s rest hs)
    rw [hu] at h
    exact Host.Outcome.next.inj h ▸ hp

/-- Settles O55: a commit takes candidates whose sources the checks have found fresh, one by one; every other command leaves
the store, empties it or changes its phase alone. -/
theorem stepKeepsStoreLaw : Obligations.StepKeepsStoreLaw := by
  unfold Obligations.StepKeepsStoreLaw
  intro s t hs h
  exact step_keeps (fun _ _ hu => hu) (fun u hu => hu.of_history (idle_spares u).1) (fun i _ hu => exec_storeLaw i hu) hs h

end Sys2Proof.Machine
end

section
/-!
PROOF. SETUP stays empty (R5, R10, R64), and the tables stay in range and, outside SETUP, as validation passed them (R6, R25
to R37).
-/

namespace Sys2Proof.Machine

open Sys2Proof

/-! ### What the phase is after each command -/

theorem takeCandidate_phase (w : Nat) (g : Option Nat) (a : CommitAcc) (c : Candidate) :
    (takeCandidate w g a c).history.phase = a.history.phase := by
  rcases takeCandidate_cases w g a c with e | e | ⟨m, -, -, -, e | e⟩ <;> rw [e]

theorem takeCandidates_phase (w : Nat) (h : History) (cs : List Candidate) :
    (takeCandidates w h cs).history.phase = h.phase := by
  unfold takeCandidates
  generalize ha : ({ history := h, touched := [], committed := 0, corroborated := 0, full := [] } : CommitAcc) = a
  have hp : a.history.phase = h.phase := by rw [← ha]
  clear ha
  generalize h.greatest = g
  induction cs generalizing a with
  | nil => exact hp
  | cons c cs ih => exact ih _ ((takeCandidate_phase w g a c).trans hp)

theorem commitSegment_history (g : QueuedSegment) (p : Proc) (s : State) :
    (commitSegment g p s).history = (takeCandidates s.tables.study.window s.history p.staged).history.settle :=
  handOut_history _ _ _

theorem handOver_phase (g : QueuedSegment) (p : Proc) (s : State) : (handOver g p s).history.phase = s.history.phase := by
  unfold handOver
  split_ifs
  · rfl
  · rfl
  · rw [commitSegment_history]
    exact takeCandidates_phase _ _ _

/-! ### What the tables are after each command -/

theorem handOut_tables (r : Option Nat) (ts : List Touched) (s : State) : (handOut r ts s).tables = s.tables :=
  tables_withLive s _

theorem commitSegment_tables (g : QueuedSegment) (p : Proc) (s : State) : (commitSegment g p s).tables = s.tables :=
  handOut_tables _ _ _

theorem handOver_tables (g : QueuedSegment) (p : Proc) (s : State) : (handOver g p s).tables = s.tables := by
  unfold handOver
  split_ifs
  · rfl
  · rfl
  · exact commitSegment_tables g p s

theorem sealContexts_tables (b : State) (rej : List Candidate) (full : List RecId) (rs : List RecId) (s : State) :
    (rs.foldl (sealContext b rej full) s).tables = s.tables := by
  induction rs generalizing s with
  | nil => rfl
  | cons r rs ih => exact ih _

theorem sealCursors_tables (s : State) : (sealCursors s).tables = s.tables := tables_withLive s _

theorem notifyStore_tables (s : State) : (notifyStore s).tables = s.tables := rfl

theorem sealHistory_tables (s : State) : (sealHistory s).tables = s.tables := by
  unfold sealHistory
  rw [sealCursors_tables, handOut_tables, notifyStore_tables, sealContexts_tables]

theorem clearSegments_tables (gs : List QueuedSegment) (s : State) : (gs.foldl clearSegment s).tables = s.tables := by
  induction gs generalizing s with
  | nil => rfl
  | cons g gs ih => exact ih _

theorem clearHistory_tables (s : State) : (clearHistory s).tables = s.tables := clearSegments_tables _ s

theorem loadSegment_tables (p : PortId) (b : List Byte) (s : State) : (loadSegment p b s).2.tables = s.tables := by
  unfold loadSegment joinQueue
  repeat' split
  all_goals rfl

theorem cancelSegment_tables (p : PortId) (r q : Nat) (b : List Byte) (s : State) :
    (cancelSegment p r q b s).2.tables = s.tables := by
  unfold cancelSegment cancelAt
  repeat' split
  all_goals rfl

theorem openCursor_tables (p : PortId) (b : List Byte) (s : State) : (openCursor p b s).2.tables = s.tables := by
  unfold openCursor
  split_ifs
  · rfl
  · split <;> rfl

/-! ### The ranges of the tables (R25 to R29) -/

/-- R26, R27: a point entry that SET_POINT writes. -/
theorem pointEntryOf_station {x : PointSetting} {e : PointEntry} (h : pointEntryOf x = some e) : e.station ≤ 255 := by
  unfold pointEntryOf at h
  split at h
  · split_ifs at h with hs
    cases h
    exact hs
  · cases h

/-- What holds of every value read holds of every value of the list read. -/
theorem readAll_forall {α β : Type} {f : α → Option β} {P : β → Prop} (hf : ∀ x y, f x = some y → P y) {xs : List α}
    {ys : List β} (h : readAll f xs = some ys) : ∀ y ∈ ys, P y := by
  induction xs generalizing ys with
  | nil => cases h; simp
  | cons x xs ih =>
    unfold readAll at h
    split at h
    · rename_i y zs hy hz
      cases h
      exact List.forall_mem_cons.2 ⟨hf _ _ hy, ih hz⟩
    · cases h

/-- The ranges of a Recorder Table entry (R27, R28). -/
def RecorderEntry.ranged (x : RecorderEntry) : Prop :=
  (x.tickUnit = 1 ∨ x.tickUnit = 10 ∨ x.tickUnit = 100 ∨ x.tickUnit = 1000) ∧
    -(Config.maxGrid : Int) ≤ x.offset ∧ x.offset ≤ (Config.maxGrid : Int) ∧ -500 ≤ x.drift ∧ x.drift ≤ 500 ∧
    (∀ b ∈ x.fallback, b ≤ Config.maxRecorderTime) ∧
    ∀ i : BlockId, ∀ b ∈ x.blocks.get i, b.first ≤ 65535 ∧ 1 ≤ b.count ∧ b.count ≤ 4096 ∧ b.base ≤ 4095

/-- The ranges of the study parameters (R29). -/
def Study.ranged (x : Study) : Prop :=
  x.eventZero ≤ Config.maxGrid ∧ x.window ≤ 65535 ∧ 1 ≤ x.stepThreshold ∧ x.stepThreshold ≤ 1000000 ∧
    1 ≤ x.interval ∧ x.interval ≤ 3600

/-- The ranges of the tables are those of their entries. -/
theorem ranged_iff (t : Tables) :
    t.ranged ↔
      (∀ p : PointId, (t.points.get p).station ≤ 255) ∧ (∀ r : RecId, (t.recorders.get r).ranged) ∧ t.study.ranged :=
  Iff.rfl

/-- R25 to R29: the power-on values are in range. -/
theorem reset_ranged : Tables.reset.ranged := by
  have hr : RecorderEntry.reset.ranged := by
    refine ⟨.inr (.inr (.inr rfl)), by decide, by decide, by decide, by decide, ?_, fun i _ h => ?_⟩
    · exact fun _ h => nomatch h
    · simp [RecorderEntry.reset] at h
  refine (ranged_iff _).2 ⟨fun p => ?_, fun r => ?_, ?_⟩
  · simp [Tables.reset, PointEntry.reset]
  · simpa [Tables.reset] using hr
  · unfold Study.ranged
    decide

/-- R32: SET_POINT writes entries in range. -/
theorem writePoints_ranged {first : Nat} {xs : List PointSetting} {t u : Tables} {b : RespBody} (ht : t.ranged)
    (h : writePoints first xs t = some (b, u)) : u.ranged := by
  obtain ⟨es, he, hu⟩ := Option.map_eq_some_iff.1 h
  obtain ⟨-, rfl⟩ := Prod.mk.inj hu
  obtain ⟨hp, hr, hs⟩ := (ranged_iff t).1 ht
  have hes : ∀ e ∈ es, e.station ≤ 255 := by
    unfold pointRunOf at he
    split_ifs at he
    exact readAll_forall (fun _ _ => pointEntryOf_station) he
  refine (ranged_iff _).2 ⟨fun p => ?_, hr, hs⟩
  simp only [writeRun, vofFn_get]
  split_ifs
  · cases hx : es[p.val - first]? with
    | none => exact hp p
    | some e => exact hes e (List.mem_of_getElem? hx)
  · exact hp p

/-- The tables with one recorder entry written. -/
theorem recorders_put_ranged {t : Tables} (ht : t.ranged) (r : RecId) {x : RecorderEntry} (hx : x.ranged) :
    Tables.ranged { t with recorders := vput t.recorders r x } := by
  obtain ⟨hp, hr, hs⟩ := (ranged_iff t).1 ht
  refine (ranged_iff _).2 ⟨hp, fun q => ?_, hs⟩
  show ((vput t.recorders r x).get q).ranged
  rw [vput_get]
  split_ifs
  · exact hx
  · exact hr q

/-- R33: SET_RECORDER writes an entry in range. -/
theorem writeRecorder_ranged {r : Nat} {en : Bool} {un : Nat} {off dr : Int} {fb : Option Nat} {t u : Tables}
    {b : RespBody} (ht : t.ranged) (h : writeRecorder r en un off dr fb t = some (b, u)) : u.ranged := by
  unfold writeRecorder at h
  split at h
  · cases h
  · rename_i x _
    split_ifs at h with hok
    cases h
    simp only [recorderArgsOk, tickUnitOk, Bool.and_eq_true, Bool.or_eq_true, beq_iff_eq, decide_eq_true_eq] at hok
    obtain ⟨⟨⟨⟨⟨hu, h1⟩, h2⟩, h3⟩, h4⟩, hf⟩ := hok
    obtain ⟨-, -, -, -, -, -, hb⟩ := ((ranged_iff t).1 ht).2.1 x
    refine recorders_put_ranged ht x ⟨by tauto, h1, h2, h3, h4, fun b hb => ?_, hb⟩
    obtain rfl : fb = some b := hb
    simpa using hf

/-- R34: SET_MAP_BLOCK writes a block in range. -/
theorem writeBlock_ranged {r k : Nat} {fields : Option BlockArgs} {t u : Tables} {b : RespBody} (ht : t.ranged)
    (h : writeBlock r k fields t = some (b, u)) : u.ranged := by
  unfold writeBlock at h
  split at h
  · rename_i x i y _ _ hy
    cases h
    obtain ⟨h1, h2, h3, h4, h5, h6, hb⟩ := ((ranged_iff t).1 ht).2.1 x
    refine recorders_put_ranged ht x ⟨h1, h2, h3, h4, h5, h6, fun j z hz => ?_⟩
    simp only [vput_get] at hz
    split_ifs at hz
    · subst hz
      unfold newBlock at hy
      split at hy
      · cases hy
      · rename_i args
        unfold blockOf at hy
        split_ifs at hy with hok
        · cases hy
          exact hok
        · cases hy
    · exact hb j z hz
  · cases h

/-- R35: SET_STUDY writes parameters in range. -/
theorem writeStudy_ranged {ep : Option (BitVec 64)} {w th iv : Option Nat} {t u : Tables} {b : RespBody}
    (ht : t.ranged) (h : writeStudy ep w th iv t = some (b, u)) : u.ranged := by
  unfold writeStudy at h
  split_ifs at h with hok
  cases h
  obtain ⟨hp, hr, h1, h2, h3, h4, h5, h6⟩ := (ranged_iff t).1 ht
  simp only [studyArgsOk, Bool.and_eq_true] at hok
  obtain ⟨⟨⟨-, hw⟩, hth⟩, hiv⟩ := hok
  have within : ∀ {o : Option Nat} {d lo hi : Nat}, (o.elim true fun x => decide (lo ≤ x) && decide (x ≤ hi)) = true →
      lo ≤ d → d ≤ hi → lo ≤ o.getD d ∧ o.getD d ≤ hi := by
    intro o d lo hi ho hlo hhi
    cases o with
    | none => exact ⟨hlo, hhi⟩
    | some x => simpa using ho
  have hw' : (w.elim true fun x => decide (0 ≤ x) && decide (x ≤ 65535)) = true := by simpa using hw
  exact (ranged_iff _).2 ⟨hp, hr, h1, (within hw' (Nat.zero_le _) h2).2, (within hth h3 h4).1, (within hth h3 h4).2,
    (within hiv h5 h6).1, (within hiv h5 h6).2⟩

/-! ### The laws of the tables at each command -/

/-- The law turns on the tables and on whether the phase is SETUP. -/
theorem TablesLaw.of_same {s t : State} (h : TablesLaw s) (e : t.tables = s.tables)
    (hp : t.history.phase ≠ .setup → s.history.phase ≠ .setup) : TablesLaw t := by
  unfold TablesLaw
  rw [e]
  exact ⟨h.1, fun g => h.2 (hp g)⟩

theorem reset_tablesLaw {t : State} (e : t.tables = Tables.reset) (hp : t.history.phase = .setup) : TablesLaw t := by
  unfold TablesLaw
  rw [e]
  exact ⟨reset_ranged, fun g => absurd hp g⟩

theorem takeRequest_tablesLaw {rule : List Byte → State → Response × State}
    (h : ∀ b u, TablesLaw u → TablesLaw (rule b u).2) (p : PortId) (code : Nat) {s : State} (hs : TablesLaw s) :
    TablesLaw (takeRequest p code rule s) := by
  rcases takeRequest_cases p code rule s with e | ⟨tag, body, -, e⟩ <;> rw [e]
  · exact hs
  · exact (h body _ (hs.of_same (t := s.popRequest p) rfl id)).of_same rfl id

/-- A request whose rule leaves the tables and the store. -/
theorem takeRequest_tables {rule : List Byte → State → Response × State}
    (ht : ∀ b u, (rule b u).2.tables = u.tables) (hh : ∀ b u, (rule b u).2.history = u.history) (p : PortId)
    (code : Nat) {s : State} (hs : TablesLaw s) : TablesLaw (takeRequest p code rule s) :=
  takeRequest_tablesLaw (fun b u hu => hu.of_same (ht b u) fun g => by rwa [hh b u] at g) p code hs

/-- R31: a phase-gated write that keeps the ranges. -/
theorem tableWrite_tablesLaw {w : Tables → Option (RespBody × Tables)}
    (hw : ∀ {t u b}, t.ranged → w t = some (b, u) → u.ranged) (b : List Byte) {s : State} (hs : TablesLaw s) :
    TablesLaw (tableWrite w b s).2 := by
  unfold tableWrite
  split_ifs with hp
  · exact hs
  · split
    · exact hs
    · rename_i hu
      exact ⟨hw hs.1 hu, fun g => absurd g hp⟩

/-- R36: the event zero enters no check of Table 2-5. -/
theorem setEventZero_tablesLaw (t : Nat) (b : List Byte) {s : State} (hs : TablesLaw s) :
    TablesLaw (setEventZero t b s).2 := by
  unfold setEventZero
  split_ifs with h
  · obtain ⟨⟨hp, hr, -, hrest⟩, hf⟩ := hs
    exact ⟨⟨hp, hr, h, hrest⟩, fun g => hf g⟩
  · exact hs

/-- R6: collection opens over tables without a fault. -/
theorem beginCollection_tablesLaw (b : List Byte) {s : State} (hs : TablesLaw s) :
    TablesLaw (beginCollection b s).2 := by
  unfold beginCollection
  split_ifs
  · exact hs
  · split
    · exact hs
    · rename_i hf
      exact ⟨hs.1, fun _ => hf⟩

theorem sealRequest_tablesLaw (b : List Byte) {s : State} (hs : TablesLaw s) : TablesLaw (sealRequest b s).2 := by
  unfold sealRequest
  split_ifs with hp hq
  · exact hs
  · exact hs
  · refine hs.of_same (sealHistory_tables s) fun _ => ?_
    rw [not_not.1 hp]
    decide

theorem clearRequest_tablesLaw (b : List Byte) {s : State} (hs : TablesLaw s) : TablesLaw (clearRequest b s).2 := by
  unfold clearRequest
  split_ifs
  · exact hs
  · exact hs.of_same (clearHistory_tables s) fun g => absurd rfl g

theorem segmentCommit_tablesLaw {s : State} (hs : TablesLaw s) : ∃ t, execSegmentCommit s = .next t ∧ TablesLaw t := by
  refine ⟨_, rfl, ?_⟩
  split_ifs
  · exact hs
  · split
    · exact hs.of_same (handOver_tables _ _ s) fun g => by rwa [handOver_phase] at g
    · exact hs

theorem segmentFailure_tablesLaw {s : State} (hs : TablesLaw s) : ∃ t, execSegmentFailure s = .next t ∧ TablesLaw t := by
  refine ⟨_, rfl, ?_⟩
  split_ifs
  · exact hs
  · split
    · exact hs.of_same rfl id
    · exact hs

/-- Every command keeps the laws of the tables. -/
theorem exec_tablesLaw (i : Instr) {s : State} (hs : TablesLaw s) : ∃ t, exec i s = .next t ∧ TablesLaw t := by
  by_cases hw : Writes i = true
  · cases i with
    | powerOn => exact ⟨_, rfl, reset_tablesLaw rfl rfl⟩
    | resetRelease =>
      refine ⟨_, rfl, ?_⟩
      split_ifs
      · exact reset_tablesLaw rfl rfl
      · exact hs
    | beginCollection p => exact ⟨_, rfl, takeRequest_tablesLaw (fun b _ hu => beginCollection_tablesLaw b hu) p 3 hs⟩
    | sealHistory p => exact ⟨_, rfl, takeRequest_tablesLaw (fun b _ hu => sealRequest_tablesLaw b hu) p 4 hs⟩
    | clearHistory p => exact ⟨_, rfl, takeRequest_tablesLaw (fun b _ hu => clearRequest_tablesLaw b hu) p 5 hs⟩
    | setPoint p first xs =>
      exact ⟨_, rfl, takeRequest_tablesLaw (fun b _ hu => tableWrite_tablesLaw writePoints_ranged b hu) p 8 hs⟩
    | setRecorder p r e u o d f =>
      exact ⟨_, rfl, takeRequest_tablesLaw (fun b _ hu => tableWrite_tablesLaw writeRecorder_ranged b hu) p 9 hs⟩
    | setMapBlock p r b x =>
      exact ⟨_, rfl, takeRequest_tablesLaw (fun b _ hu => tableWrite_tablesLaw writeBlock_ranged b hu) p 10 hs⟩
    | setStudy p e w t v =>
      exact ⟨_, rfl, takeRequest_tablesLaw (fun b _ hu => tableWrite_tablesLaw writeStudy_ranged b hu) p 11 hs⟩
    | setEventZero p t => exact ⟨_, rfl, takeRequest_tablesLaw (fun b _ hu => setEventZero_tablesLaw t b hu) p 12 hs⟩
    | loadSegment p => exact ⟨_, rfl, takeRequest_tables (loadSegment_tables p) (loadSegment_history p) p 13 hs⟩
    | cancelSegment p r q =>
      exact ⟨_, rfl, takeRequest_tables (cancelSegment_tables p r q) (cancelSegment_history p r q) p 14 hs⟩
    | openCursor p => exact ⟨_, rfl, takeRequest_tables (openCursor_tables p) (openCursor_history p) p 18 hs⟩
    | segmentCommit => exact segmentCommit_tablesLaw hs
    | segmentFailure => exact segmentFailure_tablesLaw hs
    | _ => cases hw
  · obtain ⟨t, he, hh, ht, -⟩ := exec_spares (by simpa using hw) s
    exact ⟨t, he, hs.of_same ht fun g => by rwa [hh] at g⟩

/-! ### SETUP at each command -/

/-- Outside SETUP there is nothing to keep. -/
theorem setupLaw_of_phase {t : State} (h : t.history.phase ≠ .setup) : SetupLaw t := fun g => absurd g h

theorem reset_setupLaw {t : State} (hh : t.history = History.reset) (hg : t.gaps = []) (hq : t.merge.queue = [])
    (hl : t.live = Live.reset) : SetupLaw t := fun _ => by
  rw [hh, hg, hq, hl]
  exact ⟨rfl, rfl, rfl, rfl, fun i => by simp [Live.reset, CheckpointTable.reset, Checkpoint.reset],
    fun k => by simp [Live.reset, Live.cursor]⟩

/-- The law turns on the store, the Gap List, the queue, and what stands of the live part with no cursor open. -/
theorem SetupLaw.of_spares {s t : State} (hs : SetupLaw s) (hh : t.history = s.history) (hg : t.gaps = s.gaps)
    (hq : t.merge.queue = s.merge.queue) (hl : Dormant s.live t.live) : SetupLaw t := fun hp => by
  rw [hh] at hp
  obtain ⟨h1, h2, h3, h4, h5, h6⟩ := hs hp
  obtain ⟨hc, hk⟩ := hl h6
  rw [hh, hg, hq, hk]
  exact ⟨h1, h2, h3, h4, h5, hc⟩

theorem takeRequest_setupLaw {rule : List Byte → State → Response × State}
    (h : ∀ b u, SetupLaw u → SetupLaw (rule b u).2) (p : PortId) (code : Nat) {s : State} (hs : SetupLaw s) :
    SetupLaw (takeRequest p code rule s) := by
  rcases takeRequest_cases p code rule s with e | ⟨tag, body, -, e⟩ <;> rw [e]
  · exact hs
  · exact h body _ hs

theorem tableWrite_setupLaw (w : Tables → Option (RespBody × Tables)) (b : List Byte) {s : State} (hs : SetupLaw s) :
    SetupLaw (tableWrite w b s).2 := by
  rcases tableWrite_cases w b s with h | ⟨t, h⟩ <;> rw [h] <;> exact hs

theorem setEventZero_setupLaw (t : Nat) (b : List Byte) {s : State} (hs : SetupLaw s) :
    SetupLaw (setEventZero t b s).2 := by
  unfold setEventZero
  split_ifs <;> exact hs

theorem beginCollection_setupLaw (b : List Byte) {s : State} (hs : SetupLaw s) : SetupLaw (beginCollection b s).2 := by
  unfold beginCollection
  split_ifs
  · exact hs
  · split
    · exact hs
    · exact setupLaw_of_phase (by rw [notifyStore_history]; exact Phase.noConfusion)

theorem sealRequest_setupLaw (b : List Byte) {s : State} (hs : SetupLaw s) : SetupLaw (sealRequest b s).2 := by
  unfold sealRequest
  split_ifs
  · exact hs
  · exact hs
  · exact setupLaw_of_phase (by rw [sealHistory_history]; exact Phase.noConfusion)

/-- R10: a clear finds every slot FREE. -/
theorem allSlots_free {l : Live} (h : ¬(allSlots.any fun k => (l.cursor k).isSome) = true) (k : Slot) :
    l.cursor k = none := by
  have hk : k ∈ allSlots := by revert k; decide
  simp only [List.any_eq_true, not_exists, not_and, Bool.not_eq_true, Option.isSome_eq_false_iff,
    Option.isNone_iff_eq_none] at h
  exact h k hk

theorem clearRequest_setupLaw (b : List Byte) {s : State} (hs : SetupLaw s) : SetupLaw (clearRequest b s).2 := by
  unfold clearRequest
  split_ifs with hopen
  · exact hs
  · have free : ∀ k : Slot, (clearHistory s).live.cursor k = none := fun k =>
      (clearHistory_kept s).2.2.free (allSlots_free hopen k)
    refine fun _ => ⟨rfl, rfl, rfl, rfl, fun i => ?_, free⟩
    show ((CheckpointTable.clear _).entries.get i).valid = false
    simp [CheckpointTable.clear]

/-- R65: a segment joins the queue in COLLECTING alone. -/
theorem loadSegment_setupLaw (p : PortId) (b : List Byte) {s : State} (hs : SetupLaw s) :
    SetupLaw (loadSegment p b s).2 := by
  by_cases hp : s.history.phase = .collecting
  · exact setupLaw_of_phase (by rw [loadSegment_history, hp]; exact Phase.noConfusion)
  · rw [loadSegment, if_pos hp]
    exact hs

/-- R73: an empty queue holds nothing to cancel. -/
theorem cancelSegment_setupLaw (p : PortId) (r q : Nat) (b : List Byte) {s : State} (hs : SetupLaw s) :
    SetupLaw (cancelSegment p r q b s).2 := by
  by_cases hp : s.history.phase = .setup
  · obtain ⟨-, -, -, hq, -⟩ := hs hp
    have none_named : ∀ x : RecId, cancelIndex p x q s.merge.queue = none := fun x => by rw [hq]; rfl
    unfold cancelSegment
    split
    · exact hs
    · rw [none_named]
      exact hs
  · exact setupLaw_of_phase (by rwa [cancelSegment_history])

theorem openCursor_setupLaw (p : PortId) (b : List Byte) {s : State} (hs : SetupLaw s) :
    SetupLaw (openCursor p b s).2 := by
  by_cases hp : s.history.phase = .setup
  · rw [openCursor, if_pos hp]
    exact hs
  · exact setupLaw_of_phase (by rwa [openCursor_history])

/-- R64: in SETUP no segment is in progress. -/
theorem SetupLaw.verdict {s : State} (hs : SetupLaw s) (hp : s.history.phase = .setup) : s.verdict = none := by
  obtain ⟨-, -, -, hq, -⟩ := hs hp
  unfold State.verdict
  rw [hq]

theorem segmentCommit_setupLaw {s : State} (hs : SetupLaw s) : ∃ t, execSegmentCommit s = .next t ∧ SetupLaw t := by
  refine ⟨_, rfl, ?_⟩
  split_ifs
  · exact hs
  · split
    · rename_i hv
      refine setupLaw_of_phase fun hp => ?_
      rw [handOver_phase] at hp
      rw [hs.verdict hp] at hv
      cases hv
    · exact hs

theorem segmentFailure_setupLaw {s : State} (hs : SetupLaw s) : ∃ t, execSegmentFailure s = .next t ∧ SetupLaw t := by
  refine ⟨_, rfl, ?_⟩
  split_ifs
  · exact hs
  · split
    · rename_i hv
      refine setupLaw_of_phase fun hp => ?_
      rw [failSegment_history] at hp
      rw [hs.verdict hp] at hv
      cases hv
    · exact hs

/-- Every command keeps SETUP empty. -/
theorem exec_setupLaw (i : Instr) {s : State} (hs : SetupLaw s) : ∃ t, exec i s = .next t ∧ SetupLaw t := by
  by_cases hw : Writes i = true
  · cases i with
    | powerOn => exact ⟨_, rfl, reset_setupLaw rfl rfl rfl rfl⟩
    | resetRelease =>
      refine ⟨_, rfl, ?_⟩
      split_ifs
      · exact reset_setupLaw rfl rfl rfl rfl
      · exact hs
    | beginCollection p => exact ⟨_, rfl, takeRequest_setupLaw (fun b _ hu => beginCollection_setupLaw b hu) p 3 hs⟩
    | sealHistory p => exact ⟨_, rfl, takeRequest_setupLaw (fun b _ hu => sealRequest_setupLaw b hu) p 4 hs⟩
    | clearHistory p => exact ⟨_, rfl, takeRequest_setupLaw (fun b _ hu => clearRequest_setupLaw b hu) p 5 hs⟩
    | setPoint p first xs => exact ⟨_, rfl, takeRequest_setupLaw (fun b _ hu => tableWrite_setupLaw _ b hu) p 8 hs⟩
    | setRecorder p r e u o d f =>
      exact ⟨_, rfl, takeRequest_setupLaw (fun b _ hu => tableWrite_setupLaw _ b hu) p 9 hs⟩
    | setMapBlock p r b x => exact ⟨_, rfl, takeRequest_setupLaw (fun b _ hu => tableWrite_setupLaw _ b hu) p 10 hs⟩
    | setStudy p e w t v => exact ⟨_, rfl, takeRequest_setupLaw (fun b _ hu => tableWrite_setupLaw _ b hu) p 11 hs⟩
    | setEventZero p t => exact ⟨_, rfl, takeRequest_setupLaw (fun b _ hu => setEventZero_setupLaw t b hu) p 12 hs⟩
    | loadSegment p => exact ⟨_, rfl, takeRequest_setupLaw (fun b _ hu => loadSegment_setupLaw p b hu) p 13 hs⟩
    | cancelSegment p r q =>
      exact ⟨_, rfl, takeRequest_setupLaw (fun b _ hu => cancelSegment_setupLaw p r q b hu) p 14 hs⟩
    | openCursor p => exact ⟨_, rfl, takeRequest_setupLaw (fun b _ hu => openCursor_setupLaw p b hu) p 18 hs⟩
    | segmentCommit => exact segmentCommit_setupLaw hs
    | segmentFailure => exact segmentFailure_setupLaw hs
    | _ => cases hw
  · obtain ⟨t, he, hh, -, hg, hq, hl⟩ := exec_spares (by simpa using hw) s
    exact ⟨t, he, hs.of_spares hh hg hq hl⟩

/-- Settles O56: in SETUP the commands that would fill it are refused or find nothing to act on; the tables are written in
range alone, and the phase leaves SETUP over tables without a fault. -/
theorem stepKeepsSetupAndTablesLaws : Obligations.StepKeepsSetupAndTablesLaws := by
  unfold Obligations.StepKeepsSetupAndTablesLaws
  refine ⟨fun s t hs h => ?_, fun s t hs h => ?_⟩
  · refine step_keeps (P := SetupLaw) (fun _ _ hu => hu) (fun u hu => ?_) (fun i _ hu => exec_setupLaw i hu) hs h
    obtain ⟨hh, -, hg, hq, hl⟩ := idle_spares u
    exact hu.of_spares hh hg hq hl
  · refine step_keeps (P := TablesLaw) (fun _ _ hu => hu) (fun u hu => ?_) (fun i _ hu => exec_tablesLaw i hu) hs h
    obtain ⟨hh, ht, -⟩ := idle_spares u
    exact hu.of_same ht fun g => by rwa [hh] at g

end Sys2Proof.Machine
end

section
/-!
PROOF. BEGIN_COLLECTION (R5, R6), the reads of the store (R23, R63), and what a candidate does to the records (R2, R3, R12,
R16 to R19).
-/

namespace Sys2Proof.Machine

open Sys2Proof

/-! ### BEGIN_COLLECTION (R5, R6) -/

theorem beginCollection_opens (b : List Byte) {s : State} (hp : s.history.phase = .setup)
    (hf : tableFault s.tables = none) :
    beginCollection b s =
      (Response.done, notifyStore { s with history := { s.history with phase := .collecting } }) := by
  unfold beginCollection
  rw [if_neg (not_not.2 hp)]
  simp only [hf]

theorem beginCollection_faulty (b : List Byte) {s : State} {f : FaultRecord} (hp : s.history.phase = .setup)
    (hf : tableFault s.tables = some f) :
    beginCollection b s = ({ code := .tableFault, body := .tableFault f }, s) := by
  unfold beginCollection
  rw [if_neg (not_not.2 hp)]
  simp only [hf]

theorem beginCollection_wrongPhase (b : List Byte) {s : State} (hp : s.history.phase ≠ .setup) :
    beginCollection b s = (Response.plain .wrongPhase, s) := if_pos hp

theorem exec_beginCollection {s : State} {p : PortId} {tag : Nat} {body : List Byte} (h : Taken s p 3 tag body) :
    exec (.beginCollection p) s =
      .next (answered s p tag (beginCollection body (s.popRequest p)).1 (beginCollection body (s.popRequest p)).2) :=
  congrArg _ (takeRequest_taken h beginCollection)

/-- Settles O13: the three answers of the rule of BEGIN_COLLECTION. -/
theorem beginCollectionOpens : Obligations.BeginCollectionOpens := by
  unfold Obligations.BeginCollectionOpens
  intro s p tag body h
  rw [exec_beginCollection h]
  refine ⟨fun hp hf => ?_, fun f hp hf => ?_, fun hp => ?_⟩
  · rw [beginCollection_opens body (s := s.popRequest p) hp hf]
    rfl
  · rw [beginCollection_faulty body (s := s.popRequest p) hp hf]
    rfl
  · rw [beginCollection_wrongPhase body (s := s.popRequest p) hp]
    rfl

/-! ### READ_RECORDS and READ_GAPS (R23, R63) -/

theorem exec_readRecords {s : State} {p : PortId} {tag : Nat} {body : List Byte} (st : ReadStart) (last : Option Nat)
    (count : Nat) (zero : Bool) (h : Taken s p 6 tag body) :
    exec (.readRecords p st last count zero) s =
      .next (answeredOnly s p tag (readRecords st last count zero body (s.popRequest p)).1) := by
  refine (congrArg _ (takeRequest_taken h (readRecords st last count zero))).trans ?_
  rw [readRecords_same]
  rfl

theorem exec_readGaps {s : State} {p : PortId} {tag : Nat} {body : List Byte} (start count : Nat)
    (recorder : Option Nat) (h : Taken s p 7 tag body) :
    exec (.readGaps p start count recorder) s =
      .next (answeredOnly s p tag (readGaps start count recorder body (s.popRequest p)).1) := by
  refine (congrArg _ (takeRequest_taken h (readGaps start count recorder))).trans ?_
  rw [readGaps_same]
  rfl

/-- R23: the ranges that READ_RECORDS checks; a start key's time is compared with the end instant alone (log 32). -/
theorem readRecordsOk_iff (st : ReadStart) (last : Option Nat) (count : Nat) :
    readRecordsOk st last count = true ↔
      1 ≤ count ∧ count ≤ 32 ∧ (∀ t, st = .instant t → t ≤ 2 ^ 40 - 1 ∧ ∀ e ∈ last, t ≤ e) ∧
        (∀ k, st = .key k → ∀ e ∈ last, k.time ≤ e) ∧ ∀ e ∈ last, e ≤ 2 ^ 40 - 1 := by
  have grid : Config.maxGrid = 2 ^ 40 - 1 := rfl
  unfold readRecordsOk
  rw [grid, Bool.and_eq_true, Bool.and_eq_true, Bool.and_eq_true]
  cases last with
  | none =>
    cases st with
    | instant t => simp; tauto
    | key k => simp
  | some e =>
    rw [Option.elim_some, Bool.and_eq_true, decide_eq_true_eq (p := startTime st ≤ e)]
    cases st <;> simp [startTime] <;> tauto

theorem readGapsOk_iff (start count : Nat) (recorder : Option Nat) :
    readGapsOk start count recorder = true ↔ start ≤ 511 ∧ 1 ≤ count ∧ count ≤ 32 ∧ ∀ r ∈ recorder, r ≤ 63 := by
  unfold readGapsOk
  cases recorder <;> simp [and_assoc]

/-- R23: the records selected, in the words of the statement. -/
theorem selectRecords_eq (st : ReadStart) (last : Option Nat) (rs : List Record) :
    selectRecords st last rs =
      rs.filter fun r =>
        (match st with
         | .instant t => decide (t ≤ r.time)
         | .key k => keyBefore k r.key) && last.elim true fun e => decide (r.time ≤ e) := by
  cases st <;> rfl

/-- R23, R30: a record as the statement presents it. -/
theorem presentRecord_eq (zero : Bool) (eventZero : Nat) (r : Record) :
    presentRecord zero eventZero r =
      { record := r
        presentation := if zero then .zeroRelative else .absolute
        time := if zero then (r.time : Int) - eventZero else r.time
        corroborated := decide (2 ≤ r.sources.length) } := by
  unfold presentRecord Record.corroborated Record.sources
  cases r.others <;> simp

/-- Settles O16: the two reads answer what they select and leave the state, in range and out of it. -/
theorem readsOfTheStoreSelect : Obligations.ReadsOfTheStoreSelect := by
  unfold Obligations.ReadsOfTheStoreSelect
  refine ⟨fun s p tag body st last count zero h => ?_, fun s p tag body start count recorder h => ?_⟩
  · rw [exec_readRecords st last count zero h]
    dsimp only
    rw [← readRecordsOk_iff]
    refine ⟨fun hok => ?_, fun hok => ?_⟩
    · rw [readRecords, if_pos hok, selectRecords_eq,
        show presentRecord zero (s.popRequest p).tables.study.eventZero = _ from funext (presentRecord_eq zero _)]
      rfl
    · rw [readRecords, if_neg hok]
      rfl
  · rw [exec_readGaps start count recorder h]
    dsimp only
    rw [← readGapsOk_iff]
    refine ⟨fun hok => ?_, fun hok => ?_⟩
    · rw [readGaps, if_pos hok]
      rfl
    · rw [readGaps, if_neg hok]
      rfl

/-! ### The match of a candidate (R16) -/

theorem matches_iff (window : Nat) (c : Candidate) (r : Record) :
    r.matches window c = true ↔
      r.point = c.point ∧ r.state = c.state ∧ r.time ≤ c.time + window ∧ c.time ≤ r.time + window ∧
        ∀ x ∈ r.sources, x.recorder ≠ c.source.recorder := by
  simp only [Record.matches, Bool.and_eq_true, beq_iff_eq, decide_eq_true_eq, List.all_eq_true, bne_iff_ne, and_assoc]
  refine and_congr_right fun _ => and_congr_right fun _ => ?_
  rw [← and_assoc]
  refine and_congr_left fun _ => ?_
  unfold timeDistance
  omega

/-- R16: `best` is the match among these records: none when none matches, else the nearest, and of two equally near the
one earlier in key order. -/
def IsMatch (window : Nat) (c : Candidate) (rs : List Record) : Option Record → Prop
  | none => ∀ r ∈ rs, ¬r.matches window c = true
  | some m =>
      m ∈ rs ∧ m.matches window c = true ∧
        (∀ r ∈ rs, r.matches window c = true → timeDistance m.time c.time ≤ timeDistance r.time c.time) ∧
        ((rs.Pairwise fun a b => keyBefore a.key b.key = true) →
          ∀ r ∈ rs, r.matches window c = true → timeDistance m.time c.time = timeDistance r.time c.time →
            r = m ∨ keyBefore m.key r.key = true)

theorem findMatch_snoc (window : Nat) (c : Candidate) (rs : List Record) (r : Record) :
    findMatch window c (rs ++ [r]) = nearerMatch window c (findMatch window c rs) r := by
  simp [findMatch]

theorem pairwise_key_snoc {rs : List Record} {r : Record}
    (h : (rs ++ [r]).Pairwise fun a b => keyBefore a.key b.key = true) :
    (rs.Pairwise fun a b => keyBefore a.key b.key = true) ∧ ∀ x ∈ rs, keyBefore x.key r.key = true := by
  rw [List.pairwise_append] at h
  exact ⟨h.1, fun x hx => h.2.2 x hx r (List.mem_singleton_self r)⟩

/-- R16: one more record, later in key order. -/
theorem IsMatch.snoc {window : Nat} {c : Candidate} {rs : List Record} {best : Option Record}
    (h : IsMatch window c rs best) (r : Record) :
    IsMatch window c (rs ++ [r]) (nearerMatch window c best r) := by
  unfold nearerMatch
  split_ifs with hr
  · cases best with
    | none =>
      have only : ∀ x ∈ rs ++ [r], x.matches window c = true → x = r := fun x hx hm =>
        (List.mem_append.1 hx).elim (fun hx => absurd hm (h x hx)) List.mem_singleton.1
      exact ⟨by simp, hr, fun x hx hm => by rw [only x hx hm], fun _ x hx hm _ => .inl (only x hx hm)⟩
    | some b =>
      obtain ⟨hb, hbm, hnear, htie⟩ := h
      have cases_of : ∀ x ∈ rs ++ [r], x ∈ rs ∨ x = r := fun x hx =>
        (List.mem_append.1 hx).imp_right List.mem_singleton.1
      dsimp only
      split_ifs with hlt
      · refine ⟨by simp, hr, fun x hx hm => ?_, fun _ x hx hm heq => ?_⟩
        · rcases cases_of x hx with hx | rfl
          · exact hlt.le.trans (hnear x hx hm)
          · exact le_rfl
        · rcases cases_of x hx with hx | rfl
          · have := hnear x hx hm
            omega
          · exact .inl rfl
      · refine ⟨List.mem_append_left _ hb, hbm, fun x hx hm => ?_, fun hp x hx hm heq => ?_⟩
        · rcases cases_of x hx with hx | rfl
          · exact hnear x hx hm
          · exact not_lt.1 hlt
        · obtain ⟨hrs, hlast⟩ := pairwise_key_snoc hp
          rcases cases_of x hx with hx | rfl
          · exact htie hrs x hx hm heq
          · exact .inr (hlast b hb)
  · have old : ∀ x ∈ rs ++ [r], x.matches window c = true → x ∈ rs := fun x hx hm =>
      (List.mem_append.1 hx).resolve_right fun e => hr (List.mem_singleton.1 e ▸ hm)
    cases best with
    | none => exact fun x hx hm => h x (old x hx hm) hm
    | some b =>
      obtain ⟨hb, hbm, hnear, htie⟩ := h
      exact ⟨List.mem_append_left _ hb, hbm, fun x hx hm => hnear x (old x hx hm) hm,
        fun hp x hx hm => htie (pairwise_key_snoc hp).1 x (old x hx hm) hm⟩

theorem findMatch_isMatch (window : Nat) (c : Candidate) (rs : List Record) :
    IsMatch window c rs (findMatch window c rs) := by
  induction rs using List.reverseRecOn with
  | nil => exact fun r hr => absurd hr List.not_mem_nil
  | append_singleton rs r ih =>
    rw [findMatch_snoc]
    exact ih.snoc r

/-- Settles O29: the records are taken in key order, and a later one replaces the match only when it is strictly nearer. -/
theorem matchIsNearest : Obligations.MatchIsNearest := by
  unfold Obligations.MatchIsNearest
  intro window c rs
  dsimp only
  simp only [← matches_iff]
  have h := findMatch_isMatch window c rs
  refine ⟨⟨fun e => by rwa [e] at h, fun hn => ?_⟩, fun m e => ?_⟩
  · cases e : findMatch window c rs with
    | none => rfl
    | some m =>
      rw [e] at h
      exact absurd h.2.1 (hn m h.1)
  · rwa [e] at h

/-! ### One candidate (R17 to R19) -/

theorem takeCandidate_new {window : Nat} {c : Candidate} {a : CommitAcc}
    (h : findMatch window c a.history.records = none) (g : Option Nat) :
    takeCandidate window g a c =
      let r := newRecord g (a.history.commitCount + 1) c
      { a with
        history := { a.history with
          records := insertRecord r a.history.records, commitCount := a.history.commitCount + 1 }
        touched := a.touched ++ [{ commit := r.commit, point := r.point, times := [r.time], key := r.key }]
        committed := a.committed + 1 } := by
  unfold takeCandidate
  simp only [h]

theorem takeCandidate_full {window : Nat} {c : Candidate} {a : CommitAcc} {m : Record}
    (h : findMatch window c a.history.records = some m) (hroom : 4 ≤ m.sources.length) (g : Option Nat) :
    takeCandidate window g a c = { a with full := a.full ++ [c.source.recorder] } := by
  unfold takeCandidate
  simp only [h]
  exact if_neg (not_lt.2 hroom)

theorem takeCandidate_corroborates {window : Nat} {c : Candidate} {a : CommitAcc} {m : Record}
    (h : findMatch window c a.history.records = some m) (hroom : m.sources.length < 4)
    (hq : betterQuality c.quality m.quality = false) (g : Option Nat) :
    takeCandidate window g a c =
      { a with
        history := { a.history with records := replaceRecord (m.corroborate c) a.history.records }
        corroborated := a.corroborated + 1 } := by
  unfold takeCandidate
  simp only [h, hq]
  exact if_pos hroom

theorem takeCandidate_repositions {window : Nat} {c : Candidate} {a : CommitAcc} {m : Record}
    (h : findMatch window c a.history.records = some m) (hroom : m.sources.length < 4)
    (hq : betterQuality c.quality m.quality = true) (g : Option Nat) :
    takeCandidate window g a c =
      let r := m.reposition c
      { a with
        history := { a.history with records := insertRecord r (removeRecord m.commit a.history.records) }
        touched := a.touched ++ [{ commit := r.commit, point := r.point, times := [m.time, r.time], key := r.key }]
        corroborated := a.corroborated + 1 } := by
  unfold takeCandidate
  simp only [h, hq]
  exact if_pos hroom

/-- R18: LOCKED before FREE before ESTIMATED. -/
theorem betterQuality_iff (a b : Quality) :
    betterQuality a b = true ↔ a = .locked ∧ b ≠ .locked ∨ a = .free ∧ b = .estimated := by
  cases a <;> cases b <;> decide

theorem newRecord_late {g : Option Nat} {n : Nat} {c : Candidate} :
    (newRecord g n c).late = true ↔ ∃ x, g = some x ∧ c.time < x := by
  cases g <;> simp [newRecord]

theorem orElse_cause (a b : Option Nat) : (a.orElse fun _ => b) = if a = none then b else a := by
  cases a <;> rfl

theorem takeCandidates_snoc (window : Nat) (h : History) (cs : List Candidate) (c : Candidate) :
    takeCandidates window h (cs ++ [c]) = takeCandidate window h.greatest (takeCandidates window h cs) c := by
  simp [takeCandidates]

/-- Settles O30: the four outcomes of `takeCandidate`, the place of a record, and the order of keys. -/
theorem candidateBecomesOrCorroborates : Obligations.CandidateBecomesOrCorroborates := by
  unfold Obligations.CandidateBecomesOrCorroborates
  refine ⟨fun w g a c h => ?_, fun w g a c m h => ⟨fun hroom => takeCandidate_full h hroom g, fun hroom hq => ?_,
    fun hroom hq => ?_⟩, fun w h cs c => ⟨rfl, takeCandidates_snoc w h cs c⟩,
    fun r rs => insertRecord_place r rs, fun _ => rfl, fun a b => ⟨rfl, rfl, keyBefore_iff a b⟩⟩
  · obtain ⟨before, after, h1, h2, h3, h4⟩ :=
      insertRecord_place (newRecord g (a.history.commitCount + 1) c) a.history.records
    rw [takeCandidate_new h g]
    exact ⟨_, before, after, rfl, rfl, rfl, rfl, rfl, rfl, rfl, rfl, newRecord_late, h1, by rw [← h2], h3, h4, rfl, rfl,
      rfl⟩
  · rw [← betterQuality_iff, Bool.not_eq_true] at hq
    rw [takeCandidate_corroborates h hroom hq g]
    refine ⟨?_, rfl, rfl, rfl, rfl⟩
    simp only [replaceRecord, Record.corroborate, orElse_cause]
  · rw [← betterQuality_iff] at hq
    rw [takeCandidate_repositions h hroom hq g]
    refine ⟨?_, rfl, rfl, rfl, ?_⟩ <;> simp only [removeRecord, Record.reposition, orElse_cause]

end Sys2Proof.Machine
end

section
/-!
PROOF. What each segment entry does in each timing state (R40, R44 to R61), and what a staged gap change writes (R20, R60,
R61).
-/

namespace Sys2Proof.Machine

open Sys2Proof

/-! ### CHANGE in ANCHORED and ESTIMATING (R48, R52, R55) -/

/-- The quality that an entry of a timed recorder takes (R48, R52, R55). -/
def Timing.gives (t : Timing) (q : Quality) : Prop :=
  t.state = .anchored ∧ (t.baseQuality = some .locked ∧ q = .locked ∨ t.baseQuality = some .free ∧ q = .free) ∨
    t.state = .estimating ∧ q = .estimated

/-- R52, R55: a CHANGE of a timed recorder is placed at the running time. -/
theorem change_timed (v : ProcEnv) (x : PendingEntry) {p : Proc} {r : Nat} {q : Quality}
    (hr : p.timing.running = some r) (hq : p.timing.gives q) : p.change v x = some (p.place v x r q) := by
  unfold Proc.change
  rcases hq with ⟨hs, ⟨hb, rfl⟩ | ⟨hb, rfl⟩⟩ | ⟨hs, rfl⟩
  · simp [hs, hr, hb, AnchorQuality.quality]
  · simp [hs, hr, hb, AnchorQuality.quality]
  · simp [hs, hr]

/-- R46, R48: one entry placed at a recorder time. -/
theorem place_placed (v : ProcEnv) (x : PendingEntry) (p : Proc) (r : Nat) (q : Quality) :
    Placed v q p (p.place v x r q) [(x, some r)] := placeOne_placed v q p (x, some r)

/-- R48: an entry whose corrected time lies on the grid. -/
theorem place_onGrid (v : ProcEnv) (x : PendingEntry) {p : Proc} {r t : Nat} (q : Quality)
    (hc : correct v.entry p.timing.driftBase r = (t : Int)) (ht : t ≤ 2 ^ 40 - 1) :
    p.place v x r q =
      { p with
        staged := p.staged ++
          [{ time := t, point := x.point, state := x.state, quality := q, cause := x.cause
             source := { recorder := v.slot, seq := x.seq, idx := x.idx, recorderTime := r } }]
        timing := { p.timing with lastKnown := some r, lastRecord := some t }
        raised := if ∃ l ∈ p.timing.lastRecord, t < l then p.raised ||| Cause.backward.set else p.raised } := by
  have hg : inGrid (t : Int) = true := (inGrid_iff _).2 ⟨by omega, by omega⟩
  unfold Proc.place
  rw [hc]
  simp only [hg, Bool.not_true, Bool.false_eq_true, if_false, Int.toNat_natCast]
  cases hl : p.timing.lastRecord with
  | none => simp
  | some l => by_cases hb : t < l <;> simp [hb, Proc.raise]

/-! ### CHANGE in UNANCHORED, and spills (R49, R56, R57) -/

theorem change_joins (v : ProcEnv) (x : PendingEntry) {p : Proc} (hs : p.timing.state = .unanchored)
    (hl : p.timing.pendingList.length < 64) : p.change v x = some (p.join x) := by
  unfold Proc.change
  simp only [hs]
  exact if_pos hl

/-- R49: a CHANGE that finds the pending list full acts after a spill. -/
theorem change_full (v : ProcEnv) (x : PendingEntry) {p : Proc} (hs : p.timing.state = .unanchored)
    (hl : 64 ≤ p.timing.pendingList.length) :
    p.change v x = (p.spill v).map fun z => z.place v x (z.timing.running.getD 0) .estimated := by
  unfold Proc.change
  simp only [hs]
  exact if_neg (not_lt.2 hl)

/-- R56: a recorder is ESTIMATING after a spill. -/
theorem spill_estimating {v : ProcEnv} {p z : Proc} (h : p.spill v = some z) :
    z.timing.state = .estimating ∧ ∃ r, z.timing.running = some r := by
  obtain ⟨b, -, rfl⟩ := Option.map_eq_some_iff.1 h
  exact ⟨rfl, _, rfl⟩

theorem change_full_spilled (v : ProcEnv) (x : PendingEntry) {p z : Proc} (hs : p.timing.state = .unanchored)
    (hl : 64 ≤ p.timing.pendingList.length) (hz : p.spill v = some z) : p.change v x = z.change v x := by
  obtain ⟨he, r, hr⟩ := spill_estimating hz
  rw [change_full v x hs hl, hz, change_timed v x hr (.inr ⟨he, rfl⟩), Option.map_some, hr, Option.getD_some]

theorem spillBase_eq (v : ProcEnv) (t : Timing) : spillBase v t = t.lastKnown.orElse fun _ => v.entry.fallback := by
  unfold spillBase
  cases t.lastKnown <;> rfl

/-- R56: what a spill from an estimate base makes of a processing. -/
theorem spillFrom_spills (v : ProcEnv) (b : Nat) (p : Proc) :
    let timed := estimated b v.entry.tickUnit p.timing.pendingList
    let placed := placedAll v p.timing.driftBase .estimated timed
    let y := p.spillFrom v b
    y.staged = p.staged ++ placed ∧ y.gapChanges = p.gapChanges ∧ y.opened = p.opened ∧
      y.timing =
        { p.timing with
          state := .estimating
          running := some (min (b + p.timing.tickCount * v.entry.tickUnit) (2 ^ 48 - 1))
          pendingList := [], tickCount := 0, lastKnown := lastKnownAfter p.timing.lastKnown timed
          lastRecord := lastRecordAfter p.timing.lastRecord placed } ∧
      RaisesMore p.raised y.raised
        (fun c => c = .pendingSpill ∨ placingRaises v p.timing.driftBase p.timing.lastRecord .estimated timed c) := by
  obtain ⟨hs, hg, ho, ht, hr⟩ := spill_placed v b p p.timing.pendingList
  refine ⟨hs, hg, ho, ?_, fun c => ?_⟩
  · simp only [Proc.spillFrom, Proc.raise, ht]
    rfl
  · refine (hr.trans (RaisesMore.one _ .pendingSpill) c).trans ?_
    tauto

/-! ### ANCHOR (R46, R47, R50, R53, R55, R61) -/

/-- R47: the drift base an anchor leaves. -/
theorem driftBaseAfter_eq (a : Nat) (q : AnchorQuality) (now : Option Nat) :
    driftBaseAfter a q now = some (if q = .locked then a else now.getD a) := by
  cases q <;> cases now <;> rfl

theorem inGrid_false_iff (g : Int) : inGrid g = false ↔ g < 0 ∨ 2 ^ 40 - 1 < g := by
  rw [← Bool.not_eq_true, inGrid_iff]
  omega

/-- R53, R55: the CLOCK_STEP that an anchor raises. -/
theorem judgeStep_judges (v : ProcEnv) (a : Nat) (p : Proc) :
    p.judgeStep v a = { p with raised := (p.judgeStep v a).raised } ∧
      RaisesMore p.raised (p.judgeStep v a).raised fun c =>
        c = .clockStep ∧ ∃ r, p.timing.running = some r ∧ v.tables.study.stepThreshold < (a - r) + (r - a) := by
  unfold Proc.judgeStep
  cases p.timing.running with
  | none => exact ⟨rfl, fun c => by simp⟩
  | some r =>
    by_cases h : v.tables.study.stepThreshold < (a - r) + (r - a)
    · refine ⟨by simp [h, Proc.raise], fun c => ?_⟩
      simp [h, Proc.raise, holds_or, holds_set]
    · exact ⟨by simp [h], fun c => by simp [h]⟩

/-- R46: what an anchor's own time does. -/
theorem setAnchor_sets (v : ProcEnv) (a : Nat) (p : Proc) {base : Option Nat} (hb : p.timing.driftBase = base) :
    let g := correct v.entry base a
    let y := p.setAnchor v a
    y.staged = p.staged ∧ y.gapChanges = p.gapChanges ∧ y.opened = p.opened ∧
      y.timing = { p.timing with lastKnown := some a, lastAnchor := some (min g.toNat (2 ^ 40 - 1)) } ∧
      RaisesMore p.raised y.raised fun c => c = .timeRange ∧ (g < 0 ∨ 2 ^ 40 - 1 < g) := by
  subst hb
  have raised : (p.setAnchor v a).raised =
      if inGrid (correct v.entry p.timing.driftBase a) then p.raised else p.raised ||| Cause.timeRange.set := by
    unfold Proc.setAnchor
    dsimp only
    split_ifs <;> rfl
  have rest : p.setAnchor v a =
      { p with
        timing :=
          { p.timing with
            lastKnown := some a, lastAnchor := some (clampGrid (correct v.entry p.timing.driftBase a)) }
        raised := (p.setAnchor v a).raised } := by
    unfold Proc.setAnchor
    dsimp only
    split_ifs <;> rfl
  refine ⟨by rw [rest], by rw [rest], by rw [rest], by rw [rest]; rfl, fun c => ?_⟩
  rw [raised]
  split_ifs with h
  · rw [inGrid_iff] at h
    exact ⟨.inl, fun e => e.resolve_right fun g => by omega⟩
  · rw [Bool.not_eq_true, inGrid_false_iff] at h
    exact (RaisesMore.one p.raised .timeRange c).trans (or_congr_right ⟨fun e => ⟨e, h⟩, And.left⟩)

/-- R61: the open gap, if any, is closed. -/
theorem closeGap_closes (t : Nat) (p : Proc) :
    p.closeGap t =
      { p with
        gapChanges := p.gapChanges ++ (p.timing.openGap.toList.map fun i => .closing i t)
        timing := { p.timing with openGap := none } } := by
  obtain ⟨tm, st, gc, op, ra⟩ := p
  obtain ⟨_, _, _, _, _, _, _, _, _, openGap, _⟩ := tm
  unfold Proc.closeGap
  cases openGap <;> simp

/-- What an anchor makes of a timed recorder before a gap is closed (R53, R55). -/
def Proc.reanchor (v : ProcEnv) (a : Nat) (q : AnchorQuality) (p : Proc) : Proc :=
  ((p.judgeStep v a).setBase a q).setAnchor v a

theorem reanchor_anchors (v : ProcEnv) (a : Nat) (q : AnchorQuality) (p : Proc) :
    let base := if q = .locked then a else p.timing.driftBase.getD a
    let g := correct v.entry (some base) a
    let y := p.reanchor v a q
    y.staged = p.staged ∧ y.gapChanges = p.gapChanges ∧ y.opened = p.opened ∧
      y.timing =
        { p.timing with
          running := some a, baseQuality := some q, driftBase := some base, lastKnown := some a
          lastAnchor := some (min g.toNat (2 ^ 40 - 1)) } ∧
      RaisesMore p.raised y.raised fun c =>
        c = .clockStep ∧
            (∃ r, p.timing.running = some r ∧ v.tables.study.stepThreshold < (a - r) + (r - a)) ∨
          c = .timeRange ∧ (g < 0 ∨ 2 ^ 40 - 1 < g) := by
  dsimp only
  obtain ⟨hj, hjr⟩ := judgeStep_judges v a p
  generalize hz : p.judgeStep v a = z at hj hjr
  have hd : (z.setBase a q).timing.driftBase = some (if q = .locked then a else p.timing.driftBase.getD a) := by
    rw [hj]
    exact driftBaseAfter_eq a q _
  obtain ⟨h1, h2, h3, h4, h5⟩ := setAnchor_sets v a (z.setBase a q) hd
  unfold Proc.reanchor
  rw [hz]
  refine ⟨h1.trans (by rw [hj]; rfl), h2.trans (by rw [hj]; rfl), h3.trans (by rw [hj]; rfl), h4.trans ?_, hjr.trans h5⟩
  rw [← hd, hj]
  rfl

/-- R50: an anchor of an UNANCHORED recorder before the gap is closed: the base is set and the pending list back-placed. -/
def Proc.backPlacedBy (v : ProcEnv) (a : Nat) (q : AnchorQuality) (p : Proc) : Proc :=
  p.timing.pendingList.foldl (Proc.backPlaceEntry v a p.timing.tickCount q) (p.setBase a q)

theorem backPlacedBy_places (v : ProcEnv) (a : Nat) (q : AnchorQuality) (p : Proc) :
    Placed v q.quality (p.setBase a q) (p.backPlacedBy v a q)
      (backPlaced a p.timing.tickCount v.entry.tickUnit p.timing.pendingList) :=
  backPlace_placed v a p.timing.tickCount q (p.setBase a q) p.timing.pendingList

/-- The recorder ANCHORED by an anchor at the corrected time, its open gap closed. -/
def Proc.closedAnchored (time : Nat) (p : Proc) : Proc :=
  { p.closeGap time with timing := { (p.closeGap time).timing with state := .anchored } }

theorem closedAnchored_eq (time : Nat) (p : Proc) :
    p.closedAnchored time =
      { p with
        gapChanges := p.gapChanges ++ (p.timing.openGap.toList.map fun i => .closing i time)
        timing := { p.timing with openGap := none, state := .anchored } } := by
  unfold Proc.closedAnchored
  rw [closeGap_closes]

theorem anchor_anchored (v : ProcEnv) (a : Nat) (q : AnchorQuality) {p : Proc} (hs : p.timing.state = .anchored) :
    p.anchor v a q = p.reanchor v a q := by
  unfold Proc.anchor
  simp only [hs]
  rfl

theorem anchor_estimating (v : ProcEnv) (a : Nat) (q : AnchorQuality) {p : Proc} (hs : p.timing.state = .estimating) :
    p.anchor v a q =
      let y := p.reanchor v a q
      y.closedAnchored (y.timing.lastAnchor.getD 0) := by
  unfold Proc.anchor
  simp only [hs]
  rfl

theorem anchor_unanchored (v : ProcEnv) (a : Nat) (q : AnchorQuality) {p : Proc} (hs : p.timing.state = .unanchored) :
    p.anchor v a q =
      let placed := p.backPlacedBy v a q
      let y := Proc.setAnchor v a { placed with timing := { placed.timing with pendingList := [], tickCount := 0 } }
      y.closedAnchored (y.timing.lastAnchor.getD 0) := by
  unfold Proc.anchor
  simp only [hs]
  rfl

/-- The quality of an anchor in the words of the statement. -/
theorem anchorQuality_eq (q : AnchorQuality) : q.quality = if q = .locked then .locked else .free := by
  cases q <;> rfl

/-- R47, R50: what an anchor of an UNANCHORED recorder makes of a processing. -/
theorem anchor_unanchored_places (v : ProcEnv) (a : Nat) (q : AnchorQuality) {p : Proc}
    (hs : p.timing.state = .unanchored) :
    let base := if q = .locked then a else p.timing.driftBase.getD a
    let g := correct v.entry (some base) a
    let time := min g.toNat (2 ^ 40 - 1)
    let timed := backPlaced a p.timing.tickCount v.entry.tickUnit p.timing.pendingList
    let placed := placedAll v (some base) q.quality timed
    let y := p.anchor v a q
    y.staged = p.staged ++ placed ∧
      y.gapChanges = p.gapChanges ++ (p.timing.openGap.toList.map fun i => .closing i time) ∧ y.opened = p.opened ∧
      y.timing =
        { p.timing with
          state := .anchored, running := some a, baseQuality := some q, driftBase := some base, lastKnown := some a
          lastRecord := lastRecordAfter p.timing.lastRecord placed, lastAnchor := some time
          pendingList := [], tickCount := 0, openGap := none } ∧
      RaisesMore p.raised y.raised fun c =>
        placingRaises v (some base) p.timing.lastRecord q.quality timed c ∨
          c = .timeRange ∧ (g < 0 ∨ 2 ^ 40 - 1 < g) := by
  dsimp only
  rw [anchor_unanchored v a q hs]
  obtain ⟨h1, h2, h3, h4, h5⟩ := backPlacedBy_places v a q p
  have hb : (p.setBase a q).timing.driftBase = some (if q = .locked then a else p.timing.driftBase.getD a) :=
    driftBaseAfter_eq a q _
  rw [hb] at h1 h4 h5
  generalize p.backPlacedBy v a q = y at *
  have hy : y.timing.driftBase = some (if q = .locked then a else p.timing.driftBase.getD a) := by
    rw [h4]
    exact hb
  obtain ⟨h6, h7, h8, h9, h10⟩ := setAnchor_sets v a
    { y with timing := { y.timing with pendingList := [], tickCount := 0 } } hy
  dsimp only
  generalize Proc.setAnchor v a { y with timing := { y.timing with pendingList := [], tickCount := 0 } } = z at *
  rw [closedAnchored_eq, h9]
  refine ⟨h6.trans h1, ?_, h8.trans h3, ?_, h5.trans h10⟩
  · show z.gapChanges ++ _ = _
    rw [h7, h2, h4]
    rfl
  · rw [h4, ← hb]
    rfl

/-! ### LOSS (R51, R54, R55, R58, R59) -/

theorem gapStart_eq (t : Timing) : gapStart t = max (t.lastRecord.getD 0) (t.lastAnchor.getD 0) := by
  unfold gapStart laterOf
  cases t.lastRecord <;> cases t.lastAnchor <;> simp

theorem openGap_opens (v : ProcEnv) (lost : Option Nat) {p : Proc} (h : v.gapsHeld + p.opened < 512) :
    p.openGap v lost =
      { p with
        gapChanges := p.gapChanges ++
          [.opening v.slot (max (p.timing.lastRecord.getD 0) (p.timing.lastAnchor.getD 0)) lost]
        opened := p.opened + 1
        timing := { p.timing with openGap := some (v.gapsHeld + p.opened) } } := by
  rw [← gapStart_eq]
  exact if_pos h

theorem openGap_full (v : ProcEnv) (lost : Option Nat) {p : Proc} (h : 512 ≤ v.gapsHeld + p.opened) :
    p.openGap v lost =
      { p with timing := { p.timing with openGap := none }, raised := p.raised ||| Cause.gapListFull.set } :=
  if_neg (not_lt.2 h)

theorem recordLoss_adds (v : ProcEnv) (cause : Cause) (lost : Option Nat) {p : Proc} {i : Nat}
    (h : p.timing.openGap = some i) :
    p.recordLoss v cause lost =
      { p with gapChanges := p.gapChanges ++ [.addLost i lost], raised := p.raised ||| cause.set } := by
  unfold Proc.recordLoss
  simp only [Proc.raise, h]

theorem recordLoss_opens (v : ProcEnv) (cause : Cause) (lost : Option Nat) {p : Proc} (h : p.timing.openGap = none) :
    p.recordLoss v cause lost = (p.raise cause).openGap v lost := by
  unfold Proc.recordLoss
  simp only [Proc.raise, h]

/-- R51, R54, R55: the lost count of a LOSS with no spill due goes to the open gap, or opens one. -/
def Proc.lossNoted (v : ProcEnv) (cause : Cause) (lost : Option Nat) (p : Proc) : Proc :=
  if p.timing.state = .anchored then (p.raise cause).openGap v lost else p.recordLoss v cause lost

/-- R51, R54, R55: a LOSS with no spill due. -/
theorem loss_noted (v : ProcEnv) (cause : Cause) (lost : Option Nat) {p : Proc}
    (h : p.timing.state ≠ .unanchored ∨ p.timing.pendingList = []) :
    p.loss v cause lost =
      some
        (if p.timing.state = .unanchored then p.lossNoted v cause lost else (p.lossNoted v cause lost).unanchor) := by
  unfold Proc.loss Proc.lossNoted
  cases hs : p.timing.state with
  | unanchored => simp [h.resolve_left (not_not.2 hs)]
  | anchored => simp
  | estimating => simp

/-- R51, R58: a LOSS that finds entries pending acts after a spill. -/
theorem loss_pending (v : ProcEnv) (cause : Cause) (lost : Option Nat) {p : Proc}
    (hs : p.timing.state = .unanchored) (hl : p.timing.pendingList ≠ []) :
    p.loss v cause lost = (p.spill v).map fun z => (z.recordLoss v cause lost).unanchor := by
  unfold Proc.loss
  simp [hs, hl]

theorem loss_spilled (v : ProcEnv) (cause : Cause) (lost : Option Nat) {p z : Proc}
    (hs : p.timing.state = .unanchored) (hl : p.timing.pendingList ≠ []) (hz : p.spill v = some z) :
    p.loss v cause lost = z.loss v cause lost := by
  have he : z.timing.state ≠ .unanchored := by rw [(spill_estimating hz).1]; decide
  have ha : z.timing.state ≠ .anchored := by rw [(spill_estimating hz).1]; decide
  rw [loss_pending v cause lost hs hl, hz, loss_noted v cause lost (.inl he), Option.map_some, if_neg he,
    Proc.lossNoted, if_neg ha]

/-- R51, R54, R55: the loss goes to a new gap, where there is none to take it. -/
theorem lossNoted_opens (v : ProcEnv) (cause : Cause) (lost : Option Nat) {p : Proc}
    (h : p.timing.state = .anchored ∨ p.timing.openGap = none) :
    p.lossNoted v cause lost = (p.raise cause).openGap v lost := by
  unfold Proc.lossNoted
  split_ifs with hs
  · rfl
  · exact recordLoss_opens v cause lost (h.resolve_left hs)

/-- R51, R54, R55, R59: what a LOSS with no spill due makes of a processing. -/
theorem lossNoted_notes (v : ProcEnv) (cause : Cause) (lost : Option Nat) (p : Proc) :
    let opens := p.timing.state = .anchored ∨ p.timing.openGap = none
    let y := p.lossNoted v cause lost
    y.staged = p.staged ∧ y.timing = { p.timing with openGap := y.timing.openGap } ∧
      (∀ i, ¬opens → p.timing.openGap = some i →
        y.gapChanges = p.gapChanges ++ [.addLost i lost] ∧ y.timing.openGap = some i ∧ y.opened = p.opened ∧
          y.raised = p.raised ||| cause.set) ∧
      (opens → v.gapsHeld + p.opened < 512 →
        y.gapChanges = p.gapChanges ++
            [.opening v.slot (max (p.timing.lastRecord.getD 0) (p.timing.lastAnchor.getD 0)) lost] ∧
          y.timing.openGap = some (v.gapsHeld + p.opened) ∧ y.opened = p.opened + 1 ∧
          y.raised = p.raised ||| cause.set) ∧
      (opens → 512 ≤ v.gapsHeld + p.opened →
        y.gapChanges = p.gapChanges ∧ y.timing.openGap = none ∧ y.opened = p.opened ∧
          y.raised = p.raised ||| cause.set ||| Cause.gapListFull.set) := by
  dsimp only
  by_cases ho : p.timing.state = .anchored ∨ p.timing.openGap = none
  · rw [lossNoted_opens v cause lost ho]
    rcases lt_or_ge (v.gapsHeld + p.opened) 512 with hlt | hge
    · rw [openGap_opens v lost (p := p.raise cause) hlt]
      exact ⟨rfl, rfl, fun i hn => absurd ho hn, fun _ _ => ⟨rfl, rfl, rfl, rfl⟩, fun _ hge => by omega⟩
    · rw [openGap_full v lost (p := p.raise cause) hge]
      exact ⟨rfl, rfl, fun i hn => absurd ho hn, fun _ hlt => by omega, fun _ _ => ⟨rfl, rfl, rfl, rfl⟩⟩
  · obtain ⟨hs, hg⟩ := not_or.1 ho
    obtain ⟨i, hi⟩ := Option.ne_none_iff_exists'.1 hg
    have hy : p.lossNoted v cause lost =
        { p with gapChanges := p.gapChanges ++ [.addLost i lost], raised := p.raised ||| cause.set } := by
      rw [Proc.lossNoted, if_neg hs, recordLoss_adds v cause lost hi]
    rw [hy]
    refine ⟨rfl, rfl, fun j _ hj => ?_, fun h => absurd h ho, fun h => absurd h ho⟩
    obtain rfl : i = j := Option.some.inj (hi.symm.trans hj)
    exact ⟨rfl, hi, rfl, rfl⟩

/-! ### Gap changes (R20, R60, R61) -/

theorem addLost_none {a b : Option Nat} (h : a = none ∨ b = none) : addLost a b = none := by
  unfold addLost
  rcases h with rfl | rfl
  · rfl
  · cases a <;> rfl

theorem closing_same (gs : List Gap) (i t : Nat) :
    (applyGap gs (.closing i t))[i]? = (gs[i]?).map fun g => { g with stop := some (max t g.start) } := by
  simp [applyGap]

theorem addLost_same {gs : List Gap} {i : Nat} {g : Gap} (lost : Option Nat) (h : gs[i]? = some g) :
    (applyGap gs (.addLost i lost))[i]? = some { g with lost := addLost g.lost lost } := by
  simp [applyGap, h]

theorem applyGap_others (gs : List Gap) {i j : Nat} (t : Nat) (lost : Option Nat) (h : j ≠ i) :
    (applyGap gs (.closing i t))[j]? = gs[j]? ∧ (applyGap gs (.addLost i lost))[j]? = gs[j]? := by
  simp [applyGap, h.symm]

/-! ### Ticks (R44) -/

theorem advance_timed (v : ProcEnv) {p : Proc} (n : Nat) (h : p.timing.state ≠ .unanchored) :
    p.advance v n =
      { p with
        timing :=
          { p.timing with
            running := p.timing.running.map fun r => min (r + n * v.entry.tickUnit) (2 ^ 48 - 1) } } := by
  unfold Proc.advance
  dsimp only
  split
  · exact absurd ‹_› h
  · rfl

theorem advance_pending (v : ProcEnv) {p : Proc} (n : Nat) (h : p.timing.state = .unanchored)
    (hl : p.timing.pendingList ≠ []) :
    p.advance v n =
      { p with timing := { p.timing with tickCount := min (p.timing.tickCount + n) (2 ^ 48 - 1) } } := by
  unfold Proc.advance
  simp only [h, List.isEmpty_iff, if_neg hl]
  rfl

theorem advance_idle (v : ProcEnv) {p : Proc} (n : Nat) (h : p.timing.state = .unanchored)
    (hl : p.timing.pendingList = []) : p.advance v n = p := by
  unfold Proc.advance
  simp [h, hl]

/-! ### The mapping of a channel (R28, R45) -/

/-- R28: a block of the recorder covers a channel. -/
def Covers (v : ProcEnv) (ch : Nat) (i : BlockId) (b : MapBlock) : Prop :=
  v.entry.blocks.get i = some b ∧ b.first ≤ ch ∧ ch < b.first + b.count

theorem blockPoint_some {b : MapBlock} {ch n : Nat} :
    b.pointOf ch = some n ↔ (b.first ≤ ch ∧ ch < b.first + b.count) ∧ b.base + (ch - b.first) = n := by
  unfold MapBlock.pointOf
  split_ifs with h <;> simp [h]

/-- R28: a point that a lookup yields is that of a block that covers the channel. -/
theorem lookup_some {v : ProcEnv} {ch n : Nat} (h : v.entry.lookup ch = some n) :
    ∃ i b, Covers v ch i b ∧ b.base + (ch - b.first) = n := by
  obtain ⟨o, ho, hn⟩ := List.exists_of_findSome?_eq_some h
  obtain ⟨b, rfl, hp⟩ := Option.bind_eq_some_iff.1 hn
  obtain ⟨hc, he⟩ := blockPoint_some.1 hp
  obtain ⟨k, hk, hb⟩ := List.getElem_of_mem ho
  have hk8 : k < 8 := by simpa using hk
  exact ⟨⟨k, hk8⟩, b, ⟨by rw [vget_eq]; simpa using hb, hc⟩, he⟩

/-- R28: a covered channel has a lookup. -/
theorem lookup_covered {v : ProcEnv} {ch : Nat} {i : BlockId} {b : MapBlock} (h : Covers v ch i b) :
    v.entry.lookup ch ≠ none := fun e => by
  obtain ⟨hb, hc⟩ := h
  have hm : some b ∈ v.entry.blocks.toList := by
    rw [← hb, vget_eq]
    exact Vector.mem_toList_iff.2 (Vector.getElem_mem _)
  have := List.findSome?_eq_none_iff.1 e (some b) hm
  rw [Option.bind_some, blockPoint_some.2 ⟨hc, rfl⟩] at this
  cases this

/-- R28: the lookup of a channel that one block alone covers. -/
theorem lookup_unique {v : ProcEnv} {ch : Nat} {i : BlockId} {b : MapBlock} (h : Covers v ch i b)
    (hu : ∀ j x, Covers v ch j x → j = i) : v.entry.lookup ch = some (b.base + (ch - b.first)) := by
  obtain ⟨n, hn⟩ := Option.ne_none_iff_exists'.1 (lookup_covered h)
  obtain ⟨j, x, hx, rfl⟩ := lookup_some hn
  obtain rfl := hu j x hx
  obtain rfl : b = x := Option.some.inj (h.1.symm.trans hx.1)
  exact hn

theorem pointOf_none_of_lookup {v : ProcEnv} {ch : Nat} (h : v.entry.lookup ch = none) : v.pointOf ch = none := by
  unfold ProcEnv.pointOf
  rw [h]
  rfl

/-- R45: the enabled point of a lookup; none above 4,095 (log 57). -/
theorem pointOf_lookup {v : ProcEnv} {ch n : Nat} (h : v.entry.lookup ch = some n) :
    (4096 ≤ n → v.pointOf ch = none) ∧
      ∀ pt : PointId, pt.val = n → v.pointOf ch = if (v.tables.points.get pt).enabled then some pt else none := by
  unfold ProcEnv.pointOf
  rw [h, Option.bind_some]
  refine ⟨fun hn => by rw [asIndex_none.2 hn], fun pt hpt => ?_⟩
  subst hpt
  rw [asIndex_val]

/-! ### Entries (R40, R45, R67, R71) -/

theorem entry_unmapped (v : ProcEnv) (seq i : Nat) (p : Proc) (d ch : Nat) (st : SwState) (cause : Option Nat)
    (h : v.pointOf ch = none) :
    p.entry v seq i (.change d ch st cause) = some ((p.advance v d).raise .unmapped) := by
  simp only [Proc.entry, h]

theorem entry_mapped (v : ProcEnv) (seq i : Nat) (p : Proc) (d ch : Nat) (st : SwState) (cause : Option Nat)
    {pt : PointId} (h : v.pointOf ch = some pt) :
    p.entry v seq i (.change d ch st cause) =
      (p.advance v d).change v { seq := seq, idx := i, point := pt, state := st, cause := cause, ticks := 0 } := by
  simp only [Proc.entry, h]

theorem entries_stop {v : ProcEnv} {seq i : Nat} {p : Proc} {x : SegEntry} (h : p.entry v seq i x = none)
    (es : List SegEntry) : p.entries v seq i (x :: es) = .error i := by
  simp only [Proc.entries, h]

theorem entries_next {v : ProcEnv} {seq i : Nat} {p q : Proc} {x : SegEntry} (h : p.entry v seq i x = some q)
    (es : List SegEntry) : p.entries v seq i (x :: es) = q.entries v seq (i + 1) es := by
  simp only [Proc.entries, h]

theorem runEntries_error {v : ProcEnv} {seq j : Nat} {p : Proc} {es : List SegEntry}
    (h : p.entries v seq 0 es = .error j) : runEntries v seq p es = .failed .noTimeBase (some j) := by
  simp only [runEntries, h]

theorem runEntries_ok {v : ProcEnv} {seq : Nat} {p q : Proc} {es : List SegEntry}
    (h : p.entries v seq 0 es = .ok q) :
    runEntries v seq p es = .commit { q with timing := { q.timing with lastSeq := some seq } } := by
  simp only [runEntries, h]

/-! ### The statement, clause by clause -/

/-- R51, R54, R55, R58, R59: a LOSS in the three states, as the statement says it. -/
theorem loss_acts (v : ProcEnv) (cause : Cause) (lost : Option Nat) (p : Proc)
    (h : p.timing.state ≠ .unanchored ∨ p.timing.pendingList = []) :
    let opens := p.timing.state = .anchored ∨ p.timing.openGap = none
    ∃ y : Proc, p.loss v cause lost = some y ∧ y.staged = p.staged ∧
      (p.timing.state = .unanchored → y.timing = { p.timing with openGap := y.timing.openGap }) ∧
      (p.timing.state ≠ .unanchored →
        y.timing =
          { p.timing with
            state := .unanchored, running := none, baseQuality := none, openGap := y.timing.openGap }) ∧
      (∀ i, ¬opens → p.timing.openGap = some i →
        y.gapChanges = p.gapChanges ++ [.addLost i lost] ∧ y.timing.openGap = some i ∧ y.opened = p.opened ∧
          y.raised = p.raised ||| cause.set) ∧
      (opens → v.gapsHeld + p.opened < 512 →
        y.gapChanges = p.gapChanges ++
            [.opening v.slot (max (p.timing.lastRecord.getD 0) (p.timing.lastAnchor.getD 0)) lost] ∧
          y.timing.openGap = some (v.gapsHeld + p.opened) ∧ y.opened = p.opened + 1 ∧
          y.raised = p.raised ||| cause.set) ∧
      (opens → 512 ≤ v.gapsHeld + p.opened →
        y.gapChanges = p.gapChanges ∧ y.timing.openGap = none ∧ y.opened = p.opened ∧
          y.raised = p.raised ||| cause.set ||| Cause.gapListFull.set) := by
  dsimp only
  obtain ⟨hst, htm, hnotes⟩ := lossNoted_notes v cause lost p
  rw [loss_noted v cause lost h]
  by_cases hs : p.timing.state = .unanchored
  · rw [if_pos hs]
    exact ⟨_, rfl, hst, fun _ => htm, fun hn => absurd hs hn, hnotes⟩
  · rw [if_neg hs]
    exact ⟨_, rfl, hst, fun hn => absurd hn hs, fun _ => by
      simp only [Proc.unanchor]
      rw [htm], hnotes⟩

/-- R47, R50, R53, R55: an ANCHOR in the three states, as the statement says it. -/
theorem anchor_acts (v : ProcEnv) (a : Nat) (q : AnchorQuality) (p : Proc) :
    let base := if q = .locked then a else p.timing.driftBase.getD a
    let g := correct v.entry (some base) a
    let off := g < 0 ∨ 2 ^ 40 - 1 < g
    let time := min g.toNat (2 ^ 40 - 1)
    let stepped := ∃ r, p.timing.running = some r ∧ v.tables.study.stepThreshold < (a - r) + (r - a)
    let y := p.anchor v a q
    y.timing.state = .anchored ∧ y.timing.running = some a ∧ y.timing.baseQuality = some q ∧
      y.timing.driftBase = some base ∧ y.timing.lastKnown = some a ∧ y.timing.lastAnchor = some time ∧
      y.timing.lastSeq = p.timing.lastSeq ∧ y.opened = p.opened ∧
      (p.timing.state = .anchored → y.gapChanges = p.gapChanges ∧ y.timing.openGap = p.timing.openGap) ∧
      (p.timing.state ≠ .anchored →
        y.gapChanges = p.gapChanges ++ (p.timing.openGap.toList.map fun i => .closing i time) ∧
          y.timing.openGap = none) ∧
      (p.timing.state ≠ .unanchored →
        y.staged = p.staged ∧ y.timing.lastRecord = p.timing.lastRecord ∧
          y.timing.pendingList = p.timing.pendingList ∧ y.timing.tickCount = p.timing.tickCount ∧
          RaisesMore p.raised y.raised (fun c => c = .clockStep ∧ stepped ∨ c = .timeRange ∧ off)) ∧
      (p.timing.state = .unanchored →
        let timed := backPlaced a p.timing.tickCount v.entry.tickUnit p.timing.pendingList
        let quality : Quality := if q = .locked then .locked else .free
        let placed := placedAll v (some base) quality timed
        y.staged = p.staged ++ placed ∧ y.timing.lastRecord = lastRecordAfter p.timing.lastRecord placed ∧
          y.timing.pendingList = [] ∧ y.timing.tickCount = 0 ∧
          RaisesMore p.raised y.raised
            (fun c => placingRaises v (some base) p.timing.lastRecord quality timed c ∨ c = .timeRange ∧ off)) := by
  cases hs : p.timing.state with
  | anchored =>
    obtain ⟨h1, h2, h3, h4, h5⟩ := reanchor_anchors v a q p
    rw [anchor_anchored v a q hs]
    generalize p.reanchor v a q = y at *
    dsimp only
    rw [h4]
    exact ⟨hs, rfl, rfl, rfl, rfl, rfl, rfl, h3, fun _ => ⟨h2, rfl⟩, fun hn => absurd rfl hn,
      fun _ => ⟨h1, rfl, rfl, rfl, h5⟩, TimingState.noConfusion⟩
  | estimating =>
    obtain ⟨h1, h2, h3, h4, h5⟩ := reanchor_anchors v a q p
    rw [anchor_estimating v a q hs]
    generalize p.reanchor v a q = y at *
    dsimp only
    rw [closedAnchored_eq, h4, h2]
    exact ⟨rfl, rfl, rfl, rfl, rfl, rfl, rfl, h3, TimingState.noConfusion, fun _ => ⟨rfl, rfl⟩,
      fun _ => ⟨h1, rfl, rfl, rfl, h5⟩, TimingState.noConfusion⟩
  | unanchored =>
    obtain ⟨h1, h2, h3, h4, h5⟩ := anchor_unanchored_places v a q hs
    generalize p.anchor v a q = y at *
    dsimp only
    rw [h4, ← anchorQuality_eq]
    exact ⟨rfl, rfl, rfl, rfl, rfl, rfl, rfl, h3, TimingState.noConfusion, fun _ => ⟨h2, rfl⟩,
      fun hn => absurd rfl hn, fun _ => ⟨h1, rfl, rfl, rfl, h5⟩⟩

/-- R49, R55: a CHANGE in UNANCHORED, as the statement says it. -/
theorem change_unanchored (v : ProcEnv) (x : PendingEntry) (p : Proc) (hs : p.timing.state = .unanchored) :
    (p.timing.pendingList.length < 64 →
      let n := if p.timing.pendingList = [] then 0 else p.timing.tickCount
      p.change v x =
        some
          { p with
            timing :=
              { p.timing with
                tickCount := n, pendingList := p.timing.pendingList ++ [{ x with ticks := n }] } }) ∧
      (64 ≤ p.timing.pendingList.length →
        (p.spill v = none → p.change v x = none) ∧ ∀ z, p.spill v = some z → p.change v x = z.change v x) := by
  refine ⟨fun hl => ?_, fun hl => ⟨fun hn => ?_, fun z hz => change_full_spilled v x hs hl hz⟩⟩
  · rw [change_joins v x hs hl]
    simp only [Proc.join, List.isEmpty_iff]
  · rw [change_full v x hs hl, hn]
    rfl

/-- R56, R57: a spill, as the statement says it. -/
theorem spill_acts (v : ProcEnv) (p : Proc) :
    let base := p.timing.lastKnown.orElse fun _ => v.entry.fallback
    (base = none → p.spill v = none) ∧ ∀ b : Nat, base = some b → p.spill v = some (p.spillFrom v b) := by
  dsimp only
  rw [← spillBase_eq]
  exact ⟨fun h => by rw [Proc.spill, h]; rfl, fun b h => by rw [Proc.spill, h]; rfl⟩

/-- Settles O28: one lemma for each entry in each timing state, for a spill, for a gap change, for ticks and for the mapping
of a channel. -/
theorem anchoredEntriesAct : Obligations.AnchoredEntriesAct := by
  unfold Obligations.AnchoredEntriesAct
  refine ⟨fun v x p r t q hs hr hb hc ht => ?_, fun v lost p hs hg => ?_, fun x r => ⟨?_, fun b => rfl⟩,
    fun v x p r q hr hq => ?_, change_unanchored, fun v p => ?_, anchor_acts,
    fun v cause lost p => ⟨fun hs hl => ⟨fun hn => ?_, fun z hz => loss_spilled v cause lost hs hl hz⟩,
      loss_acts v cause lost p⟩,
    fun gs r i j start t lost => ⟨rfl, applyGap_others gs t lost, closing_same gs i t, fun g hg => ?_⟩,
    fun v p n => ⟨advance_timed v n, advance_pending v n, advance_idle v n⟩,
    fun v ch => ⟨fun hn => ?_, fun i b hc hu => pointOf_lookup (lookup_unique hc hu)⟩,
    fun v seq i p d => ⟨fun _ _ => rfl, fun _ => rfl, fun _ => rfl, fun ch st cause =>
      ⟨entry_unmapped v seq i p d ch st cause, fun pt => entry_mapped v seq i p d ch st cause⟩⟩,
    fun v seq i p x es => ⟨rfl, fun h => entries_stop h es, fun q h => entries_next h es, fun j => runEntries_error,
      fun q => runEntries_ok⟩⟩
  · have hq : p.timing.gives q.quality := .inl ⟨hs, by cases q <;> simp [hb, AnchorQuality.quality]⟩
    rw [change_timed v x hr hq, place_onGrid v x _ hc ht]
    cases q <;> exact ⟨_, rfl, rfl, rfl, rfl, rfl⟩
  · have ha : p.timing.state ≠ .unanchored := by rw [hs]; decide
    obtain ⟨y, hy, hst, -, htm, -, hopens, -⟩ := loss_acts v .loss lost p (.inl ha)
    obtain ⟨h1, h2, -, h4⟩ := hopens (.inl hs) hg
    exact ⟨y, hy, hst, h4, h1, by rw [htm ha, h2]⟩
  · exact Int.add_zero _
  · obtain ⟨h1, h2, h3, h4, h5⟩ := place_placed v x p r q
    exact ⟨_, change_timed v x hr hq, h1, h2, h3, h4, h5⟩
  · obtain ⟨hnone, hsome⟩ := spill_acts v p
    exact ⟨hnone, fun b hb => ⟨_, hsome b hb, spillFrom_spills v b p⟩⟩
  · rw [loss_pending v cause lost hs hl, hn]
    rfl
  · refine ⟨_, addLost_same lost hg, fun a b ha hb => ?_, addLost_none⟩
    rw [ha, hb]
    rfl
  · cases hl : v.entry.lookup ch with
    | none => exact pointOf_none_of_lookup hl
    | some n =>
      obtain ⟨i, b, hc, -⟩ := lookup_some hl
      exact absurd hc (hn i b)

end Sys2Proof.Machine
end

section
/-!
PROOF. The end of the segment in progress (R69 to R72, R75 to R77): what it leaves, the causes it merges, and the notices each
port takes of it; then a segment that fails.
-/

namespace Sys2Proof.Machine

open Sys2Proof

/-! ### A merge of causes (R75 to R77) -/

/-- R76: a merge changes the flags exactly when it raises one that was clear. -/
theorem or_ne_iff (a b : CauseSet) : a ||| b ≠ a ↔ b &&& ~~~a ≠ 0 := by
  have bits : ∀ i : Nat, i < 11 → ((a ||| b).getLsbD i = a.getLsbD i ↔ (b &&& ~~~a).getLsbD i = false) := fun i hi => by
    rw [BitVec.getLsbD_or, BitVec.getLsbD_and, BitVec.getLsbD_not]
    cases a.getLsbD i <;> cases b.getLsbD i <;> simp [hi]
  refine not_congr ⟨fun h => BitVec.eq_of_getLsbD_eq fun i hi => ?_, fun h => BitVec.eq_of_getLsbD_eq fun i hi => ?_⟩
  · exact ((bits i hi).1 (by rw [h])).trans (BitVec.getLsbD_zero).symm
  · exact (bits i hi).2 (by rw [h]; exact BitVec.getLsbD_zero)

/-- R75, R76: a merge, as the statements say it. -/
theorem merge_merged (c : Context) (raised : CauseSet) :
    Merged c (c.merge raised) fun x => raised.holds x = true :=
  ⟨fun x => by rw [Context.merge, holds_or, Bool.or_eq_true], rfl, by
    simp only [Context.merge, Bool.or_eq_true, decide_eq_true_eq, or_ne_iff]⟩

theorem attention_iff (c : Context) : c.attention = true ↔ c.flags &&& c.mask ≠ 0 := by
  simp [Context.attention]

/-- R77: the notice of a rising edge, as each port takes it. -/
theorem notifyAttention_port (r : RecId) (c d : Context) (l : Live) (q : PortId) :
    (notifyAttention r c d l).port q = (l.port q).takes (risen r c d (l.port q).subs) := by
  unfold notifyAttention risen attentionNotice
  have hc : (!c.attention) = true ↔ c.flags &&& c.mask = 0 := by simp [Context.attention]
  by_cases h : (!c.attention && d.attention) = true
  · rw [if_pos h, port_notifyWhere]
    rw [Bool.and_eq_true, hc, attention_iff] at h
    by_cases hs : (l.port q).subs.attention = true
    · rw [if_pos hs, if_pos ⟨hs, h⟩]
      rfl
    · rw [if_neg hs, if_neg fun g => hs g.1]
      rfl
  · rw [if_neg h]
    rw [Bool.and_eq_true, hc, attention_iff] at h
    rw [if_neg fun g => h g.2]
    rfl

/-- R71: SEGMENT_DONE, as each port takes it. -/
theorem notifySegmentDone_port (g : QueuedSegment) (o : SegOutcome) (a b : Nat) (i : Option Nat) (s : State)
    (q : PortId) :
    (notifySegmentDone g o a b i s).live.port q =
      (s.live.port q).takes (segmentTold g o a b i q (s.live.port q).subs) := by
  unfold notifySegmentDone segmentTold
  rw [live_withLive, port_notifyWhere]
  by_cases h : q = g.port ∨ (s.live.port q).subs.segmentsAll = true
  · rw [if_pos h, if_pos (by simpa using h)]
    rfl
  · rw [if_neg h, if_neg (by simpa using h)]
    rfl

/-! ### The end of the segment in progress (R69, R71, R72) -/

/-- R72: the entry recorded last is the newest of a finished list. -/
theorem pushFinished_getLast (x : FinishedSegment) (l : List FinishedSegment) :
    (pushFinished x l).getLast? = some x := by
  unfold pushFinished
  have hcap : Config.finishedCapacity = 8 := rfl
  rw [List.getLast?_drop, if_neg (by rw [List.length_append, List.length_singleton]; omega)]
  exact List.getLast?_concat

theorem notifyAttention_cursors (r : RecId) (c d : Context) (l : Live) :
    (notifyAttention r c d l).cursors = l.cursors ∧ (notifyAttention r c d l).checkpoints = l.checkpoints := by
  unfold notifyAttention
  split_ifs <;> exact ⟨rfl, rfl⟩

/-- R69: it leaves every cursor and checkpoint. -/
theorem finishInProgress_cursors (g : QueuedSegment) (o : SegOutcome) (a b : Nat) (i : Option Nat) (x : CauseSet)
    (s : State) :
    (finishInProgress g o a b i x s).live.cursors = s.live.cursors ∧
      (finishInProgress g o a b i x s).live.checkpoints = s.live.checkpoints :=
  notifyAttention_cursors _ _ _ _

/-- R75: the causes are merged into the context of the segment's recorder alone. -/
theorem finishInProgress_context (g : QueuedSegment) (o : SegOutcome) (a b : Nat) (i : Option Nat) (x : CauseSet)
    (s : State) (r : RecId) :
    (finishInProgress g o a b i x s).contexts.get r =
      if g.recorder = r then (s.contexts.get r).merge x else s.contexts.get r := by
  refine (vput_get s.contexts g.recorder r _).trans ?_
  split_ifs with h
  · subst h; rfl
  · rfl

/-- R69, R72: the segment leaves the queue, and the next is in progress from its committed context. -/
theorem finishInProgress_merge (g : QueuedSegment) (o : SegOutcome) (a b : Nat) (i : Option Nat) (x : CauseSet)
    (s : State) :
    let t := finishInProgress g o a b i x s
    t.merge.queue = s.merge.queue.drop 1 ∧
      t.merge.work = (s.merge.queue.drop 1).head?.map (fun h => workOf (t.contexts.get h.recorder)) ∧
      (t.merge.finished.get g.port).getLast? = some { recorder := g.recorder, seq := g.seq, outcome := o } := by
  refine ⟨rfl, rfl, ?_⟩
  show ((vput s.merge.finished g.port _).get g.port).getLast? = _
  rw [vput_get_same]
  exact pushFinished_getLast _ _

/-- R71, R77: SEGMENT_DONE stands before the RECORDER_ATTENTION of a rising edge. -/
theorem finishInProgress_port (g : QueuedSegment) (o : SegOutcome) (a b : Nat) (i : Option Nat) (x : CauseSet)
    (s : State) (q : PortId) :
    let c := s.contexts.get g.recorder
    (finishInProgress g o a b i x s).live.port q =
      (s.live.port q).takes
        (segmentTold g o a b i q (s.live.port q).subs ++ risen g.recorder c (c.merge x) (s.live.port q).subs) := by
  dsimp only
  rw [takes_append]
  refine (notifyAttention_port _ _ _ _ q).trans ?_
  rw [notifySegmentDone_port, takes_subs]
  rfl

/-! ### A segment that fails (R14, R15, R69, R70) -/

theorem exec_segmentCommit {s : State} {g : QueuedSegment} {x : Proc} (hr : s.resetLow = false)
    (h : s.verdict = some (g, .commit x)) : exec .segmentCommit s = .next (handOver g x s) := by
  refine congrArg _ ((if_neg (by simp [hr])).trans ?_)
  rw [h]

theorem exec_segmentFailure {s : State} {g : QueuedSegment} {o : SegOutcome} {i : Option Nat} (hr : s.resetLow = false)
    (h : s.verdict = some (g, .failed o i)) : exec .segmentFailure s = .next (failSegment g o i s) := by
  refine congrArg _ ((if_neg (by simp [hr])).trans ?_)
  rw [h]

theorem capacityFails_iff (h : History) (cs : List Candidate) :
    capacityFails h cs = true ↔ 262144 < h.commitCount + cs.length := decide_eq_true_iff

/-- R14: a commit whose source stands already is refused. -/
theorem handOver_duplicate {g : QueuedSegment} {x : Proc} {s : State}
    (h : identityFails s.history.records x.staged = true) : handOver g x s = failSegment g .duplicate none s := if_pos h

/-- R15: a commit past capacity is refused. -/
theorem handOver_full {g : QueuedSegment} {x : Proc} {s : State} (h : identityFails s.history.records x.staged = false)
    (hc : 262144 < s.history.commitCount + x.staged.length) : handOver g x s = failSegment g .storeFull none s := by
  unfold handOver
  rw [if_neg (by simp [h]), if_pos ((capacityFails_iff _ _).2 hc)]

/-- R14, R15, R68: a commit that both checks pass is taken. -/
theorem handOver_commits {g : QueuedSegment} {x : Proc} {s : State}
    (h : identityFails s.history.records x.staged = false)
    (hc : s.history.commitCount + x.staged.length ≤ 262144) : handOver g x s = commitSegment g x s := by
  unfold handOver
  rw [if_neg (by simp [h]), if_neg fun e => absurd ((capacityFails_iff _ _).1 e) (not_lt.2 hc)]

/-- R69 to R72: the two ways to a failure come to the same. -/
theorem failure_fails {s : State} {g : QueuedSegment} {o : SegOutcome} {entry : Option Nat} {cmd : Instr}
    (hr : s.resetLow = false)
    (h : (cmd = .segmentFailure ∧ s.verdict = some (g, .failed o entry)) ∨
      (cmd = .segmentCommit ∧ entry = none ∧ ∃ x, s.verdict = some (g, .commit x) ∧
        ((identityFails s.history.records x.staged = true ∧ o = .duplicate) ∨
          (identityFails s.history.records x.staged = false ∧ 262144 < s.history.commitCount + x.staged.length ∧
            o = .storeFull)))) :
    exec cmd s = .next (failSegment g o entry s) := by
  rcases h with ⟨rfl, hv⟩ | ⟨rfl, rfl, x, hv, ⟨hid, rfl⟩ | ⟨hid, hcap, rfl⟩⟩
  · exact exec_segmentFailure hr hv
  · rw [exec_segmentCommit hr hv, handOver_duplicate hid]
  · rw [exec_segmentCommit hr hv, handOver_full hid hcap]

/-- Settles O26: a failure is the end of the segment in progress with the failure set of its outcome, and nothing else. -/
theorem segmentFailureDiscards : Obligations.SegmentFailureDiscards := by
  unfold Obligations.SegmentFailureDiscards
  intro s g o entry cmd hr h
  have hctx := finishInProgress_context g o 0 0 entry (failureSet o) s
  have hown := (hctx g.recorder).trans (if_pos rfl)
  obtain ⟨hcur, hckpt⟩ := finishInProgress_cursors g o 0 0 entry (failureSet o) s
  obtain ⟨hq, hw, hf⟩ := finishInProgress_merge g o 0 0 entry (failureSet o) s
  have hport := finishInProgress_port g o 0 0 entry (failureSet o) s
  dsimp only
  rw [failure_fails hr h]
  refine ⟨_, rfl, rfl, rfl, rfl, rfl, hcur, hckpt, fun r => ?_, ⟨?_, ?_⟩, fun r hne => ?_, hq, hw, hf, fun q => ?_, rfl,
    rfl⟩
  · refine (congrArg Context.timing (hctx r)).trans ?_
    split_ifs <;> rfl
  · refine (congrArg Context.flags hown).trans ?_
    cases o <;> rfl
  · have merged : Merged _ (Context.merge _ _) _ := merge_merged (s.contexts.get g.recorder) (failureSet o)
    rw [← hown] at merged
    cases o <;> exact merged
  · exact (hctx r).trans (if_neg (Ne.symm hne))
  · exact (hport q).trans (by rw [← hown]; rfl)

end Sys2Proof.Machine
end

section
/-!
PROOF. What a commit does to the cursors, the checkpoints and the ports (R21, R22, R85 to R88, R114, R117, R122, R158, R170),
and the commit as a whole (R12, R68).
-/

namespace Sys2Proof.Machine

open Sys2Proof

/-! ### The mark and the release of one cursor (R22, R117) -/

/-- R22: the touched times of a record at or before a comparison time. -/
theorem behind_isEmpty (t : Nat) (y : Touched) : (!(y.behind t).isEmpty) = y.times.any fun z => decide (z ≤ t) := by
  rw [Bool.eq_iff_iff]
  simp [Touched.behind]

/-- R22: the overtake record after a commit, as the statement says it. -/
theorem overtakeAfter_overtakes (t : Nat) (touched : List Touched) (before : Option Overtake) :
    Overtakes (some t) touched before (overtakeAfter t touched before) := by
  have hhit : (touched.filter fun x => !(x.behind t).isEmpty) =
      touched.filter fun x => x.times.any fun y => decide (y ≤ t) :=
    List.filter_congr fun x _ => behind_isEmpty t x
  have htimes : ∀ hit : List Touched, hit.flatMap (Touched.behind t) =
      (hit.flatMap Touched.times).filter fun y => decide (y ≤ t) := fun hit => by
    rw [List.filter_flatMap]
    rfl
  unfold Overtakes overtakeAfter
  dsimp only
  rw [hhit, htimes]
  have hne : ∀ x ∈ touched.filter (fun x => x.times.any fun y => decide (y ≤ t)), ∃ y ∈ x.times, y ≤ t := fun x hx => by
    simpa using (List.mem_filter.1 hx).2
  generalize touched.filter (fun x => x.times.any fun y => decide (y ≤ t)) = hit at hne
  refine ⟨fun h => by rw [h]; rfl, fun h => ?_⟩
  cases he : earliestOf ((hit.flatMap Touched.times).filter fun y => decide (y ≤ t)) with
  | none =>
    obtain ⟨x, xs, rfl⟩ := List.exists_cons_of_ne_nil h
    obtain ⟨y, hy, hle⟩ := hne x List.mem_cons_self
    have hmem : y ∈ ((x :: xs).flatMap Touched.times).filter fun y => decide (y ≤ t) :=
      List.mem_filter.2 ⟨List.mem_flatMap.2 ⟨x, List.mem_cons_self, hy⟩, decide_eq_true hle⟩
    rw [earliestOf_none.1 he] at hmem
    cases hmem
  | some m =>
    obtain ⟨hm, hle⟩ := earliestOf_eq.1 he
    refine ⟨_, rfl, ?_, ?_, rfl⟩
    · cases before with
      | none => exact hm
      | some o =>
        rw [Option.map_some, Option.toList_some, List.singleton_append, List.mem_cons]
        exact (min_choice o.earliest m).imp id fun e => by rw [Option.elim_some, e]; exact hm
    · cases before with
      | none => exact hle
      | some o =>
        refine List.forall_mem_cons.2 ⟨min_le_left _ _, fun y hy => (min_le_right _ _).trans (hle y hy)⟩

/-- R22: the mark sets the overtake record alone. -/
theorem mark_overtakes (touched : List Touched) (c : Cursor) :
    ∃ o, c.mark touched = { c with overtaken := o } ∧ Overtakes (compareTime c) touched c.overtaken o := by
  unfold Cursor.mark
  cases compareTime c with
  | none => exact ⟨c.overtaken, rfl, rfl⟩
  | some t => exact ⟨_, rfl, overtakeAfter_overtakes t touched c.overtaken⟩

/-- R117: the release clears AT_HEAD and what parked the cursor there. -/
theorem release_eq (touched : List Touched) (c : Cursor) :
    let released := touched.any fun y => keyAfter y.key c.position
    c.release touched =
      { c with atHead := c.atHead && !released, parked := c.parked && !(c.atHead && released) } := by
  unfold Cursor.release
  dsimp only
  split_ifs with h
  · rw [Bool.and_eq_true] at h
    simp [h.1, h.2]
  · rw [Bool.not_eq_true] at h
    have : (c.atHead && !touched.any fun y => keyAfter y.key c.position) = c.atHead := by
      revert h
      cases c.atHead <;> simp
    rw [this, h]
    simp

/-- R22, R117, R170: a cursor marked with an overtake record, released and tested. -/
def Cursor.reached (touched : List Touched) (o : Option Overtake) (lagging : Bool) (c : Cursor) : Cursor :=
  let released := touched.any fun y => keyAfter y.key c.position
  { c with
    overtaken := o, atHead := c.atHead && !released, parked := c.parked && !(c.atHead && released)
    lagging := lagging }

/-- R22, R117, R170: the cursor as a commit marks, releases and tests it. -/
theorem marked_eq (e : Env) (touched : List Touched) (c : Cursor) :
    ∃ o b, ((c.mark touched).release touched).lagTest e = c.reached touched o b ∧
      Overtakes (compareTime c) touched c.overtaken o ∧ LagTested e.history.records e.clock.instant c b := by
  obtain ⟨o, ho, hov⟩ := mark_overtakes touched c
  obtain ⟨b, hb, ht⟩ := lagTest_after e ((c.mark touched).release touched)
  rw [hb]
  rw [ho, release_eq] at ht ⊢
  exact ⟨o, b, rfl, hov, ht⟩

/-! ### The probe that a commit restarts (R158) -/

/-- R158: a commit touches a probe: a touched record of its point has a touched time at or before its instant. -/
def TouchesProbe (touched : List Touched) (q : Probe) : Prop :=
  ∃ y ∈ touched, y.point = q.point ∧ ∃ z ∈ y.times, z ≤ q.instant

/-- R158: the queue of probes after a commit: one that computes is restarted where the commit touches it. -/
def ProbesAfter (t : CheckpointTable) (touched : List Touched) (ps qs : List Probe) : Prop :=
  (ps = [] → qs = []) ∧
    ∀ (q : Probe) (rest : List Probe), ps = q :: rest →
      (∀ w, q.work = some w → TouchesProbe touched q →
        ∃ v, qs = { q with work := some v } :: rest ∧ v.lastRead = none ∧ v.answer.quality = none ∧
          v.chosen = (t.choose q.instant).1.map Checkpoint.instant) ∧
      ((q.work = none ∨ ¬TouchesProbe touched q) → qs = ps)

theorem probeTouched_iff (touched : List Touched) {c : Cursor} {q : Probe} {rest : List Probe} (h : c.probes = q :: rest) :
    probeTouched touched c = true ↔ (∃ w, q.work = some w) ∧ TouchesProbe touched q := by
  unfold probeTouched
  rw [h]
  simp only [Bool.and_eq_true, Option.isSome_iff_exists, List.any_eq_true, behind_isEmpty, beq_iff_eq,
    decide_eq_true_eq, TouchesProbe]

theorem beginProbe_cursor (e : Env) {l : Live} {k : Slot} {c : Cursor} (h : l.cursor k = some c) {q : Probe}
    {rest : List Probe} (hp : c.probes = q :: rest) :
    beginProbe e k l =
      ({ l with checkpoints := (l.checkpoints.choose q.instant).2 } : Live).setCursor k
        { c with probes := { q with work := some (probeStart e q.point (l.checkpoints.choose q.instant).1) } :: rest } := by
  unfold beginProbe
  rw [withCursor_some _ h, hp]

theorem beginProbe_stamps (e : Env) (k : Slot) (l : Live) :
    SameButStamps l.checkpoints (beginProbe e k l).checkpoints := by
  unfold beginProbe Live.withCursor
  split
  · exact SameButStamps.refl _
  · dsimp only
    split
    · exact SameButStamps.refl _
    · exact choose_sameButStamps _ _

theorem beginProbe_ports (e : Env) (k : Slot) (l : Live) : (beginProbe e k l).ports = l.ports := by
  unfold beginProbe Live.withCursor
  split
  · rfl
  · dsimp only
    split <;> rfl

theorem beginProbe_local (e : Env) (k : Slot) (p : PortId) (l : Live) : Local k p l (beginProbe e k l) := by
  refine Local.withCursor fun c _ => ?_
  split
  · exact Local.refl _ _ _
  · exact (Local.checkpoints k p l _).trans (Local.setCursor k p _ _)

/-- R158: the live part after the restart of a cursor's probe, where the commit calls for it. -/
def restarted (e : Env) (touched : List Touched) (k : Slot) (c : Cursor) (l : Live) : Live :=
  if probeTouched touched c then beginProbe e k l else l

theorem restarted_stamps (e : Env) (touched : List Touched) (k : Slot) (c : Cursor) (l : Live) :
    SameButStamps l.checkpoints (restarted e touched k c l).checkpoints := by
  unfold restarted
  split_ifs
  · exact beginProbe_stamps e k l
  · exact SameButStamps.refl _

theorem restarted_ports (e : Env) (touched : List Touched) (k : Slot) (c : Cursor) (l : Live) :
    (restarted e touched k c l).ports = l.ports := by
  unfold restarted
  split_ifs
  · exact beginProbe_ports e k l
  · rfl

theorem restarted_local (e : Env) (touched : List Touched) (k : Slot) (c : Cursor) (p : PortId) (l : Live) :
    Local k p l (restarted e touched k c l) := by
  unfold restarted
  split_ifs
  · exact beginProbe_local e k p l
  · exact Local.refl _ _ _

/-- R158: the queue of probes after the restart. -/
theorem restarted_probes (e : Env) (touched : List Touched) {l : Live} {k : Slot} {c x : Cursor}
    (h : l.cursor k = some x) (hp : x.probes = c.probes) {t : CheckpointTable} (ht : SameButStamps l.checkpoints t) :
    ∃ qs, (restarted e touched k c l).cursor k = some { x with probes := qs } ∧ ProbesAfter t touched c.probes qs := by
  unfold restarted
  cases hc : c.probes with
  | nil =>
    have hn : probeTouched touched c = false := by
      unfold probeTouched
      rw [hc]
    refine ⟨[], ?_, fun _ => rfl, fun _ _ e => nomatch e⟩
    rw [hn, if_neg (by simp), h, ← hc, ← hp]
  | cons q rest =>
    by_cases ht' : probeTouched touched c = true
    · obtain ⟨⟨w, hw⟩, hq⟩ := (probeTouched_iff touched hc).1 ht'
      rw [if_pos ht', beginProbe_cursor e h (hp.trans hc), cursor_setCursor_same]
      refine ⟨_, rfl, List.cons_ne_nil _ _ |>.elim, fun q' rest' e => ?_⟩
      obtain ⟨rfl, rfl⟩ := List.cons.inj e
      exact ⟨fun _ _ _ => ⟨_, rfl, rfl, rfl, (ht.choose q.instant).1.symm⟩,
        fun hn => hn.elim (fun hn => nomatch hn.symm.trans hw) fun hn => absurd hq hn⟩
    · rw [if_neg ht', h]
      refine ⟨q :: rest, by rw [← hc, ← hp], List.cons_ne_nil _ _ |>.elim, fun q' rest' e => ?_⟩
      obtain ⟨rfl, rfl⟩ := List.cons.inj e
      exact ⟨fun w hw hq => absurd ((probeTouched_iff touched hc).2 ⟨⟨w, hw⟩, hq⟩) ht', fun _ => rfl⟩

/-- R158: no touched time of the probe's point at or before its instant. -/
theorem not_touchesProbe {touched : List Touched} {q : Probe}
    (h : ∀ y ∈ touched, y.point = q.point → ∀ z ∈ y.times, q.instant < z) : ¬TouchesProbe touched q :=
  fun ⟨y, hy, hp, z, hz, hle⟩ => absurd hle (not_le.2 (h y hy hp z hz))

/-- A queue that holds a probe holds one after the commit. -/
theorem ProbesAfter.ne_nil {t : CheckpointTable} {touched : List Touched} {ps qs : List Probe}
    (h : ProbesAfter t touched ps qs) (hp : ps ≠ []) : qs ≠ [] := by
  obtain ⟨q, rest, rfl⟩ := List.exists_cons_of_ne_nil hp
  obtain ⟨h1, h2⟩ := h.2 q rest rfl
  by_cases hw : q.work = none ∨ ¬TouchesProbe touched q
  · rw [h2 hw]
    exact hp
  · obtain ⟨hw1, hw2⟩ := not_or.1 hw
    obtain ⟨w, hw⟩ := Option.ne_none_iff_exists'.1 hw1
    obtain ⟨v, hv, -⟩ := h1 w hw (not_not.1 hw2)
    rw [hv]
    exact List.cons_ne_nil _ _

/-! ### The boundary that follows (R114) -/

/-- R114: nothing happens at a boundary that is none, or that nothing stands against. -/
theorem atBoundary_still (e : Env) {l : Live} {k : Slot} {c : Cursor} (h : l.cursor k = some c)
    (hn : c.state ≠ .running ∨ c.op ≠ .none ∨
      c.probes = [] ∧ (c.redo = true ∨
        ¬(c.pendingHold ≠ none ∨ c.underStep = true ∧ c.stepsLeft = 0) ∧ c.overtaken = none)) :
    atBoundary e k l = l := by
  unfold atBoundary
  rw [withCursor_some _ h]
  split_ifs with h1 h2 h3 h4 h5
  · rfl
  · obtain ⟨hp, -⟩ := (hn.resolve_left fun g => h1 (.inl g)).resolve_left fun g => h1 (.inr g)
    exact absurd hp h2
  · rfl
  · obtain ⟨-, hr⟩ := (hn.resolve_left fun g => h1 (.inl g)).resolve_left fun g => h1 (.inr g)
    exact absurd (by rwa [Option.isSome_iff_ne_none] at h4) (hr.resolve_left h3).1
  · obtain ⟨-, hr⟩ := (hn.resolve_left fun g => h1 (.inl g)).resolve_left fun g => h1 (.inr g)
    rw [(hr.resolve_left h3).2] at h5
    cases h5
  · rfl

/-- R156, R157: at a boundary with a probe queued, the front probe begins or goes on. -/
theorem atBoundary_probes (e : Env) {l : Live} {k : Slot} {c : Cursor} (h : l.cursor k = some c)
    (hr : c.state = .running) (ho : c.op = .none) (hp : c.probes ≠ []) : atBoundary e k l = kickProbe e k l := by
  unfold atBoundary
  rw [withCursor_some _ h, if_neg (by simp [hr, ho]), if_pos hp]

/-- A probe that computes is left to go on. -/
theorem kickProbe_computing (e : Env) {l : Live} {k : Slot} {c : Cursor} (h : l.cursor k = some c) {q : Probe}
    {rest : List Probe} (hp : c.probes = q :: rest) (hw : q.work ≠ none) : kickProbe e k l = l := by
  unfold kickProbe
  rw [withCursor_some _ h, hp]
  simp [hw]

/-- What no boundary changes of a cursor. -/
def SameSetting (c d : Cursor) : Prop :=
  d.owner = c.owner ∧ d.options = c.options ∧ d.watches = c.watches ∧ d.instant = c.instant ∧
    d.armedFrom = c.armedFrom ∧ d.snap = c.snap

theorem atBoundary_setting (e : Env) {l : Live} {k : Slot} {c : Cursor} (h : l.cursor k = some c) :
    ∃ d, (atBoundary e k l).cursor k = some d ∧ SameSetting c d := by
  unfold atBoundary
  rw [withCursor_some _ h]
  have same : ∃ d, l.cursor k = some d ∧ SameSetting c d := ⟨c, h, rfl, rfl, rfl, rfl, rfl, rfl⟩
  split_ifs
  · exact same
  · obtain ⟨ps, hps, -⟩ := kickProbe_cursor e h c.owner
    exact ⟨_, hps, rfl, rfl, rfl, rfl, rfl, rfl⟩
  · exact same
  · unfold becomeHeld
    rw [modify_some _ h]
    obtain ⟨b, hb, -⟩ := flush_cursor (cursor_setCursor_same l k
      { c.leaveRunning with state := .held, op := .none, pendingHold := none, chain := false })
    exact ⟨_, hb, rfl, rfl, rfl, rfl, rfl, rfl⟩
  · unfold startRebase
    rw [withCursor_some _ h, startRebuild_eq e h]
    obtain ⟨b, hb⟩ := lagTest_eq e
      (c.startRebuild .rebase (c.instant.getD 0) (l.checkpoints.choose (c.instant.getD 0)).1)
    rw [hb]
    exact ⟨_, cursor_setCursor_same _ _ _, rfl, rfl, rfl, rfl, rfl, rfl⟩
  · exact same

/-- The boundary of a state may be told on one whose checkpoints differ in stamps alone. -/
theorem AtBoundary.of_stamps {s t : State} {c d : Cursor} (h : AtBoundary s c d) (he : t.env = s.env)
    (hs : SameButStamps s.live.checkpoints t.live.checkpoints) : AtBoundary t c d := by
  have hh : t.history = s.history := congrArg Env.history he
  have hk : t.clock = s.clock := congrArg Env.clock he
  obtain ⟨h1, h2, h3, h4, h5⟩ := h
  refine ⟨h1, h2, h3, h4, fun hr hn ho => ?_⟩
  obtain ⟨g1, g2, g3, g4, g5⟩ := h5 hr hn ho
  rw [hh, hk]
  exact ⟨g1, g2, g3, hs.rebuildBegun.2 g4, g5⟩

/-! ### One cursor (R22, R114, R117, R158, R170) -/

theorem SameButStamps.symm {t u : CheckpointTable} (h : SameButStamps t u) : SameButStamps u t := fun i => by rw [h i]

section
variable {t : State} {touched : List Touched} {n : Live} {k : Slot} {c : Cursor} {o : Option Overtake} {b : Bool}
  {qs : List Probe}

/-- A cursor at no step boundary is marked, released and tested, and its probe restarted. -/
theorem afterCommit_elsewhere (hn : n.cursor k = some { c.reached touched o b with probes := qs })
    (hov : Overtakes (compareTime c) touched c.overtaken o) (hlag : LagTested t.history.records t.clock.instant c b)
    (hqs : ProbesAfter t.live.checkpoints touched c.probes qs) (hb : c.state ≠ .running ∨ c.op ≠ .none) :
    ∃ d, (atBoundary t.env k n).cursor k = some d ∧ AfterCommit t touched c d := by
  rw [atBoundary_still t.env hn (hb.imp_right .inl)]
  refine ⟨_, hn, o, hov, rfl, rfl, rfl, rfl, rfl, rfl, fun _ => ⟨hlag, rfl⟩,
    fun hr ho => absurd hb (by simp [hr, ho]), hqs.1, fun q rest hq => ?_⟩
  obtain ⟨h1, h2⟩ := hqs.2 q rest hq
  exact ⟨h1, fun w _ hnt => h2 (.inr (not_touchesProbe hnt)), fun hw _ => h2 (.inl hw)⟩

/-- R114: a RUNNING cursor at a step boundary with no probe queued takes the boundary. -/
theorem afterCommit_boundary (hn : n.cursor k = some { c.reached touched o b with probes := qs })
    (hs : SameButStamps n.checkpoints t.live.checkpoints)
    (hov : Overtakes (compareTime c) touched c.overtaken o) (hlag : LagTested t.history.records t.clock.instant c b)
    (hqs : ProbesAfter t.live.checkpoints touched c.probes qs) (hr : c.state = .running) (ho : c.op = .none)
    (hp : c.probes = []) : ∃ d, (atBoundary t.env k n).cursor k = some d ∧ AfterCommit t touched c d := by
  obtain rfl := hqs.1 hp
  obtain ⟨d, hd, hB⟩ := atBoundary_spec (s := t.withLive n) hn rfl hr ho rfl
  obtain ⟨d', hd', s1, s2, s3, s4, s5, s6⟩ := atBoundary_setting t.env hn
  obtain rfl : d = d' := Option.some.inj (hd.symm.trans hd')
  have hbound : AtBoundary t { c with overtaken := o, lagging := b } d := AtBoundary.of_stamps (s := t.withLive n) hB rfl hs
  refine ⟨d, hd, o, hov, s1, s2, s3, s4, s5, s6, fun hq => ?_, fun _ _ _ => ⟨b, hlag, hbound⟩, fun _ => hbound.1,
    fun q rest e => absurd (hp.symm.trans e).symm (List.cons_ne_nil _ _)⟩
  have quiet := ((hq.resolve_left (not_not.2 hr)).resolve_left (not_not.2 ho)).resolve_left (not_not.2 hp)
  have still : atBoundary t.env k n = n := atBoundary_still t.env hn (.inr (.inr ⟨rfl, quiet⟩))
  have hd : n.cursor k = some d := by rw [← still]; exact hd
  obtain rfl : _ = d := Option.some.inj (hn.symm.trans hd)
  exact ⟨hlag, rfl⟩

/-- R156, R157: a RUNNING cursor with a probe queued waits for it. -/
theorem afterCommit_probing (hn : n.cursor k = some { c.reached touched o b with probes := qs })
    (hov : Overtakes (compareTime c) touched c.overtaken o) (hlag : LagTested t.history.records t.clock.instant c b)
    (hqs : ProbesAfter t.live.checkpoints touched c.probes qs) (hr : c.state = .running) (ho : c.op = .none)
    (hp : c.probes ≠ []) : ∃ d, (atBoundary t.env k n).cursor k = some d ∧ AfterCommit t touched c d := by
  rw [atBoundary_probes t.env hn hr ho (hqs.ne_nil hp)]
  obtain ⟨ps, hps, -⟩ := kickProbe_cursor t.env hn c.owner
  have computing : ∀ q rest, qs = q :: rest → q.work ≠ none → ps = qs := fun q rest he hw => by
    rw [kickProbe_computing t.env hn he hw, hn] at hps
    exact (congrArg Cursor.probes (Option.some.inj hps)).symm
  refine ⟨_, hps, o, hov, rfl, rfl, rfl, rfl, rfl, rfl, fun _ => ⟨hlag, rfl⟩, fun _ _ e => absurd e hp,
    fun e => absurd e hp, fun q rest he => ?_⟩
  obtain ⟨h1, h2⟩ := hqs.2 q rest he
  refine ⟨fun w hw ht => ?_, fun w hw hnt => ?_, fun _ hb => absurd hb (by simp [hr, ho])⟩
  · obtain ⟨v, hv, hrest⟩ := h1 w hw ht
    exact ⟨v, (computing _ _ hv (by simp)).trans hv, hrest⟩
  · have hq := h2 (.inr (not_touchesProbe hnt))
    exact (computing _ _ (hq.trans he) (by simp [hw])).trans hq

end

/-- R22, R114, R117, R158, R170: a commit at one open cursor. -/
theorem commitReaches_eq (e : Env) (touched : List Touched) {l : Live} {k : Slot} {c : Cursor}
    (h : l.cursor k = some c) :
    commitReaches e touched k l =
      atBoundary e k
        (restarted e touched k c (l.setCursor k (((c.mark touched).release touched).lagTest e))) := by
  unfold commitReaches
  rw [withCursor_some _ h]
  rfl

/-- R22, R114, R117, R158, R170: what a commit makes of one cursor, as the statement says it. -/
theorem commitReaches_afterCommit {t : State} (touched : List Touched) {l : Live} {k : Slot} {c : Cursor}
    (h : l.cursor k = some c) (hs : SameButStamps l.checkpoints t.live.checkpoints) :
    ∃ d, (commitReaches t.env touched k l).cursor k = some d ∧ AfterCommit t touched c d := by
  obtain ⟨o, b, hx, hov, hlag⟩ := marked_eq t.env touched c
  rw [commitReaches_eq t.env touched h, hx]
  obtain ⟨qs, hn, hqs⟩ := restarted_probes t.env touched (c := c)
    (cursor_setCursor_same l k (c.reached touched o b)) rfl hs
  have hns := (restarted_stamps t.env touched k c (l.setCursor k (c.reached touched o b))).symm.trans hs
  by_cases hb : c.state ≠ .running ∨ c.op ≠ .none
  · exact afterCommit_elsewhere hn hov hlag hqs hb
  · obtain ⟨hr, ho⟩ := not_or.1 hb
    rw [not_not] at hr ho
    by_cases hp : c.probes = []
    · exact afterCommit_boundary hn hns hov hlag hqs hr ho hp
    · exact afterCommit_probing hn hov hlag hqs hr ho hp

end Sys2Proof.Machine
end

section
/-!
PROOF. What a commit does to all cursors together, the notices the ports take of it, and the commit of a segment as a whole
(R12, R20 to R22, R66 to R68, R71, R75 to R77, R85 to R88).
-/

namespace Sys2Proof.Machine

open Sys2Proof

/-! ### Notices of completed batches (R134, R135) -/

/-- From `l` to `m` each port takes BATCH_READY notices alone, and none unless `owns` holds of it. -/
def BatchesTold (owns : PortId → Prop) (l m : Live) : Prop :=
  ∀ q : PortId, ∃ ns : List Notice,
    m.port q = (l.port q).takes ns ∧ (∀ n ∈ ns, n.kind = .batchReady) ∧ (¬owns q → ns = [])

theorem BatchesTold.of_ports {owns : PortId → Prop} {l m : Live} (h : m.ports = l.ports) : BatchesTold owns l m :=
  fun q => ⟨[], by rw [takes_nil, Live.port, h]; rfl, by simp, fun _ => rfl⟩

theorem BatchesTold.trans {owns : PortId → Prop} {a b c : Live} (h : BatchesTold owns a b) (g : BatchesTold owns b c) :
    BatchesTold owns a c := fun q => by
  obtain ⟨ns, h1, h2, h3⟩ := h q
  obtain ⟨ms, g1, g2, g3⟩ := g q
  refine ⟨ns ++ ms, by rw [g1, h1, takes_append], fun n hn => ?_, fun hq => by rw [h3 hq, g3 hq]; rfl⟩
  exact (List.mem_append.1 hn).elim (h2 n) (g2 n)

theorem BatchesTold.mono {owns more : PortId → Prop} {l m : Live} (h : BatchesTold owns l m)
    (hm : ∀ q, owns q → more q) : BatchesTold more l m := fun q => by
  obtain ⟨ns, h1, h2, h3⟩ := h q
  exact ⟨ns, h1, h2, fun hq => h3 fun g => hq (hm q g)⟩

/-- R134: a flush tells the cursor's owner of the batch it completes. -/
theorem flush_told {l : Live} {k : Slot} {c : Cursor} (h : l.cursor k = some c) :
    BatchesTold (· = c.owner) l (flush k l) := fun q => by
  by_cases hq : q = c.owner
  · subst hq
    refine ⟨_, (flush_flushed h).2.1, fun n hn => ?_, fun g => absurd rfl g⟩
    unfold Buffer.flushTold at hn
    by_cases hw : c.options.mode = .notice ∧ c.buffer.writing ≠ []
    · rw [if_pos hw] at hn
      rw [List.mem_singleton.1 hn]
      rfl
    · rw [if_neg hw] at hn
      cases hn
  · have hl : Local k c.owner l (flush k l) := flush_local fun d hd => by rw [Option.some.inj (h.symm.trans hd)]
    exact ⟨[], hl.2 q hq, by simp, fun _ => rfl⟩

theorem startRebase_ports (e : Env) {l : Live} {k : Slot} {c : Cursor} (h : l.cursor k = some c) :
    (startRebase e k l).ports = l.ports := by
  unfold startRebase
  rw [withCursor_some _ h, startRebuild_eq e h]
  rfl

theorem atBoundary_told (e : Env) {l : Live} {k : Slot} {c : Cursor} (h : l.cursor k = some c) :
    BatchesTold (· = c.owner) l (atBoundary e k l) := by
  unfold atBoundary
  rw [withCursor_some _ h]
  have same : BatchesTold (· = c.owner) l l := BatchesTold.of_ports rfl
  split_ifs
  · exact same
  · obtain ⟨_, _, _, hports, _⟩ := kickProbe_cursor e h c.owner
    exact BatchesTold.of_ports hports
  · exact same
  · unfold becomeHeld
    rw [modify_some _ h]
    have told := flush_told (cursor_setCursor_same l k
      { c.leaveRunning with state := .held, op := .none, pendingHold := none, chain := false })
    exact (BatchesTold.of_ports rfl).trans told
  · exact BatchesTold.of_ports (startRebase_ports e h)
  · exact same

/-! ### The checkpoints at a boundary (R84, R97, R114) -/

theorem kickProbe_stamps (e : Env) (k : Slot) (l : Live) :
    SameButStamps l.checkpoints (kickProbe e k l).checkpoints := by
  unfold kickProbe Live.withCursor
  split
  · exact SameButStamps.refl _
  · dsimp only
    split
    · exact SameButStamps.refl _
    · split_ifs
      · exact beginProbe_stamps e k l
      · exact SameButStamps.refl _

theorem atBoundary_stamps (e : Env) {l : Live} {k : Slot} {c : Cursor} (h : l.cursor k = some c) :
    SameButStamps l.checkpoints (atBoundary e k l).checkpoints := by
  unfold atBoundary
  rw [withCursor_some _ h]
  split_ifs
  · exact SameButStamps.refl _
  · exact kickProbe_stamps e k l
  · exact SameButStamps.refl _
  · unfold becomeHeld
    rw [flush_checkpoints, modify_some _ h]
    exact SameButStamps.refl _
  · unfold startRebase
    rw [withCursor_some _ h]
    exact startRebuild_stamps e k .rebase _ l
  · exact SameButStamps.refl _

/-! ### A commit at one slot and at all -/

theorem commitReaches_free (e : Env) (touched : List Touched) {l : Live} {k : Slot} (h : l.cursor k = none) :
    commitReaches e touched k l = l := withCursor_none _ h

/-- The cursor of a slot once the commit has restarted its probe, still with its owner. -/
theorem restarted_cursor (e : Env) (touched : List Touched) (l : Live) (k : Slot) (c : Cursor) :
    ∃ x, (restarted e touched k c (l.setCursor k (((c.mark touched).release touched).lagTest e))).cursor k = some x ∧
      x.owner = c.owner := by
  obtain ⟨o, b, hx, -⟩ := marked_eq e touched c
  rw [hx]
  obtain ⟨qs, hn, -⟩ := restarted_probes e touched (c := c) (cursor_setCursor_same l k (c.reached touched o b)) rfl
    (SameButStamps.refl _)
  exact ⟨_, hn, rfl⟩

/-- A commit at one slot: the other cursors stand, the checkpoints change in stamps alone, and its owner alone is told. -/
theorem commitReaches_slot (e : Env) (touched : List Touched) {l : Live} {k : Slot} {c : Cursor}
    (h : l.cursor k = some c) :
    (∀ j : Slot, j ≠ k → (commitReaches e touched k l).cursor j = l.cursor j) ∧
      SameButStamps l.checkpoints (commitReaches e touched k l).checkpoints ∧
      BatchesTold (· = c.owner) l (commitReaches e touched k l) := by
  obtain ⟨x, hx, ho⟩ := restarted_cursor e touched l k c
  rw [commitReaches_eq e touched h]
  generalize hm : l.setCursor k (((c.mark touched).release touched).lagTest e) = m at hx
  have hlocal : Local k c.owner l (restarted e touched k c m) :=
    hm ▸ (Local.setCursor k c.owner l _).trans (restarted_local e touched k c c.owner _)
  have hports : (restarted e touched k c m).ports = l.ports := by rw [restarted_ports, ← hm]; rfl
  have hstamps : SameButStamps l.checkpoints (restarted e touched k c m).checkpoints :=
    hm ▸ restarted_stamps e touched k c (l.setCursor k _)
  refine ⟨fun j hj => ?_, hstamps.trans (atBoundary_stamps e hx), ?_⟩
  · exact ((atBoundary_local e hx).1 j hj).trans (hlocal.1 j hj)
  · exact (BatchesTold.of_ports hports).trans (ho ▸ atBoundary_told e hx)

/-- A port owns an open cursor. -/
def Owns (l : Live) (q : PortId) : Prop := ∃ k c, l.cursor k = some c ∧ c.owner = q

theorem Owns.of_grows {l m : Live} (h : Grows l m) {q : PortId} : Owns m q → Owns l q := by
  rintro ⟨k, d, hd, rfl⟩
  cases hc : l.cursor k with
  | none => exact nomatch (h.free hc).symm.trans hd
  | some c => exact ⟨k, c, hc, (owner_of_grows h hc hd).symm⟩

/-- A commit at several slots, one after the other: each open cursor among them is reached as it stood. -/
theorem foldl_commitReaches (e : Env) (touched : List Touched) {order : List Slot} (hnd : order.Nodup) (l : Live) :
    let r := order.foldl (fun m k => commitReaches e touched k m) l
    SameButStamps l.checkpoints r.checkpoints ∧ BatchesTold (Owns l) l r ∧
      (∀ j, j ∉ order → r.cursor j = l.cursor j) ∧
      ∀ j c, j ∈ order → l.cursor j = some c →
        ∃ m : Live, m.cursor j = some c ∧ SameButStamps l.checkpoints m.checkpoints ∧
          r.cursor j = (commitReaches e touched j m).cursor j := by
  induction order generalizing l with
  | nil =>
    exact ⟨SameButStamps.refl _, BatchesTold.of_ports rfl, fun _ _ => rfl, fun _ _ h => absurd h List.not_mem_nil⟩
  | cons k ks ih =>
    obtain ⟨hk, hks⟩ := List.nodup_cons.1 hnd
    obtain ⟨h1, h2, h3, h4⟩ := ih hks (commitReaches e touched k l)
    have first : (∀ j : Slot, j ≠ k → (commitReaches e touched k l).cursor j = l.cursor j) ∧
        SameButStamps l.checkpoints (commitReaches e touched k l).checkpoints ∧
        BatchesTold (Owns l) l (commitReaches e touched k l) := by
      cases hc : l.cursor k with
      | none =>
        rw [commitReaches_free e touched hc]
        exact ⟨fun _ _ => rfl, SameButStamps.refl _, BatchesTold.of_ports rfl⟩
      | some c =>
        obtain ⟨g1, g2, g3⟩ := commitReaches_slot e touched hc
        exact ⟨g1, g2, g3.mono fun q hq => ⟨k, c, hc, hq.symm⟩⟩
    obtain ⟨g1, g2, g3⟩ := first
    refine ⟨g2.trans h1, g3.trans (h2.mono fun q => Owns.of_grows (commitReaches_grows e touched k l)), fun j hj => ?_,
      fun j c hj hc => ?_⟩
    · obtain ⟨hne, hj⟩ := not_or.1 (mt List.mem_cons.2 hj)
      exact (h3 j hj).trans (g1 j hne)
    · by_cases hjk : j = k
      · subst hjk
        exact ⟨l, hc, SameButStamps.refl _, h3 j hk⟩
      · obtain ⟨m, m1, m2, m3⟩ := h4 j c ((List.mem_cons.1 hj).resolve_left hjk) ((g1 j hjk).trans hc)
        exact ⟨m, m1, g2.trans m2, m3⟩

/-- A free order takes each slot of a list once (log 5). -/
theorem inFreeOrder_eq (ks : List Slot) (f : Slot → Live → Live) (l : Live) :
    ∃ (order : List Slot) (n : Nat), order.Perm ks ∧
      inFreeOrder ks f l = order.foldl (fun m k => f k m) { l with draws := n } := by
  unfold inFreeOrder
  split
  · exact ⟨[], l.draws, List.Perm.refl _, rfl⟩
  · exact ⟨_, l.draws, List.Perm.refl _, rfl⟩
  · exact ⟨_, l.draws + 1, reorder_perm _ _, rfl⟩

theorem mem_slotsWhere {l : Live} {k : Slot} {c : Cursor} (h : l.cursor k = some c) (test : Cursor → Bool) :
    k ∈ l.slotsWhere test ↔ test c = true := by
  have hk : k ∈ allSlots := by fin_cases k <;> decide
  simp [Live.slotsWhere, hk, h]

theorem slotsWhere_nodup (l : Live) (test : Cursor → Bool) : (l.slotsWhere test).Nodup :=
  List.Nodup.filter _ (by decide)

/-- R22, R84, R134: a commit at all cursors. -/
theorem commitReachesAll_reaches (e : Env) (touched : List Touched) (l : Live) :
    let r := commitReachesAll e touched l
    SameButStamps l.checkpoints r.checkpoints ∧ BatchesTold (Owns l) l r ∧
      ∀ j c, l.cursor j = some c →
        ∃ m : Live, m.cursor j = some c ∧ SameButStamps l.checkpoints m.checkpoints ∧
          r.cursor j = (commitReaches e touched j m).cursor j := by
  obtain ⟨order, n, hp, hr⟩ := inFreeOrder_eq (l.slotsWhere fun _ => true) (commitReaches e touched) l
  dsimp only
  rw [commitReachesAll, hr]
  obtain ⟨h1, h2, -, h4⟩ := foldl_commitReaches e touched (hp.nodup_iff.2 (slotsWhere_nodup l _)) { l with draws := n }
  exact ⟨h1, h2, fun j c hc => h4 j c (hp.mem_iff.2 ((mem_slotsWhere hc _).2 rfl)) hc⟩

/-! ### The hand-out of a commit (R21, R22, R88) -/

/-- R88: what a reach leaves valid. -/
theorem invalidate_valid (t : CheckpointTable) (reach : Option Nat) (i : CkptId) :
    ((t.invalidate reach).entries.get i).valid = true ↔
      (t.entries.get i).valid = true ∧ ∀ r ∈ reach, (t.entries.get i).instant < r := by
  unfold CheckpointTable.invalidate
  cases reach <;> simp

theorem handOut_valid (reach : Option Nat) (touched : List Touched) (s : State) (i : CkptId) :
    ((handOut reach touched s).live.checkpoints.entries.get i).valid = true ↔
      (s.live.checkpoints.entries.get i).valid = true ∧
        ∀ r ∈ reach, (s.live.checkpoints.entries.get i).instant < r := by
  have h := (commitReachesAll_reaches s.env touched
    { s.live with checkpoints := s.live.checkpoints.invalidate reach }).1 i
  rw [← invalidate_valid]
  show ((commitReachesAll s.env touched _).checkpoints.entries.get i).valid = true ↔ _
  rw [h]

theorem handOut_told (reach : Option Nat) (touched : List Touched) (s : State) :
    BatchesTold (Owns s.live) s.live (handOut reach touched s).live :=
  (commitReachesAll_reaches s.env touched { s.live with checkpoints := s.live.checkpoints.invalidate reach }).2.1

/-- R22: each open cursor after the hand-out, as the statement says it. -/
theorem handOut_afterCommit (reach : Option Nat) (touched : List Touched) {s : State} {k : Slot} {c : Cursor}
    (h : s.live.cursor k = some c) :
    ∃ d, (handOut reach touched s).live.cursor k = some d ∧ AfterCommit (handOut reach touched s) touched c d := by
  obtain ⟨hall, -, hone⟩ := commitReachesAll_reaches s.env touched
    { s.live with checkpoints := s.live.checkpoints.invalidate reach }
  obtain ⟨m, hm, hstamps, hr⟩ := hone k c h
  obtain ⟨d, hd, hafter⟩ := commitReaches_afterCommit (t := handOut reach touched s) touched hm (hstamps.symm.trans hall)
  exact ⟨d, hr.trans hd, hafter⟩

/-! ### The commit of a segment (R12, R68) -/

/-- R12, R68, R71: the state of a commit before its hand-out. -/
def committed (g : QueuedSegment) (x : Proc) (s : State) : State :=
  let acc := takeCandidates s.tables.study.window s.history x.staged
  finishInProgress g .committed acc.committed acc.corroborated none (commitRaised x acc)
    (installCommit g.recorder x acc s)

theorem commitSegment_eq (g : QueuedSegment) (x : Proc) (s : State) :
    let acc := takeCandidates s.tables.study.window s.history x.staged
    commitSegment g x s =
      handOut (commitReach acc.touched (gapStarts (applyGaps s.gaps x.gapChanges) x.gapChanges)) acc.touched
        (committed g x s) := rfl

/-- R17, R75: the causes of a commit. -/
theorem commitRaised_holds (x : Proc) (acc : CommitAcc) (c : Cause) :
    (commitRaised x acc).holds c = true ↔ x.raised.holds c = true ∨ c = .corrobFull ∧ acc.full ≠ [] := by
  unfold commitRaised
  split_ifs with h
  · simp [h]
  · rw [holds_or, Bool.or_eq_true, holds_set]
    simp [h]

theorem or_commitRaised (a : CauseSet) (x : Proc) (acc : CommitAcc) :
    a ||| commitRaised x acc = a ||| x.raised ||| (if acc.full = [] then 0 else Cause.corrobFull.set) := by
  unfold commitRaised
  split_ifs
  · exact (BitVec.or_zero).symm
  · exact (BitVec.or_assoc _ _ _).symm

/-- R12, R66, R75: the contexts after a commit: the segment's recorder takes the timing and the causes. -/
theorem committed_context (g : QueuedSegment) (x : Proc) (s : State) :
    let acc := takeCandidates s.tables.study.window s.history x.staged
    (committed g x s).contexts.get g.recorder =
        Context.merge { s.contexts.get g.recorder with timing := x.timing } (commitRaised x acc) ∧
      ∀ r : RecId, r ≠ g.recorder → (committed g x s).contexts.get r = s.contexts.get r := by
  refine ⟨?_, fun r hr => ?_⟩
  · refine (finishInProgress_context _ _ _ _ _ _ _ _).trans ?_
    rw [if_pos rfl, installCommit, vput_get_same]
  · refine (finishInProgress_context _ _ _ _ _ _ _ _).trans ?_
    rw [if_neg (Ne.symm hr), installCommit, vput_get_ne _ _ (Ne.symm hr)]

/-- R71, R77: the notices of a commit before its hand-out. -/
theorem committed_port (g : QueuedSegment) (x : Proc) (s : State) (q : PortId) :
    let acc := takeCandidates s.tables.study.window s.history x.staged
    (committed g x s).live.port q =
      (s.live.port q).takes
        (segmentTold g .committed acc.committed acc.corroborated none q (s.live.port q).subs ++
          risen g.recorder (s.contexts.get g.recorder) ((committed g x s).contexts.get g.recorder)
            (s.live.port q).subs) := by
  dsimp only
  rw [(committed_context g x s).1]
  refine (finishInProgress_port _ _ _ _ _ _ _ q).trans ?_
  rw [installCommit, vput_get_same]
  rfl

theorem committed_cursor (g : QueuedSegment) (x : Proc) (s : State) (k : Slot) :
    (committed g x s).live.cursor k = s.live.cursor k :=
  congrArg (·.get k) (finishInProgress_cursors _ _ _ _ _ _ _).1

theorem committed_checkpoints (g : QueuedSegment) (x : Proc) (s : State) :
    (committed g x s).live.checkpoints = s.live.checkpoints := (finishInProgress_cursors _ _ _ _ _ _ _).2

/-- R20: the gap changes in order. -/
theorem applyGaps_snoc (gs : List Gap) (cs : List GapChange) (c : GapChange) :
    applyGaps gs (cs ++ [c]) = applyGap (applyGaps gs cs) c := by
  simp [applyGaps]

/-- R21: there is no reach exactly when nothing counts toward it. -/
theorem commitReach_none {touched : List Touched} {starts : List Nat} :
    commitReach touched starts = none ↔ touched.flatMap Touched.times ++ starts = [] := earliestOf_none

theorem commitReach_some {touched : List Touched} {starts : List Nat} {t : Nat} :
    commitReach touched starts = some t ↔
      t ∈ touched.flatMap Touched.times ++ starts ∧ ∀ x ∈ touched.flatMap Touched.times ++ starts, t ≤ x :=
  earliestOf_eq

/-- R12, R20 to R22, R68, R71, R75 to R77, R88: a commit that both checks pass, as the statement says it. -/
theorem commitSegment_installs (g : QueuedSegment) (x : Proc) (s : State) :
    let acc := takeCandidates s.tables.study.window s.history x.staged
    let t := commitSegment g x s
    t.history.records = acc.history.records ∧ t.history.commitCount = acc.history.commitCount ∧
      t.history.phase = s.history.phase ∧ t.history.greatest = greatestTime acc.history.records ∧
      t.gaps = applyGaps s.gaps x.gapChanges ∧
      (t.contexts.get g.recorder).timing = x.timing ∧
      (t.contexts.get g.recorder).flags =
        (s.contexts.get g.recorder).flags ||| x.raised ||| (if acc.full = [] then 0 else Cause.corrobFull.set) ∧
      Merged (s.contexts.get g.recorder) (t.contexts.get g.recorder)
        (fun c => x.raised.holds c = true ∨ c = .corrobFull ∧ acc.full ≠ []) ∧
      (∀ r : RecId, r ≠ g.recorder → t.contexts.get r = s.contexts.get r) ∧
      t.merge.queue = s.merge.queue.drop 1 ∧
      t.merge.work = (s.merge.queue.drop 1).head?.map (fun h => workOf (t.contexts.get h.recorder)) ∧
      (t.merge.finished.get g.port).getLast? =
        some { recorder := g.recorder, seq := g.seq, outcome := .committed } ∧
      (∀ i : CkptId, (t.live.checkpoints.entries.get i).valid = true ↔
        (s.live.checkpoints.entries.get i).valid = true ∧
          ∀ reach ∈ commitReach acc.touched (gapStarts (applyGaps s.gaps x.gapChanges) x.gapChanges),
            (s.live.checkpoints.entries.get i).instant < reach) ∧
      t.tables = s.tables ∧ t.clock = s.clock ∧ t.resetLow = s.resetLow ∧ t.pending = s.pending ∧
      (∀ q : PortId, ∃ ns : List Notice,
        t.live.port q =
          (s.live.port q).takes
            (segmentTold g .committed acc.committed acc.corroborated none q (s.live.port q).subs ++
              risen g.recorder (s.contexts.get g.recorder) (t.contexts.get g.recorder) (s.live.port q).subs ++ ns) ∧
        (∀ n ∈ ns, n.kind = .batchReady) ∧
        ((∀ (k : Slot) (c : Cursor), s.live.cursor k = some c → c.owner ≠ q) → ns = [])) ∧
      (∀ k : Slot, s.live.cursor k = none → t.live.cursor k = none) ∧
      ∀ (k : Slot) (c : Cursor), s.live.cursor k = some c →
        ∃ d, t.live.cursor k = some d ∧ AfterCommit t acc.touched c d := by
  dsimp only
  obtain ⟨hown, hothers⟩ := committed_context g x s
  have hmerge := finishInProgress_merge g .committed
    (takeCandidates s.tables.study.window s.history x.staged).committed
    (takeCandidates s.tables.study.window s.history x.staged).corroborated none
    (commitRaised x (takeCandidates s.tables.study.window s.history x.staged))
    (installCommit g.recorder x (takeCandidates s.tables.study.window s.history x.staged) s)
  have hport := committed_port g x s
  have hcur := committed_cursor g x s
  have hckpt := committed_checkpoints g x s
  have hphase := takeCandidates_phase s.tables.study.window s.history x.staged
  have hctx : (commitSegment g x s).contexts = (committed g x s).contexts := rfl
  obtain ⟨hq, hw, hf⟩ := hmerge
  rw [hctx]
  refine ⟨rfl, rfl, hphase, rfl, rfl, by rw [hown]; rfl, ?_, ?_, hothers, hq, hw, hf, fun i => ?_, rfl, rfl, rfl, rfl,
    fun q => ?_, fun k hk => ?_, fun k c hc => ?_⟩
  · rw [hown, ← or_commitRaised]
    rfl
  · rw [hown]
    obtain ⟨h1, h2, h3⟩ := merge_merged { s.contexts.get g.recorder with timing := x.timing }
      (commitRaised x (takeCandidates s.tables.study.window s.history x.staged))
    exact ⟨fun c => (h1 c).trans (or_congr_right (commitRaised_holds _ _ c)), h2, h3⟩
  · rw [commitSegment_eq, handOut_valid, hckpt]
  · obtain ⟨ns, h1, h2, h3⟩ := handOut_told
      (commitReach (takeCandidates s.tables.study.window s.history x.staged).touched
        (gapStarts (applyGaps s.gaps x.gapChanges) x.gapChanges))
      (takeCandidates s.tables.study.window s.history x.staged).touched (committed g x s) q
    refine ⟨ns, ?_, h2, fun hn => h3 fun ⟨k, c, hc, ho⟩ => hn k c ((hcur k).symm.trans hc) ho⟩
    rw [commitSegment_eq, h1, hport, takes_append _ (_ ++ _)]
  · exact (handOut_kept _ _ _).2.2.free ((hcur k).trans hk)
  · exact handOut_afterCommit _ _ ((hcur k).trans hc)

/-- Settles O25: the commit is the end of the segment in progress over the store it installs, then its hand-out to the
checkpoints and to each open cursor once. -/
theorem segmentCommitInstalls : Obligations.SegmentCommitInstalls := by
  unfold Obligations.SegmentCommitInstalls
  refine ⟨fun s g x hr hv hid hcap => ⟨_, ?_, commitSegment_installs g x s⟩, fun s g v => ⟨verdict_iff, rfl⟩,
    fun w c => ⟨rfl, rfl⟩, fun rs cs => ?_, fun touched starts => ⟨commitReach_none, fun t => commitReach_some⟩,
    fun gs cs c t => ⟨rfl, applyGaps_snoc gs cs c, mem_gapStarts⟩, fun rs => ⟨greatestTime_none, fun t => greatestTime_eq⟩⟩
  · rw [exec_segmentCommit hr hv, handOver_commits hid hcap]
  · dsimp only
    rw [identityFails_iff]
    simp only [Source.same_iff]

end Sys2Proof.Machine
end

section
/-!
PROOF. Every command completes, and the queue of commands is no command's to change (R31, R100, R176).
-/

namespace Sys2Proof.Machine

open Sys2Proof

theorem Kept.pending {s t : State} (h : Kept s t) : t.pending = s.pending := h.1

/-- A request whose rule leaves the queue of commands. -/
theorem takeRequest_pending {rule : List Byte → State → Response × State}
    (h : ∀ b u, (rule b u).2.pending = u.pending) (p : PortId) (code : Nat) (s : State) :
    (takeRequest p code rule s).pending = s.pending := by
  rcases takeRequest_cases p code rule s with e | ⟨tag, body, -, e⟩ <;> rw [e]
  rw [pending_answered, h, pending_popRequest]

/-- A request whose rule changes nothing. -/
theorem takeRequest_same_pending {rule : List Byte → State → Response × State} (h : ∀ b u, (rule b u).2 = u)
    (p : PortId) (code : Nat) (s : State) : (takeRequest p code rule s).pending = s.pending :=
  takeRequest_pending (fun b u => by rw [h b u]) p code s

theorem cursorRequest_pending {rule : Slot → Cursor → State → Response × State} (h : LiveOnly rule) (p : PortId)
    (slot : Nat) (b : List Byte) (s : State) : (cursorRequest p slot rule b s).2.pending = s.pending := by
  rcases cursorRequest_cases p slot rule b s with ⟨code, e⟩ | ⟨k, c, -, -, e⟩ <;> rw [e]
  obtain ⟨l, hl⟩ := h k c s
  rw [hl, pending_withLive]

/-- A request on a cursor whose rule changes the live part alone. -/
theorem takeCursorRequest_pending {rule : Slot → Cursor → State → Response × State} (h : LiveOnly rule) (p : PortId)
    (code slot : Nat) (s : State) : (takeRequest p code (cursorRequest p slot rule) s).pending = s.pending :=
  takeRequest_pending (cursorRequest_pending h p slot) p code s

/-- A control request whose rule leaves the queue of commands. -/
theorem takeControlRequest_pending (ok : Bool) {rule : State → State} (h : ∀ s, Kept s (rule s)) (p : PortId)
    (code : Nat) (s : State) : (takeRequest p code (controlRequest p ok rule) s).pending = s.pending :=
  takeRequest_pending (fun b u => (controlRequest_kept p ok h b u).pending) p code s

theorem subscribe_pending (p : PortId) (set : Byte) (b : List Byte) (s : State) :
    (subscribe p set b s).2.pending = s.pending := by
  unfold subscribe
  split <;> rfl

theorem openCursor_pending (p : PortId) (b : List Byte) (s : State) : (openCursor p b s).2.pending = s.pending := by
  unfold openCursor
  split_ifs
  · rfl
  · split <;> rfl

theorem resetRelease_pending (s : State) : ∃ t, execResetRelease s = .next t ∧ t.pending = s.pending := by
  refine ⟨_, rfl, ?_⟩
  split_ifs <;> rfl

theorem linkDown_pending (p : PortId) (s : State) : ∃ t, execLinkDown p s = .next t ∧ t.pending = s.pending := by
  refine ⟨_, rfl, ?_⟩
  split_ifs
  · rfl
  · exact (endClockRole_kept p _).pending

theorem frameError_pending (p : PortId) (s : State) : ∃ t, execFrameError p s = .next t ∧ t.pending = s.pending := by
  refine ⟨_, rfl, ?_⟩
  split
  · split_ifs <;> rfl
  · rfl

theorem unknownRequest_pending (p : PortId) (s : State) :
    ∃ t, execUnknownRequest p s = .next t ∧ t.pending = s.pending := by
  refine ⟨_, rfl, ?_⟩
  split
  · split_ifs <;> rfl
  · rfl

/-- R177: what the link carries changes the live part alone. -/
theorem transmit_pending (p : PortId) (s : State) : (transmit p s).pending = s.pending := by
  unfold transmit
  split
  · split_ifs <;> rfl
  · rfl
  · rfl
  · unfold sendDelivery
    repeat' split
    all_goals rfl

theorem segmentCommit_pending (s : State) : ∃ t, execSegmentCommit s = .next t ∧ t.pending = s.pending := by
  refine ⟨_, rfl, ?_⟩
  split_ifs
  · rfl
  · split
    · exact (handOver_kept _ _ s).pending
    · rfl

theorem segmentFailure_pending (s : State) : ∃ t, execSegmentFailure s = .next t ∧ t.pending = s.pending := by
  refine ⟨_, rfl, ?_⟩
  split_ifs
  · rfl
  · split
    · exact (failSegment_kept _ _ _ s).pending
    · rfl

/-- An event that acts while RESET_N is high, where it acts at all. -/
theorem event_pending {s t : State} (idle : Bool) (h : t.pending = s.pending) :
    (if idle = true then s else t).pending = s.pending := by
  split_ifs
  · rfl
  · exact h

/-- Settles O2: each command answers a next state; a request's rule, a line, a link or an event of a cursor writes other
parts of the state than the queue. -/
theorem everyCommandCompletes : Obligations.EveryCommandCompletes := by
  unfold Obligations.EveryCommandCompletes
  intro c s
  cases c with
  | powerOn => exact ⟨_, rfl, rfl⟩
  | resetAssert => exact ⟨_, rfl, rfl⟩
  | resetRelease => exact resetRelease_pending s
  | linkUp p => exact ⟨_, rfl, event_pending _ rfl⟩
  | linkDown p => exact linkDown_pending p s
  | markInEdge => exact ⟨_, rfl, event_pending _ rfl⟩
  | frameReceive p bytes => exact ⟨_, rfl, event_pending _ rfl⟩
  | frameError p => exact frameError_pending p s
  | unknownRequest p => exact unknownRequest_pending p s
  | frameTransmit p => exact ⟨_, rfl, event_pending _ (transmit_pending p s)⟩
  | describe p => exact ⟨_, rfl, takeRequest_same_pending (fun _ _ => rfl) p 1 s⟩
  | subscribe p set => exact ⟨_, rfl, takeRequest_pending (subscribe_pending p set) p 2 s⟩
  | beginCollection p => exact ⟨_, rfl, takeRequest_pending (fun b u => (beginCollection_kept b u).pending) p 3 s⟩
  | sealHistory p => exact ⟨_, rfl, takeRequest_pending (fun b u => (sealRequest_kept b u).pending) p 4 s⟩
  | clearHistory p => exact ⟨_, rfl, takeRequest_pending (fun b u => (clearRequest_kept b u).pending) p 5 s⟩
  | readRecords p st e n z => exact ⟨_, rfl, takeRequest_same_pending (readRecords_same st e n z) p 6 s⟩
  | readGaps p a n r => exact ⟨_, rfl, takeRequest_same_pending (readGaps_same a n r) p 7 s⟩
  | setPoint p first xs => exact ⟨_, rfl, takeRequest_pending (fun b u => (tableWrite_kept _ b u).pending) p 8 s⟩
  | setRecorder p r e u o d f =>
    exact ⟨_, rfl, takeRequest_pending (fun b u => (tableWrite_kept _ b u).pending) p 9 s⟩
  | setMapBlock p r b x => exact ⟨_, rfl, takeRequest_pending (fun b u => (tableWrite_kept _ b u).pending) p 10 s⟩
  | setStudy p e w t v => exact ⟨_, rfl, takeRequest_pending (fun b u => (tableWrite_kept _ b u).pending) p 11 s⟩
  | setEventZero p t => exact ⟨_, rfl, takeRequest_pending (fun b u => (setEventZero_kept t b u).pending) p 12 s⟩
  | loadSegment p => exact ⟨_, rfl, takeRequest_pending (fun b u => (loadSegment_kept p b u).pending) p 13 s⟩
  | cancelSegment p r q =>
    exact ⟨_, rfl, takeRequest_pending (fun b u => (cancelSegment_kept p r q b u).pending) p 14 s⟩
  | readRecorder p r => exact ⟨_, rfl, takeRequest_same_pending (readRecorder_same r) p 15 s⟩
  | setAttentionMask p => exact ⟨_, rfl, takeRequest_pending (fun b u => (setAttentionMask_kept b u).pending) p 16 s⟩
  | clearCauses p => exact ⟨_, rfl, takeRequest_pending (fun b u => (clearCauses_kept b u).pending) p 17 s⟩
  | openCursor p => exact ⟨_, rfl, takeRequest_pending (openCursor_pending p) p 18 s⟩
  | readCursor p slot => exact ⟨_, rfl, takeRequest_same_pending (readCursor_same slot) p 19 s⟩
  | setCursor p slot x =>
    exact ⟨_, rfl, takeRequest_pending (fun b => cursorRequest_pending (setCursor_liveOnly x b) p slot b) p _ s⟩
  | seek p slot t ch => exact ⟨_, rfl, takeCursorRequest_pending (seek_liveOnly t ch) p _ slot s⟩
  | play p slot re => exact ⟨_, rfl, takeCursorRequest_pending (play_liveOnly re) p _ slot s⟩
  | step p slot n => exact ⟨_, rfl, takeCursorRequest_pending (stepRequest_liveOnly n) p _ slot s⟩
  | hold p slot => exact ⟨_, rfl, takeCursorRequest_pending hold_liveOnly p _ slot s⟩
  | stop p slot => exact ⟨_, rfl, takeCursorRequest_pending stop_liveOnly p _ slot s⟩
  | arm p slot => exact ⟨_, rfl, takeCursorRequest_pending arm_liveOnly p _ slot s⟩
  | snapshot p slot a b st => exact ⟨_, rfl, takeCursorRequest_pending (snapshot_liveOnly a b st) p _ slot s⟩
  | closeCursor p slot => exact ⟨_, rfl, takeCursorRequest_pending closeCursor_liveOnly p _ slot s⟩
  | fetch p slot => exact ⟨_, rfl, takeCursorRequest_pending fetch_liveOnly p _ slot s⟩
  | probe p slot tag pt t => exact ⟨_, rfl, takeCursorRequest_pending (probeRequest_liveOnly tag pt t) p _ slot s⟩
  | setWatch p slot w args a => exact ⟨_, rfl, takeCursorRequest_pending (setWatch_liveOnly w args a) p _ slot s⟩
  | clearWatch p slot w => exact ⟨_, rfl, takeCursorRequest_pending (clearWatch_liveOnly w) p _ slot s⟩
  | readWatches p slot ws => exact ⟨_, rfl, takeCursorRequest_pending (readWatches_liveOnly ws) p _ slot s⟩
  | readTrail p slot => exact ⟨_, rfl, takeCursorRequest_pending readTrail_liveOnly p _ slot s⟩
  | takeClock p w => exact ⟨_, rfl, takeRequest_pending (fun b u => (takeClock_kept p w b u).pending) p 35 s⟩
  | releaseClock p => exact ⟨_, rfl, takeRequest_pending (fun b u => (releaseClock_kept p b u).pending) p 36 s⟩
  | readClock p => exact ⟨_, rfl, takeRequest_same_pending (fun _ _ => rfl) p 37 s⟩
  | clockRun p => exact ⟨_, rfl, takeControlRequest_pending true clockRun_kept p _ s⟩
  | clockPause p => exact ⟨_, rfl, takeControlRequest_pending true clockPause_kept p _ s⟩
  | clockSet p t => exact ⟨_, rfl, takeControlRequest_pending _ (clockSet_kept t) p _ s⟩
  | clockRate p n => exact ⟨_, rfl, takeControlRequest_pending _ (clockRate_kept n) p _ s⟩
  | setLease p n =>
    exact ⟨_, rfl, takeControlRequest_pending (rule := setLease n) _ (fun _ => Kept.same rfl rfl rfl) p _ s⟩
  | clockAdvance => exact ⟨_, rfl, event_pending _ (clockAdvance_kept _).pending⟩
  | leaseExpiry => exact ⟨_, rfl, event_pending _ (expireLease_kept s).pending⟩
  | segmentCommit => exact segmentCommit_pending s
  | segmentFailure => exact segmentFailure_pending s
  | stepRead k => exact ⟨_, rfl, event_pending _ rfl⟩
  | rebuildRead k => exact ⟨_, rfl, event_pending _ rfl⟩
  | probeRead k => exact ⟨_, rfl, event_pending _ rfl⟩
  | itemWritten k => exact ⟨_, rfl, event_pending _ rfl⟩

end Sys2Proof.Machine
end

section
/-!
PROOF. The requests that write the Configuration Tables (R31 to R36): what the phase gate makes of a write, and what
each write takes and leaves.
-/

namespace Sys2Proof.Machine

open Sys2Proof

/-! ### The phase gate (R31, R176) -/

section
variable {w : Tables → Option (RespBody × Tables)} {s : State}

/-- R31: outside SETUP the write is not examined. -/
theorem tableWrite_wrongPhase (body : List Byte) (hp : s.history.phase ≠ .setup) :
    tableWrite w body s = (Response.plain .wrongPhase, s) := if_pos hp

/-- R31: arguments that the write cannot take. -/
theorem tableWrite_refused (body : List Byte) (hp : s.history.phase = .setup) (hw : w s.tables = none) :
    tableWrite w body s = (Response.plain .badArgument, s) := by
  rw [tableWrite, if_neg (not_not.2 hp), hw]

/-- R31: in SETUP a write that takes its arguments changes the tables and answers DONE. -/
theorem tableWrite_writes (body : List Byte) (hp : s.history.phase = .setup) {b : RespBody} {t : Tables}
    (hw : w s.tables = some (b, t)) :
    tableWrite w body s = ({ code := .done, body := b }, { s with tables := t }) := by
  rw [tableWrite, if_neg (not_not.2 hp), hw]

variable {p : PortId} {code tag : Nat} {body : List Byte} (h : Taken s p code tag body)
include h

theorem takeTableWrite_wrongPhase (hp : s.history.phase ≠ .setup) :
    takeRequest p code (tableWrite w) s = answeredOnly s p tag { code := .wrongPhase, body := .empty } := by
  rw [takeRequest_taken h, tableWrite_wrongPhase (s := s.popRequest p) body hp]
  rfl

theorem takeTableWrite_refused (hp : s.history.phase = .setup) (hw : w s.tables = none) :
    takeRequest p code (tableWrite w) s = answeredOnly s p tag { code := .badArgument, body := .empty } := by
  rw [takeRequest_taken h, tableWrite_refused (s := s.popRequest p) body hp hw]
  rfl

theorem takeTableWrite_writes (hp : s.history.phase = .setup) {b : RespBody} {t : Tables}
    (hw : w s.tables = some (b, t)) :
    takeRequest p code (tableWrite w) s =
      answered s p tag { code := .done, body := b } { s.popRequest p with tables := t } := by
  rw [takeRequest_taken h, tableWrite_writes (s := s.popRequest p) body hp hw]

end

/-- R31, Table 10-2: the requests of codes 8 to 11 are the phase-gated writes. -/
theorem exec_tableWrite {c : Instr} {p : PortId} {code : Nat} (h : requestOf c = some (p, code))
    (hc : code = 8 ∨ code = 9 ∨ code = 10 ∨ code = 11) :
    ∃ w, ∀ s, exec c s = .next (takeRequest p code (tableWrite w) s) := by
  cases c with
  | setPoint | setRecorder | setMapBlock | setStudy =>
    obtain ⟨rfl, rfl⟩ := Prod.mk.inj (Option.some.inj h)
    exact ⟨_, fun _ => rfl⟩
  | _ => simp [requestOf] at h <;> omega

/-- Settles O21: all four requests pass the same gate. -/
theorem tableWritesRefusedOutsideSetup : Obligations.TableWritesRefusedOutsideSetup := by
  unfold Obligations.TableWritesRefusedOutsideSetup
  intro c s p code tag body hr hc h hp
  obtain ⟨w, hw⟩ := exec_tableWrite hr hc
  rw [hw, takeTableWrite_wrongPhase h hp]

/-! ### SET_POINT (R32) -/

/-- A list is read when each of its values is, place by place. -/
theorem readAll_eq_some {α β : Type} {f : α → Option β} {xs : List α} {ys : List β} :
    readAll f xs = some ys ↔ xs.map f = ys.map some := by
  induction xs generalizing ys with
  | nil => cases ys <;> simp [readAll]
  | cons x xs ih =>
    unfold readAll
    cases hx : f x with
    | none => cases ys <;> simp [hx]
    | some y =>
      cases hr : readAll f xs with
      | none => cases ys <;> simp [hx, ← ih, hr]
      | some zs => cases ys <;> simp [hx, ← ih, hr]

/-- A list cannot be read when some value cannot be. -/
theorem readAll_eq_none {α β : Type} {f : α → Option β} {xs : List α} :
    readAll f xs = none ↔ ∃ x ∈ xs, f x = none := by
  induction xs with
  | nil => simp [readAll]
  | cons x xs ih =>
    unfold readAll
    rw [List.exists_mem_cons_iff, ← ih]
    cases f x <;> cases readAll f xs <;> simp

/-- R32: the setting as an entry, whole. -/
theorem pointEntryOf_eq_some {x : PointSetting} {e : PointEntry} :
    pointEntryOf x = some e ↔
      x.station ≤ 255 ∧ e.enabled = x.enabled ∧ e.station = x.station ∧ some e.kind = deviceKindOf x.kindCode ∧
        some e.initial = ptStateOf x.stateCode := by
  unfold pointEntryOf
  cases deviceKindOf x.kindCode with
  | none => simp
  | some k =>
    cases ptStateOf x.stateCode with
    | none => simp
    | some st =>
      obtain ⟨en, sta, kd, ini⟩ := e
      by_cases hx : x.station ≤ 255
      · simp [hx, eq_comm]
      · simp [hx]

/-- R32: the settings that are no entry. -/
theorem pointEntryOf_eq_none {x : PointSetting} :
    pointEntryOf x = none ↔
      ¬(x.station ≤ 255 ∧ (deviceKindOf x.kindCode).isSome = true ∧ (ptStateOf x.stateCode).isSome = true) := by
  unfold pointEntryOf
  cases deviceKindOf x.kindCode <;> cases ptStateOf x.stateCode <;> simp

/-- R32: the run lies in the Point Table and is no longer than 1,024 entries. -/
theorem pointRunOf_eq (first : Nat) (xs : List PointSetting) :
    pointRunOf first xs =
      if 1 ≤ xs.length ∧ xs.length ≤ 1024 ∧ first + xs.length ≤ 4096 then readAll pointEntryOf xs else none := by
  have hr : (xs.isEmpty || decide (1024 < xs.length) || decide (4095 < first + xs.length - 1)) = true ↔
      ¬(1 ≤ xs.length ∧ xs.length ≤ 1024 ∧ first + xs.length ≤ 4096) := by
    rw [Bool.or_eq_true, Bool.or_eq_true, decide_eq_true_iff, decide_eq_true_iff, List.isEmpty_iff_length_eq_zero]
    omega
  rw [pointRunOf, ite_cond_congr (propext hr), ite_not]

/-- R32: the run lies in the table and each setting is an entry. -/
def PointRunFits (first : Nat) (xs : List PointSetting) : Prop :=
  1 ≤ xs.length ∧ xs.length ≤ 1024 ∧ first + xs.length ≤ 4096 ∧
    ∀ x ∈ xs, x.station ≤ 255 ∧ (deviceKindOf x.kindCode).isSome = true ∧ (ptStateOf x.stateCode).isSome = true

theorem pointRunOf_of_fits {first : Nat} {xs : List PointSetting} (h : PointRunFits first xs) :
    ∃ es, pointRunOf first xs = some es ∧ xs.map pointEntryOf = es.map some := by
  obtain ⟨h1, h2, h3, hx⟩ := h
  rw [pointRunOf_eq, if_pos ⟨h1, h2, h3⟩]
  cases hr : readAll pointEntryOf xs with
  | none =>
    obtain ⟨x, hm, hn⟩ := readAll_eq_none.1 hr
    exact absurd (hx x hm) (pointEntryOf_eq_none.1 hn)
  | some es => exact ⟨es, rfl, readAll_eq_some.1 hr⟩

theorem pointRunOf_of_not_fits {first : Nat} {xs : List PointSetting} (h : ¬PointRunFits first xs) :
    pointRunOf first xs = none := by
  rw [pointRunOf_eq]
  split_ifs with hin
  · obtain ⟨h1, h2, h3⟩ := hin
    refine readAll_eq_none.2 ?_
    by_contra hall
    refine h ⟨h1, h2, h3, fun x hx => ?_⟩
    by_contra hbad
    exact hall ⟨x, hx, pointEntryOf_eq_none.2 hbad⟩
  · rfl

/-- R32: the entry behind the end of a run, or before it, stands. -/
theorem writeRun_outside {first : Nat} {es : List PointEntry} {points : Vector PointEntry 4096} {i : PointId}
    (h : i.val < first ∨ first + es.length ≤ i.val) : (writeRun first es points).get i = points.get i := by
  rw [writeRun, vofFn_get]
  split_ifs with hf
  · rw [List.getElem?_eq_none (by omega), Option.getD_none]
  · rfl

/-- R32: the entry in a run is written. -/
theorem writeRun_inside {first : Nat} {es : List PointEntry} {points : Vector PointEntry 4096} {i : PointId}
    {e : PointEntry} (h : first ≤ i.val) (he : es[i.val - first]? = some e) : (writeRun first es points).get i = e := by
  rw [writeRun, vofFn_get, if_pos h, he, Option.getD_some]

/-- Settles O17: a run that fits is read into entries, which take its places one by one; any other is no write. -/
theorem setPointWritesRun : Obligations.SetPointWritesRun := by
  unfold Obligations.SetPointWritesRun
  intro s p tag body first xs h hp
  have hexec : exec (.setPoint p first xs) s = .next (takeRequest p 8 (tableWrite (writePoints first xs)) s) := rfl
  rw [hexec]
  refine ⟨fun hfits => ?_, fun hfits => ?_⟩
  · obtain ⟨es, hes, hmap⟩ := pointRunOf_of_fits hfits
    have hlen : es.length = xs.length := by simpa using (congrArg List.length hmap).symm
    have hw : writePoints first xs s.tables =
        some (.pointsWritten xs.length, { s.tables with points := writeRun first es s.tables.points }) := by
      rw [writePoints, hes, Option.map_some, hlen]
    refine ⟨_, congrArg _ (takeTableWrite_writes h hp hw), rfl, rfl, fun i hi => ?_, fun i x hi hx => ?_⟩
    · exact writeRun_outside (by rwa [hlen])
    · have he : (es.map some)[i.val - first]? = some (pointEntryOf x) := by rw [← hmap, List.getElem?_map, hx]; rfl
      rw [List.getElem?_map, Option.map_eq_some_iff] at he
      obtain ⟨e, he, hxe⟩ := he
      dsimp only
      rw [writeRun_inside hi he]
      exact (pointEntryOf_eq_some.1 hxe.symm).2
  · have hw : writePoints first xs s.tables = none := by rw [writePoints, pointRunOf_of_not_fits hfits, Option.map_none]
    exact congrArg _ (takeTableWrite_refused h hp hw)

/-! ### SET_RECORDER and SET_MAP_BLOCK (R33, R34) -/

/-- R33: the ranges that SET_RECORDER checks. -/
theorem recorderArgsOk_iff (unit : Nat) (offset drift : Int) (fb : Option Nat) :
    recorderArgsOk unit offset drift fb = true ↔
      (unit = 1 ∨ unit = 10 ∨ unit = 100 ∨ unit = 1000) ∧ -(2 ^ 40 - 1) ≤ offset ∧ offset ≤ 2 ^ 40 - 1 ∧
        -500 ≤ drift ∧ drift ≤ 500 ∧ ∀ b ∈ fb, b ≤ 2 ^ 48 - 1 := by
  have grid : Config.maxGrid = 2 ^ 40 - 1 := rfl
  have recorder : Config.maxRecorderTime = 2 ^ 48 - 1 := rfl
  cases fb <;> simp [recorderArgsOk, tickUnitOk, grid, recorder, and_assoc, or_assoc]

/-- R33: the write of SET_RECORDER on a slot, with arguments in range. -/
theorem writeRecorder_writes (x : RecId) (on : Bool) {unit : Nat} {offset drift : Int} {fb : Option Nat}
    (h : recorderArgsOk unit offset drift fb = true) (t : Tables) :
    writeRecorder x.val on unit offset drift fb t =
      some
        (.empty,
          { t with
            recorders := vput t.recorders x
              { enabled := on, tickUnit := unit, offset := offset, drift := drift, fallback := fb
                blocks := (t.recorders.get x).blocks } }) := by
  simp [writeRecorder, h]

/-- R33: the arguments that SET_RECORDER cannot take. -/
theorem writeRecorder_refused {r : Nat} (on : Bool) {unit : Nat} {offset drift : Int} {fb : Option Nat}
    (h : 64 ≤ r ∨ ¬recorderArgsOk unit offset drift fb = true) (t : Tables) :
    writeRecorder r on unit offset drift fb t = none := by
  unfold writeRecorder
  cases hr : asIndex 64 r with
  | none => rfl
  | some x => exact if_neg (h.resolve_left fun hle => by simp [asIndex_none.2 hle] at hr)

/-- R34: the block that the three fields in range, or their absence, leave. -/
theorem newBlock_writes {fields : Option BlockArgs}
    (h : ∀ b ∈ fields, b.first ≤ 65535 ∧ 1 ≤ b.count ∧ b.count ≤ 4096 ∧ b.base ≤ 4095) :
    newBlock fields = some (fields.map fun b => { first := b.first, count := b.count, base := b.base }) := by
  cases fields with
  | none => rfl
  | some b => exact congrArg (Option.map some) (if_pos (h b rfl))

/-- R34: a field out of range leaves no block. -/
theorem newBlock_refused {fields : Option BlockArgs}
    (h : ¬∀ b ∈ fields, b.first ≤ 65535 ∧ 1 ≤ b.count ∧ b.count ≤ 4096 ∧ b.base ≤ 4095) : newBlock fields = none := by
  cases fields with
  | none => exact absurd (fun _ hb => nomatch hb) h
  | some b =>
    have hb : ¬(b.first ≤ 65535 ∧ 1 ≤ b.count ∧ b.count ≤ 4096 ∧ b.base ≤ 4095) := fun hok =>
      h fun _ hm => Option.some.inj hm ▸ hok
    exact congrArg (Option.map some) (if_neg hb)

/-- R34: the write of SET_MAP_BLOCK on a block of a slot. -/
theorem writeBlock_writes (x : RecId) (y : BlockId) {fields : Option BlockArgs} {b : Option MapBlock}
    (h : newBlock fields = some b) (t : Tables) :
    writeBlock x.val y.val fields t =
      some
        (.empty,
          { t with
            recorders := vput t.recorders x
              { t.recorders.get x with blocks := vput (t.recorders.get x).blocks y b } }) := by
  simp [writeBlock, h]

/-- R34: the arguments that SET_MAP_BLOCK cannot take. -/
theorem writeBlock_refused {r i : Nat} {fields : Option BlockArgs} (h : 64 ≤ r ∨ 8 ≤ i ∨ newBlock fields = none)
    (t : Tables) : writeBlock r i fields t = none := by
  unfold writeBlock
  split
  · rename_i x y b hx hy hb
    rcases h with hle | hle | hn
    · simp [asIndex_none.2 hle] at hx
    · simp [asIndex_none.2 hle] at hy
    · simp [hn] at hb
  · rfl

/-- Settles O18: each of the two writes takes the arguments in range on a slot that it names, and no other. -/
theorem setRecorderAndMapBlockWrite : Obligations.SetRecorderAndMapBlockWrite := by
  unfold Obligations.SetRecorderAndMapBlockWrite
  refine ⟨fun s p tag body r on unit offset drift fb h hp => ?_, fun s p tag body r i fields h hp => ?_⟩
  · dsimp only
    rw [← recorderArgsOk_iff]
    refine ⟨fun x hx hok => ?_, fun hbad => ?_⟩
    · subst hx
      exact congrArg _ (takeTableWrite_writes h hp (writeRecorder_writes x on hok s.tables))
    · exact congrArg _ (takeTableWrite_refused h hp (writeRecorder_refused on hbad s.tables))
  · dsimp only
    refine ⟨fun x y hx hy hok => ?_, fun hbad => ?_⟩
    · subst hx hy
      exact congrArg _ (takeTableWrite_writes h hp (writeBlock_writes x y (newBlock_writes hok) s.tables))
    · have hn := hbad.imp_right (Or.imp_right newBlock_refused)
      exact congrArg _ (takeTableWrite_refused h hp (writeBlock_refused hn s.tables))

/-! ### SET_STUDY and SET_EVENT_ZERO (R35, R36) -/

/-- R35: some parameter is present, and each present one in its range. -/
theorem studyArgsOk_iff (epoch : Option (BitVec 64)) (w th iv : Option Nat) :
    studyArgsOk epoch w th iv = true ↔
      (epoch ≠ none ∨ w ≠ none ∨ th ≠ none ∨ iv ≠ none) ∧ (∀ x ∈ w, x ≤ 65535) ∧
        (∀ x ∈ th, 1 ≤ x ∧ x ≤ 1000000) ∧ ∀ x ∈ iv, 1 ≤ x ∧ x ≤ 3600 := by
  have present : (epoch.isSome || w.isSome || th.isSome || iv.isSome) = true ↔
      epoch ≠ none ∨ w ≠ none ∨ th ≠ none ∨ iv ≠ none := by
    simp only [Bool.or_eq_true, Option.isSome_iff_ne_none, or_assoc]
  have within : ∀ (o : Option Nat) (lo hi : Nat),
      (o.elim true fun x => decide (lo ≤ x) && decide (x ≤ hi)) = true ↔ ∀ x ∈ o, lo ≤ x ∧ x ≤ hi := by
    intro o lo hi
    cases o <;> simp
  have window : (w.elim true fun x => decide (x ≤ 65535)) = true ↔ ∀ x ∈ w, x ≤ 65535 := by cases w <;> simp
  rw [studyArgsOk, Bool.and_eq_true, Bool.and_eq_true, Bool.and_eq_true, present, window, within, within]
  simp only [and_assoc]

/-- Settles O19: with arguments in range a present parameter is written and an absent one defaults to its own value. -/
theorem setStudyWritesPresent : Obligations.SetStudyWritesPresent := by
  unfold Obligations.SetStudyWritesPresent
  intro s p tag body epoch w th iv h hp
  dsimp only
  rw [← studyArgsOk_iff]
  exact ⟨fun hok => congrArg _ (takeTableWrite_writes h hp (if_pos hok)),
    fun hbad => congrArg _ (takeTableWrite_refused h hp (if_neg hbad))⟩

/-- Settles O20: the rule of SET_EVENT_ZERO looks at no phase. -/
theorem setEventZeroWrites : Obligations.SetEventZeroWrites := by
  unfold Obligations.SetEventZeroWrites
  intro s p tag body t h
  have hexec : exec (.setEventZero p t) s =
      .next (answered s p tag (setEventZero t body (s.popRequest p)).1 (setEventZero t body (s.popRequest p)).2) :=
    congrArg _ (takeRequest_taken h (setEventZero t))
  rw [hexec]
  have grid : Config.maxGrid = 2 ^ 40 - 1 := rfl
  refine ⟨fun ht => ?_, fun ht => ?_⟩
  · rw [setEventZero, if_pos (by rwa [grid])]
    rfl
  · rw [setEventZero, if_neg (by rw [grid]; omega)]
    rfl

end Sys2Proof.Machine
end

section
/-!
PROOF. Validation (R37, R38, Tables 2-5 and 2-6): when each check passes, and that the first check that fails is the one
reported.
-/

namespace Sys2Proof.Machine

open Sys2Proof

/-! ### The first place of a search -/

theorem any_toList_iff {α : Type} {n : Nat} {v : Vector α n} {test : α → Bool} :
    v.toList.any test = true ↔ ∃ i : Fin n, test (v.get i) = true := by
  simp only [List.any_eq_true, Vector.mem_toList_iff, Vector.mem_iff_getElem]
  constructor
  · rintro ⟨x, ⟨i, hi, rfl⟩, hx⟩
    exact ⟨⟨i, hi⟩, hx⟩
  · rintro ⟨i, hi⟩
    exact ⟨_, ⟨i.val, i.isLt, rfl⟩, hi⟩

/-- The places before one in the list of all are those below it. -/
theorem finRange_split {n : Nat} (i : Fin n) :
    ∃ below above, List.finRange n = below ++ i :: above ∧ ∀ j ∈ below, j.val < i.val := by
  obtain ⟨below, above, h⟩ := List.append_of_mem (List.mem_finRange i)
  have hp := List.pairwise_lt_finRange n
  rw [h, List.pairwise_append] at hp
  exact ⟨below, above, h, fun j hj => hp.2.2 j hj i List.mem_cons_self⟩

theorem findSome?_finRange {β : Type} {n : Nat} {f : Fin n → Option β} {i : Fin n} {b : β} (hi : f i = some b)
    (hlow : ∀ j : Fin n, j.val < i.val → f j = none) : (List.finRange n).findSome? f = some b := by
  obtain ⟨below, above, h, hb⟩ := finRange_split i
  exact List.findSome?_eq_some_iff.2 ⟨below, i, above, h, hi, fun j hj => hlow j (hb j hj)⟩

theorem findSome?_finRange_none {β : Type} {n : Nat} {f : Fin n → Option β} :
    (List.finRange n).findSome? f = none ↔ ∀ i, f i = none := by
  rw [List.findSome?_eq_none_iff]
  exact ⟨fun h i => h i (List.mem_finRange i), fun h i _ => h i⟩

theorem find?_finRange {n : Nat} {test : Fin n → Bool} {i : Fin n} (hi : test i = true)
    (hlow : ∀ j : Fin n, j.val < i.val → test j = false) : (List.finRange n).find? test = some i := by
  obtain ⟨below, above, h, hb⟩ := finRange_split i
  exact List.find?_eq_some_iff_append.2 ⟨hi, below, above, h, fun j hj => by simp [hlow j (hb j hj)]⟩

/-! ### One block (Table 2-5, checks 3 to 5) -/

/-- Table 2-5 check 5: the present block of a place shares a channel with `b`. -/
def MeetsBlock (blocks : Vector (Option MapBlock) 8) (b : MapBlock) (j : BlockId) : Prop :=
  ∃ x, blocks.get j = some x ∧ b.first < x.first + x.count ∧ x.first < b.first + b.count

/-- Table 2-5 check 5: blocks of at least one channel that share one. -/
theorem overlaps_iff {a b : MapBlock} (ha : 1 ≤ a.count) (hb : 1 ≤ b.count) :
    a.overlaps b = true ↔ a.first < b.first + b.count ∧ b.first < a.first + a.count := by
  rw [MapBlock.overlaps, Bool.and_eq_true, decide_eq_true_iff, decide_eq_true_iff]
  unfold MapBlock.lastChannel
  omega

/-- Blocks that hold at least one channel (R28). -/
def BlocksHold (blocks : Vector (Option MapBlock) 8) : Prop :=
  ∀ (i : BlockId) (b : MapBlock), blocks.get i = some b → 1 ≤ b.count

section
variable {r : RecId} {blocks : Vector (Option MapBlock) 8} {i : BlockId} {b : MapBlock} (hc : BlocksHold blocks)
  (hb : blocks.get i = some b)
include hc hb

theorem lastChannel_gt_iff : 65535 < b.lastChannel ↔ 65536 < b.first + b.count := by
  have := hc i b hb
  unfold MapBlock.lastChannel
  omega

theorem lastPoint_gt_iff : 4095 < b.lastPoint ↔ 4096 < b.base + b.count := by
  have := hc i b hb
  unfold MapBlock.lastPoint
  omega

/-- Table 2-5 check 5: what the search for an overlap asks of a place. -/
theorem overlapTest_iff (j : BlockId) :
    (decide (j.val < i.val) && (blocks.get j).elim false fun x => x.overlaps b) = true ↔
      j.val < i.val ∧ MeetsBlock blocks b j := by
  have hbc := hc i b hb
  rw [Bool.and_eq_true, decide_eq_true_iff]
  refine and_congr_right fun _ => ?_
  unfold MeetsBlock
  cases hj : blocks.get j with
  | none => simp
  | some x =>
    have hxc := hc j x hj
    simp only [Option.elim_some, overlaps_iff hxc hbc, Option.some.injEq, exists_eq_left']
    omega

theorem lowerOverlap_none :
    lowerOverlap blocks i b = none ↔ ∀ j : BlockId, j.val < i.val → ¬MeetsBlock blocks b j := by
  rw [lowerOverlap, List.find?_eq_none]
  simp only [overlapTest_iff hc hb, List.mem_finRange, forall_true_left, not_and]

theorem lowerOverlap_some {j : BlockId} (hj : j.val < i.val) (hm : MeetsBlock blocks b j)
    (hlow : ∀ l : BlockId, l.val < j.val → ¬MeetsBlock blocks b l) : lowerOverlap blocks i b = some j :=
  find?_finRange ((overlapTest_iff hc hb j).2 ⟨hj, hm⟩) fun l hl => by
    rw [Bool.eq_false_iff, ne_eq, overlapTest_iff hc hb]
    exact fun h => hlow l hl h.2

/-- Table 2-5 check 3. -/
theorem blockFault_channels (h : 65536 < b.first + b.count) :
    blockFault r blocks i b =
      some { kind := .blockChannelRange, recorder := some r, block := some i, otherBlock := none, point := none } :=
  if_pos ((lastChannel_gt_iff hc hb).2 h)

/-- Table 2-5 check 4. -/
theorem blockFault_points (hch : b.first + b.count ≤ 65536) (h : 4096 < b.base + b.count) :
    blockFault r blocks i b =
      some
        { kind := .blockPointRange, recorder := some r, block := some i, otherBlock := none
          point := some (b.base + b.count - 1) } := by
  rw [blockFault, if_neg (mt (lastChannel_gt_iff hc hb).1 (by omega)), if_pos ((lastPoint_gt_iff hc hb).2 h)]
  rfl

/-- Table 2-5 check 5, where the ranges pass. -/
theorem blockFault_inRange (hch : b.first + b.count ≤ 65536) (hpt : b.base + b.count ≤ 4096) :
    blockFault r blocks i b =
      (lowerOverlap blocks i b).map fun j =>
        { kind := .blockOverlap, recorder := some r, block := some i, otherBlock := some j, point := none } := by
  rw [blockFault, if_neg (mt (lastChannel_gt_iff hc hb).1 (by omega)),
    if_neg (mt (lastPoint_gt_iff hc hb).1 (by omega))]

theorem blockFault_none :
    blockFault r blocks i b = none ↔
      ¬(65536 < b.first + b.count ∨ 4096 < b.base + b.count ∨ ∃ j : BlockId, j.val < i.val ∧ MeetsBlock blocks b j) := by
  by_cases hch : 65536 < b.first + b.count
  · simp [blockFault_channels hc hb hch, hch]
  · by_cases hpt : 4096 < b.base + b.count
    · simp [blockFault_points hc hb (not_lt.1 hch) hpt, hpt]
    · rw [blockFault_inRange hc hb (not_lt.1 hch) (not_lt.1 hpt), Option.map_eq_none_iff, lowerOverlap_none hc hb]
      simp [hch, hpt]

end

/-! ### The blocks of all recorders -/

/-- Table 2-5: a present block of an enabled recorder fails one of the checks 3 to 5. -/
def Tables.Faulty (t : Tables) (r : RecId) (i : BlockId) : Prop :=
  (t.recorders.get r).enabled = true ∧ ∃ b, (t.recorders.get r).blocks.get i = some b ∧
    (65536 < b.first + b.count ∨ 4096 < b.base + b.count ∨
      ∃ j : BlockId, j.val < i.val ∧ MeetsBlock (t.recorders.get r).blocks b j)

/-- The tables whose blocks hold at least one channel (R28). -/
def Tables.BlocksHold (t : Tables) : Prop :=
  ∀ r : RecId, Machine.BlocksHold (t.recorders.get r).blocks

section
variable {t : Tables} (hc : t.BlocksHold)
include hc

/-- A place of an enabled recorder answers a fault exactly where its block is at fault. -/
theorem placeFault_none {r : RecId} (he : (t.recorders.get r).enabled = true) (i : BlockId) :
    ((t.recorders.get r).blocks.get i).bind (blockFault r (t.recorders.get r).blocks i) = none ↔ ¬t.Faulty r i := by
  unfold Tables.Faulty
  cases hb : (t.recorders.get r).blocks.get i with
  | none => simp
  | some b =>
    rw [Option.bind_some, blockFault_none (hc r) hb]
    simp [he]

theorem recorderFault_none (r : RecId) :
    recorderFault r (t.recorders.get r) = none ↔ ∀ i : BlockId, ¬t.Faulty r i := by
  by_cases he : (t.recorders.get r).enabled = true
  · rw [recorderFault, if_pos he, findSome?_finRange_none]
    exact forall_congr' (placeFault_none hc he)
  · simp [recorderFault, Tables.Faulty, he]

/-- R37: the fault of a recorder is that of its lowest-numbered block at fault. -/
theorem recorderFault_some {r : RecId} {i : BlockId} {b : MapBlock} {f : FaultRecord}
    (he : (t.recorders.get r).enabled = true) (hb : (t.recorders.get r).blocks.get i = some b)
    (hlow : ∀ j : BlockId, j.val < i.val → ¬t.Faulty r j)
    (hf : blockFault r (t.recorders.get r).blocks i b = some f) : recorderFault r (t.recorders.get r) = some f := by
  rw [recorderFault, if_pos he]
  refine findSome?_finRange (i := i) ?_ fun j hj => (placeFault_none hc he j).2 (hlow j hj)
  rw [hb, Option.bind_some, hf]

end

/-! ### The tables -/

/-- Table 2-5 check 1. -/
theorem tableFault_noRecorder {t : Tables} (h : ∀ r : RecId, (t.recorders.get r).enabled = false) :
    tableFault t = some (bareFault .noRecorder) := by
  refine if_pos ?_
  rw [Bool.eq_false_iff, ne_eq, any_toList_iff]
  simp [h]

/-- Table 2-5 check 2. -/
theorem tableFault_noPoint {t : Tables} (hr : ∃ r : RecId, (t.recorders.get r).enabled = true)
    (h : ∀ p : PointId, (t.points.get p).enabled = false) : tableFault t = some (bareFault .noPoint) := by
  rw [tableFault, any_toList_iff.2 hr, if_neg Bool.noConfusion]
  refine if_pos ?_
  rw [Bool.eq_false_iff, ne_eq, any_toList_iff]
  simp [h]

/-- Table 2-5, where the checks 1 and 2 pass. -/
theorem tableFault_blocks {t : Tables} (hr : ∃ r : RecId, (t.recorders.get r).enabled = true)
    (hp : ∃ p : PointId, (t.points.get p).enabled = true) :
    tableFault t = (List.finRange 64).findSome? fun r => recorderFault r (t.recorders.get r) := by
  rw [tableFault, any_toList_iff.2 hr, any_toList_iff.2 hp, if_neg Bool.noConfusion, if_neg Bool.noConfusion]

/-- R37: validation passes exactly the tables with a recorder and a point enabled and no block at fault. -/
theorem tableFault_none {t : Tables} (hc : t.BlocksHold) :
    tableFault t = none ↔
      (∃ r : RecId, (t.recorders.get r).enabled = true) ∧ (∃ p : PointId, (t.points.get p).enabled = true) ∧
        ∀ (r : RecId) (i : BlockId), ¬t.Faulty r i := by
  by_cases hr : ∃ r : RecId, (t.recorders.get r).enabled = true
  · by_cases hp : ∃ p : PointId, (t.points.get p).enabled = true
    · rw [tableFault_blocks hr hp, findSome?_finRange_none]
      simp only [recorderFault_none hc, hr, hp, true_and]
    · rw [tableFault_noPoint hr (by simpa using hp)]
      simp [hp]
  · rw [tableFault_noRecorder (by simpa using hr)]
    simp [hr]

/-- R37, R38: with a point enabled, the block at fault first by slot and block number is the one reported. -/
theorem tableFault_firstBlock {t : Tables} (hc : t.BlocksHold) (hp : ∃ p : PointId, (t.points.get p).enabled = true)
    {r : RecId} {i : BlockId} {b : MapBlock} {f : FaultRecord} (he : (t.recorders.get r).enabled = true)
    (hb : (t.recorders.get r).blocks.get i = some b)
    (hrec : ∀ (q : RecId) (j : BlockId), q.val < r.val → ¬t.Faulty q j)
    (hlow : ∀ j : BlockId, j.val < i.val → ¬t.Faulty r j)
    (hf : blockFault r (t.recorders.get r).blocks i b = some f) : tableFault t = some f := by
  rw [tableFault_blocks ⟨r, he⟩ hp]
  exact findSome?_finRange (recorderFault_some hc he hb hlow hf) fun q hq =>
    (recorderFault_none hc q).2 fun j => hrec q j hq

/-- No block is at fault when every present block of an enabled recorder keeps its ranges and stands apart from the
lower-numbered ones. -/
theorem not_faulty_iff {t : Tables} :
    (∀ (r : RecId) (i : BlockId), ¬t.Faulty r i) ↔
      ∀ (r : RecId) (i : BlockId) (b : MapBlock), (t.recorders.get r).enabled = true →
        (t.recorders.get r).blocks.get i = some b →
        b.first + b.count ≤ 65536 ∧ b.base + b.count ≤ 4096 ∧
          ∀ (j : BlockId) (x : MapBlock), j.val < i.val → (t.recorders.get r).blocks.get j = some x →
            x.first + x.count ≤ b.first ∨ b.first + b.count ≤ x.first := by
  refine forall_congr' fun r => forall_congr' fun i => ⟨fun h b he hb => ?_, fun h ⟨he, b, hb, hbad⟩ => ?_⟩
  · have hok := fun hbad => h ⟨he, b, hb, hbad⟩
    refine ⟨not_lt.1 fun hch => hok (.inl hch), not_lt.1 fun hpt => hok (.inr (.inl hpt)), fun j x hj hx => ?_⟩
    by_contra hmeet
    rw [not_or, not_le, not_le] at hmeet
    exact hok (.inr (.inr ⟨j, hj, x, hx, hmeet⟩))
  · obtain ⟨hch, hpt, hapart⟩ := h b he hb
    rcases hbad with hbad | hbad | ⟨j, hj, x, hx, h1, h2⟩
    · omega
    · omega
    · have := hapart j x hj hx
      omega

/-- Settles O14: validation finds no fault exactly where no check fails, and reports the first that fails. -/
theorem validationIsExact : Obligations.ValidationIsExact := by
  unfold Obligations.ValidationIsExact
  intro t hc
  refine ⟨?_, tableFault_noRecorder, tableFault_noPoint, fun hp r i b hf hb hrec hlow => ?_⟩
  · rw [tableFault_none hc, not_faulty_iff]
  · have reports := fun {f : FaultRecord} => tableFault_firstBlock (f := f) hc hp hf.1 hb hrec hlow
    refine ⟨fun hch => reports (blockFault_channels (hc r) hb hch),
      fun hch hpt => reports (blockFault_points (hc r) hb hch hpt), fun j hch hpt hj hm hl => reports ?_⟩
    rw [blockFault_inRange (hc r) hb hch hpt, lowerOverlap_some (hc r) hb hj hm hl]
    rfl

end Sys2Proof.Machine
end

section
/-!
PROOF. The timing of a recorder stays lawful while a segment is processed (R43, R49, R62), and the gaps that a segment opens
fit the Gap List (R59).
-/

namespace Sys2Proof.Machine

open Sys2Proof

/-! ### Gaps opened (R20, R59) -/

/-- The staged change adds an entry to the Gap List. -/
def GapChange.opens : GapChange → Bool
  | .opening .. => true
  | .closing .. | .addLost .. => false

theorem applyGap_length (gs : List Gap) (c : GapChange) :
    (applyGap gs c).length = gs.length + [c].countP GapChange.opens := by
  cases c <;> simp [applyGap, GapChange.opens]

/-- R20: the Gap List grows by the entries opened. -/
theorem applyGaps_length (gs : List Gap) (cs : List GapChange) :
    (applyGaps gs cs).length = gs.length + cs.countP GapChange.opens := by
  induction cs generalizing gs with
  | nil => rfl
  | cons c cs ih =>
    refine (ih (applyGap gs c)).trans ?_
    rw [applyGap_length, Nat.add_assoc, ← List.countP_append, List.singleton_append]

/-! ### Lawful timings, state by state (R43, R49, R62) -/

theorem lawful_unanchored {t : Timing} (hs : t.state = .unanchored) :
    t.lawful ↔ t.pendingList.length ≤ 64 ∧ t.running = none ∧ t.baseQuality = none := by
  simp [Timing.lawful, hs, Config.pendingCapacity]

theorem lawful_anchored {t : Timing} (hs : t.state = .anchored) :
    t.lawful ↔
      t.pendingList = [] ∧ t.running.isSome = true ∧ t.baseQuality.isSome = true ∧ t.openGap = none := by
  simp only [Timing.lawful, hs, ne_eq, reduceCtorEq, not_false_eq_true, imp_false, not_not, iff_true, not_true,
    Bool.not_eq_true, Option.isSome_eq_false_iff, Option.isNone_iff_eq_none, and_iff_right_iff_imp]
  rintro ⟨h, -⟩
  simp [h]

theorem lawful_estimating {t : Timing} (hs : t.state = .estimating) :
    t.lawful ↔ t.pendingList = [] ∧ t.running.isSome = true ∧ t.baseQuality = none := by
  simp only [Timing.lawful, hs, ne_eq, reduceCtorEq, not_false_eq_true, imp_false, not_not, iff_true, iff_false,
    implies_true, and_true, Bool.not_eq_true, Option.isSome_eq_false_iff, Option.isNone_iff_eq_none,
    and_iff_right_iff_imp]
  rintro ⟨h, -⟩
  simp [h]

/-- The law turns on the state, the pending list, the open gap, and what is present. -/
theorem Timing.lawful.of_same {t u : Timing} (h : t.lawful) (hs : u.state = t.state)
    (hl : u.pendingList = t.pendingList) (hr : u.running.isSome = t.running.isSome)
    (hb : u.baseQuality.isSome = t.baseQuality.isSome) (hg : u.openGap = t.openGap) : u.lawful := by
  unfold Timing.lawful at *
  rwa [hs, hl, hr, hb, hg]

/-- R49: only an UNANCHORED recorder has entries pending. -/
theorem Timing.lawful.none_pending {t : Timing} (h : t.lawful) (hs : t.state ≠ .unanchored) : t.pendingList = [] :=
  not_not.1 fun hl => hs (h.2.1 hl)

/-! ### One operation of processing -/

/-- What processing keeps: a lawful timing, and openings staged that are counted and fit the Gap List. -/
def Proc.Fits (v : ProcEnv) (p : Proc) : Prop :=
  p.timing.lawful ∧ p.gapChanges.countP GapChange.opens = p.opened ∧ v.gapsHeld + p.opened ≤ Config.gapCapacity

/-- An operation that opens no gap fits when it leaves a lawful timing. -/
theorem Proc.Fits.of_lawful {v : ProcEnv} {p y : Proc} (h : p.Fits v) (ht : y.timing.lawful)
    (hg : y.gapChanges.countP GapChange.opens = p.gapChanges.countP GapChange.opens) (ho : y.opened = p.opened) :
    y.Fits v := ⟨ht, by rw [hg, ho]; exact h.2.1, by rw [ho]; exact h.2.2⟩

/-- R44: time advances. -/
theorem advance_fits {v : ProcEnv} {p : Proc} (h : p.Fits v) (n : Nat) : (p.advance v n).Fits v := by
  by_cases hs : p.timing.state = .unanchored
  · by_cases hl : p.timing.pendingList = []
    · rwa [advance_idle v n hs hl]
    · rw [advance_pending v n hs hl]
      exact h
  · rw [advance_timed v n hs]
    exact h.of_lawful (h.1.of_same rfl rfl Option.isSome_map rfl rfl) rfl rfl

/-- R48: an entry is placed. -/
theorem place_fits {v : ProcEnv} {p : Proc} (h : p.Fits v) (x : PendingEntry) (r : Nat) (q : Quality) :
    (p.place v x r q).Fits v := by
  obtain ⟨-, hg, ho, ht, -⟩ := place_placed v x p r q
  exact h.of_lawful (by rw [ht]; exact h.1) (by rw [hg]) ho

/-- R56: a spill leaves the recorder ESTIMATING with nothing pending. -/
theorem spillFrom_lawful (v : ProcEnv) (base : Nat) {p : Proc} (h : p.timing.lawful)
    (hs : p.timing.state = .unanchored) : (p.spillFrom v base).timing.lawful := by
  obtain ⟨-, -, hb⟩ := (lawful_unanchored hs).1 h
  obtain ⟨-, -, -, ht, -⟩ := spillFrom_spills v base p
  rw [ht, lawful_estimating rfl]
  exact ⟨rfl, rfl, hb⟩

theorem spill_fits {v : ProcEnv} {p z : Proc} (h : p.Fits v) (hs : p.timing.state = .unanchored)
    (hz : p.spill v = some z) : z.Fits v := by
  obtain ⟨b, -, rfl⟩ := Option.map_eq_some_iff.1 hz
  obtain ⟨-, hg, ho, -⟩ := spillFrom_spills v b p
  exact h.of_lawful (spillFrom_lawful v b h.1 hs) (by rw [hg]) ho

/-- R49: an entry joins a pending list that has room. -/
theorem join_fits {v : ProcEnv} {p : Proc} (h : p.Fits v) (x : PendingEntry) (hs : p.timing.state = .unanchored)
    (hl : p.timing.pendingList.length < 64) : (p.join x).Fits v := by
  obtain ⟨-, hr, hb⟩ := (lawful_unanchored hs).1 h.1
  refine h.of_lawful ((lawful_unanchored ?_).2 ⟨?_, hr, hb⟩) rfl rfl
  · exact hs
  · show (_ ++ [_]).length ≤ 64
    rw [List.length_append]
    exact hl

/-- R49, R52, R55: a mapped CHANGE. -/
theorem change_fits {v : ProcEnv} {x : PendingEntry} {p y : Proc} (h : p.Fits v) (hy : p.change v x = some y) :
    y.Fits v := by
  unfold Proc.change at hy
  split at hy
  next hs =>
    split at hy
    next hl =>
      cases hy
      exact join_fits h x hs hl
    next =>
      obtain ⟨z, hz, rfl⟩ := Option.map_eq_some_iff.1 hy
      exact place_fits (spill_fits h hs hz) _ _ _
  all_goals
    cases hy
    exact place_fits h _ _ _

/-- R46, R47, R53: an anchor gives a recorder its running time and base quality. -/
theorem reanchor_lawful {v : ProcEnv} {a : Nat} {q : AnchorQuality} {p : Proc} (h : p.timing.lawful)
    (hs : p.timing.state = .anchored) : (p.reanchor v a q).timing.lawful := by
  obtain ⟨hl, -, -, hg⟩ := (lawful_anchored hs).1 h
  obtain ⟨-, -, -, ht, -⟩ := reanchor_anchors v a q p
  rw [ht]
  refine (lawful_anchored ?_).2 ⟨hl, rfl, rfl, hg⟩
  exact hs

/-- R61: closings are no openings. -/
theorem countP_closings (cs : List GapChange) (is : List Nat) (t : Nat) :
    (cs ++ is.map fun i => GapChange.closing i t).countP GapChange.opens = cs.countP GapChange.opens := by
  rw [List.countP_append, Nat.add_eq_left, List.countP_eq_zero]
  intro c hc
  obtain ⟨i, -, rfl⟩ := List.mem_map.1 hc
  exact Bool.false_ne_true

/-- R50, R53, R55: an ANCHOR. -/
theorem anchor_fits {v : ProcEnv} {p : Proc} (h : p.Fits v) (a : Nat) (q : AnchorQuality) : (p.anchor v a q).Fits v := by
  obtain ⟨-, hg, ho, ht, -⟩ := reanchor_anchors v a q p
  cases hs : p.timing.state with
  | unanchored =>
    obtain ⟨-, hg, ho, ht, -⟩ := anchor_unanchored_places v a q hs
    refine h.of_lawful ?_ (by rw [hg]; exact countP_closings _ _ _) ho
    rw [ht, lawful_anchored rfl]
    exact ⟨rfl, rfl, rfl, rfl⟩
  | anchored =>
    rw [anchor_anchored v a q hs]
    exact h.of_lawful (reanchor_lawful h.1 hs) (by rw [hg]) ho
  | estimating =>
    rw [anchor_estimating v a q hs]
    dsimp only
    rw [closedAnchored_eq, ht]
    refine h.of_lawful ((lawful_anchored rfl).2 ⟨?_, rfl, rfl, rfl⟩) ?_ ho
    · exact h.1.none_pending (by rw [hs]; decide)
    · exact (countP_closings _ _ _).trans (congrArg _ hg)

/-- R51, R54, R55, R59: the lost count of a LOSS is noted in a gap; an opening fits the Gap List. -/
theorem lossNoted_counted {v : ProcEnv} {p : Proc} (h : p.Fits v) (cause : Cause) (lost : Option Nat) :
    let y := p.lossNoted v cause lost
    y.gapChanges.countP GapChange.opens = y.opened ∧ v.gapsHeld + y.opened ≤ Config.gapCapacity := by
  obtain ⟨-, hc, hcap⟩ := h
  obtain ⟨-, -, hadd, hopen, hfull⟩ := lossNoted_notes v cause lost p
  dsimp only
  by_cases ho : p.timing.state = .anchored ∨ p.timing.openGap = none
  · rcases lt_or_ge (v.gapsHeld + p.opened) 512 with hlt | hge
    · obtain ⟨hg, -, hn, -⟩ := hopen ho hlt
      rw [hg, hn, List.countP_append, hc]
      exact ⟨rfl, hlt⟩
    · obtain ⟨hg, -, hn, -⟩ := hfull ho hge
      rw [hg, hn]
      exact ⟨hc, hcap⟩
  · obtain ⟨i, hi⟩ := Option.ne_none_iff_exists'.1 (not_or.1 ho).2
    obtain ⟨hg, -, hn, -⟩ := hadd i ho hi
    rw [hg, hn, List.countP_append, hc]
    exact ⟨rfl, hcap⟩

/-- R51, R54, R55: a LOSS with no spill due leaves the recorder UNANCHORED. -/
theorem loss_noted_fits {v : ProcEnv} {cause : Cause} {lost : Option Nat} {p y : Proc} (h : p.Fits v)
    (hn : p.timing.state ≠ .unanchored ∨ p.timing.pendingList = []) (hy : p.loss v cause lost = some y) : y.Fits v := by
  have counted := lossNoted_counted h cause lost
  obtain ⟨-, ht, -⟩ := lossNoted_notes v cause lost p
  rw [loss_noted v cause lost hn] at hy
  cases hy
  split_ifs with hs
  · refine ⟨?_, counted⟩
    rw [ht]
    refine (lawful_unanchored ?_).2 ((lawful_unanchored hs).1 h.1)
    exact hs
  · refine ⟨(lawful_unanchored rfl).2 ⟨?_, rfl, rfl⟩, counted⟩
    show (p.lossNoted v cause lost).timing.pendingList.length ≤ 64
    rw [ht]
    exact h.1.1

/-- R51, R54, R55, R58: a LOSS, or a segment gap. -/
theorem loss_fits {v : ProcEnv} {cause : Cause} {lost : Option Nat} {p y : Proc} (h : p.Fits v)
    (hy : p.loss v cause lost = some y) : y.Fits v := by
  by_cases hn : p.timing.state ≠ .unanchored ∨ p.timing.pendingList = []
  · exact loss_noted_fits h hn hy
  · obtain ⟨hs, hl⟩ := not_or.1 hn
    rw [not_not] at hs
    cases hz : p.spill v with
    | none =>
      rw [loss_pending v cause lost hs hl, hz] at hy
      cases hy
    | some z =>
      rw [loss_spilled v cause lost hs hl hz] at hy
      exact loss_noted_fits (spill_fits h hs hz) (.inl (by rw [(spill_estimating hz).1]; decide)) hy

/-! ### Entries, and a whole segment (R40, R45, R67) -/

theorem entry_fits {v : ProcEnv} {seq idx : Nat} {p y : Proc} {x : SegEntry} (h : p.Fits v)
    (hy : p.entry v seq idx x = some y) : y.Fits v := by
  cases x with
  | anchor d a q =>
    cases hy
    exact anchor_fits (advance_fits h d) a q
  | step d n =>
    cases hy
    exact advance_fits (advance_fits h d) n
  | change d ch st cause =>
    cases hp : v.pointOf ch with
    | none =>
      rw [entry_unmapped v seq idx p d ch st cause hp] at hy
      cases hy
      exact advance_fits h d
    | some pt =>
      rw [entry_mapped v seq idx p d ch st cause hp] at hy
      exact change_fits (advance_fits h d) hy
  | loss d lost => exact loss_fits (advance_fits h d) hy

theorem entries_fits {v : ProcEnv} {seq i : Nat} {p y : Proc} {es : List SegEntry} (h : p.Fits v)
    (hy : p.entries v seq i es = .ok y) : y.Fits v := by
  induction es generalizing i p with
  | nil =>
    cases hy
    exact h
  | cons x es ih =>
    cases hx : p.entry v seq i x with
    | none =>
      rw [entries_stop hx es] at hy
      cases hy
    | some q =>
      rw [entries_next hx es] at hy
      exact ih (entry_fits h hx) hy

theorem runEntries_fits {v : ProcEnv} {seq : Nat} {p y : Proc} {es : List SegEntry} (h : p.Fits v)
    (hy : runEntries v seq p es = .commit y) : y.Fits v := by
  cases he : p.entries v seq 0 es with
  | error j =>
    rw [runEntries_error he] at hy
    cases hy
  | ok q =>
    rw [runEntries_ok he] at hy
    cases hy
    exact entries_fits (y := q) h he

/-- R67: what the processing of a segment hands over. -/
theorem processSegment_fits {v : ProcEnv} {w : Work} {g : QueuedSegment} {y : Proc} (h : (Proc.begin w).Fits v)
    (hy : processSegment v w g = .commit y) : y.Fits v := by
  unfold processSegment at hy
  split at hy
  · cases hy
  · split at hy
    · exact runEntries_fits h hy
    · dsimp only at hy
      split_ifs at hy
      · exact runEntries_fits h hy
      · split at hy
        · cases hy
        · exact runEntries_fits (loss_fits h ‹_›) hy

/-! ### The spill of SEAL_HISTORY (R8) -/

/-- R8: the spill of a recorder with entries pending leaves it a lawful timing, with a base or without. -/
theorem sealSpill_lawful {s : State} {r : RecId} (h : (s.contexts.get r).timing.lawful)
    (hl : (s.contexts.get r).timing.pendingList ≠ []) : (sealSpill s r).timing.lawful := by
  have hs := h.2.1 hl
  unfold sealSpill
  dsimp only
  split
  · exact spillFrom_lawful _ _ h hs
  · obtain ⟨-, hr, hb⟩ := (lawful_unanchored hs).1 h
    refine (lawful_unanchored ?_).2 ⟨Nat.zero_le _, hr, hb⟩
    exact hs

end Sys2Proof.Machine
end

section
/-!
PROOF. The commands that leave the Merge Engine, the Gap List, every recorder's timing and RESET_N alone.
-/

namespace Sys2Proof.Machine

open Sys2Proof

/-! ### What leaves the ingest side alone -/

/-- From `s` to `t` the Merge Engine, the Gap List, RESET_N and every recorder's timing are the same. -/
def SameIngest (s t : State) : Prop :=
  t.merge = s.merge ∧ t.gaps = s.gaps ∧ t.resetLow = s.resetLow ∧
    ∀ r : RecId, (t.contexts.get r).timing = (s.contexts.get r).timing

theorem SameIngest.refl (s : State) : SameIngest s s := ⟨rfl, rfl, rfl, fun _ => rfl⟩

theorem SameIngest.trans {a b c : State} (h : SameIngest a b) (g : SameIngest b c) : SameIngest a c := by
  obtain ⟨h1, h2, h3, h4⟩ := h
  obtain ⟨g1, g2, g3, g4⟩ := g
  exact ⟨g1.trans h1, g2.trans h2, g3.trans h3, fun r => (g4 r).trans (h4 r)⟩

theorem SameIngest.withLive (s : State) (l : Live) : SameIngest s (s.withLive l) := SameIngest.refl s

theorem SameIngest.clock (s : State) (c : Clock) : SameIngest s { s with clock := c } := SameIngest.refl s

theorem SameIngest.tables (s : State) (t : Tables) : SameIngest s { s with tables := t } := SameIngest.refl s

/-- A recorder's context changes beside its timing. -/
theorem SameIngest.context (s : State) (r : RecId) {c : Context} (h : c.timing = (s.contexts.get r).timing) (l : Live) :
    SameIngest s { s with contexts := vput s.contexts r c, live := l } := by
  refine ⟨rfl, rfl, rfl, fun q => ?_⟩
  show ((vput s.contexts r c).get q).timing = _
  rw [vput_get]
  split_ifs with e
  · exact e ▸ h
  · rfl

/-- R75: a merge of causes leaves the timing. -/
theorem mergeCauses_sameIngest (r : RecId) (x : CauseSet) (s : State) : SameIngest s (mergeCauses r x s) :=
  SameIngest.context s r (by rfl) _

theorem takeRequest_sameIngest {rule : List Byte → State → Response × State} (h : ∀ b u, SameIngest u (rule b u).2)
    (p : PortId) (code : Nat) (s : State) : SameIngest s (takeRequest p code rule s) := by
  rcases takeRequest_cases p code rule s with e | ⟨tag, body, -, e⟩ <;> rw [e]
  · exact SameIngest.refl s
  · exact h body (s.popRequest p)

/-- A request whose rule changes nothing. -/
theorem takeRequest_same_sameIngest {rule : List Byte → State → Response × State} (h : ∀ b u, (rule b u).2 = u)
    (p : PortId) (code : Nat) (s : State) : SameIngest s (takeRequest p code rule s) :=
  takeRequest_sameIngest (fun b u => by rw [h b u]; exact SameIngest.refl u) p code s

theorem cursorRequest_sameIngest {rule : Slot → Cursor → State → Response × State} (h : LiveOnly rule) (p : PortId)
    (slot : Nat) (b : List Byte) (s : State) : SameIngest s (cursorRequest p slot rule b s).2 := by
  rcases cursorRequest_cases p slot rule b s with ⟨code, e⟩ | ⟨k, c, -, -, e⟩ <;> rw [e]
  · exact SameIngest.refl s
  · obtain ⟨l, hl⟩ := h k c s
    rw [hl]
    exact SameIngest.withLive s l

/-- A request on a cursor whose rule changes the live part alone. -/
theorem takeCursorRequest_sameIngest {rule : Slot → Cursor → State → Response × State} (h : LiveOnly rule) (p : PortId)
    (code slot : Nat) (s : State) : SameIngest s (takeRequest p code (cursorRequest p slot rule) s) :=
  takeRequest_sameIngest (cursorRequest_sameIngest h p slot) p code s

/-! ### The Common Clock -/

theorem notifyLost_sameIngest (l : Option PortId) (s : State) : SameIngest s (notifyLost l s) := by
  unfold notifyLost
  split <;> exact SameIngest.refl s

theorem notifyGranted_sameIngest (s : State) : SameIngest s (notifyGranted s) := by
  unfold notifyGranted
  split <;> exact SameIngest.refl s

theorem passClock_sameIngest (l : Option PortId) (s : State) : SameIngest s (passClock l s) :=
  (((SameIngest.clock s s.clock.passOn).trans (notifyLost_sameIngest l _)).trans (notifyGranted_sameIngest _)).trans
    (SameIngest.withLive _ _)

theorem endClockRole_sameIngest (p : PortId) (s : State) : SameIngest s (endClockRole p s) := by
  unfold endClockRole
  split_ifs
  · exact passClock_sameIngest _ s
  · exact SameIngest.clock s _

theorem clockAdvance_sameIngest (s : State) : SameIngest s (clockAdvance s) := by
  unfold clockAdvance
  dsimp only
  split_ifs <;> exact SameIngest.refl s

theorem idle_sameIngest (s : State) : SameIngest s (idle s) := by
  unfold idle
  split_ifs
  · exact SameIngest.refl s
  · exact clockAdvance_sameIngest s
  · exact passClock_sameIngest _ s
  · exact SameIngest.clock s _

theorem clockRun_sameIngest (s : State) : SameIngest s (clockRun s) := by
  unfold clockRun
  split
  · exact SameIngest.refl s
  · split_ifs <;> exact SameIngest.refl s

theorem clockPause_sameIngest (s : State) : SameIngest s (clockPause s) := by
  unfold clockPause
  split <;> exact SameIngest.refl s

theorem clockRate_sameIngest (n : Nat) (s : State) : SameIngest s (clockRate n s) := by
  unfold clockRate
  dsimp only
  split_ifs <;> exact SameIngest.refl s

/-- A control request whose rule leaves the ingest side. -/
theorem takeControlRequest_sameIngest (ok : Bool) {rule : State → State} (h : ∀ s, SameIngest s (rule s)) (p : PortId)
    (code : Nat) (s : State) : SameIngest s (takeRequest p code (controlRequest p ok rule) s) := by
  refine takeRequest_sameIngest (fun b u => ?_) p code s
  unfold controlRequest
  split_ifs
  · exact SameIngest.refl u
  · exact h u
  · exact SameIngest.refl u

theorem takeClock_sameIngest (p : PortId) (w : Bool) (b : List Byte) (s : State) :
    SameIngest s (takeClock p w b s).2 := by
  unfold takeClock
  dsimp only
  split
  · exact SameIngest.refl s
  · split_ifs <;> exact SameIngest.refl s

theorem releaseClock_sameIngest (p : PortId) (b : List Byte) (s : State) : SameIngest s (releaseClock p b s).2 := by
  unfold releaseClock
  split_ifs
  · exact passClock_sameIngest _ s
  · exact SameIngest.clock s _
  · exact SameIngest.refl s

/-! ### The other requests, the links and the cursors' own events -/

theorem subscribe_sameIngest (p : PortId) (set : Byte) (b : List Byte) (s : State) :
    SameIngest s (subscribe p set b s).2 := by
  unfold subscribe
  split <;> exact SameIngest.refl s

theorem setAttentionMask_sameIngest (b : List Byte) (s : State) : SameIngest s (setAttentionMask b s).2 := by
  unfold setAttentionMask
  split
  · exact SameIngest.refl s
  · exact SameIngest.context s _ (by rfl) _

theorem clearCauses_sameIngest (b : List Byte) (s : State) : SameIngest s (clearCauses b s).2 := by
  unfold clearCauses
  split
  · exact SameIngest.refl s
  · exact SameIngest.context s _ (by rfl) s.live

theorem beginCollection_sameIngest (b : List Byte) (s : State) : SameIngest s (beginCollection b s).2 := by
  unfold beginCollection
  split_ifs
  · exact SameIngest.refl s
  · split <;> exact SameIngest.refl s

theorem tableWrite_sameIngest (w : Tables → Option (RespBody × Tables)) (b : List Byte) (s : State) :
    SameIngest s (tableWrite w b s).2 := by
  rcases tableWrite_cases w b s with h | ⟨t, h⟩ <;> rw [h]
  · exact SameIngest.refl s
  · exact SameIngest.tables s t

theorem setEventZero_sameIngest (t : Nat) (b : List Byte) (s : State) : SameIngest s (setEventZero t b s).2 := by
  unfold setEventZero
  split_ifs
  · exact SameIngest.tables s _
  · exact SameIngest.refl s

theorem openCursor_sameIngest (p : PortId) (b : List Byte) (s : State) : SameIngest s (openCursor p b s).2 := by
  unfold openCursor
  split_ifs
  · exact SameIngest.refl s
  · split <;> exact SameIngest.refl s

theorem linkUp_sameIngest (p : PortId) (s : State) : ∃ t, execLinkUp p s = .next t ∧ SameIngest s t := by
  refine ⟨_, rfl, ?_⟩
  split_ifs <;> exact SameIngest.refl s

theorem linkDown_sameIngest (p : PortId) (s : State) : ∃ t, execLinkDown p s = .next t ∧ SameIngest s t := by
  refine ⟨_, rfl, ?_⟩
  split_ifs
  · exact SameIngest.refl s
  · exact endClockRole_sameIngest p _

theorem markInEdge_sameIngest (s : State) : ∃ t, execMarkInEdge s = .next t ∧ SameIngest s t := by
  refine ⟨_, rfl, ?_⟩
  split_ifs <;> exact SameIngest.refl s

theorem frameReceive_sameIngest (p : PortId) (bytes : List Byte) (s : State) :
    ∃ t, execFrameReceive p bytes s = .next t ∧ SameIngest s t := by
  refine ⟨_, rfl, ?_⟩
  split_ifs <;> exact SameIngest.refl s

theorem frameError_sameIngest (p : PortId) (s : State) : ∃ t, execFrameError p s = .next t ∧ SameIngest s t := by
  refine ⟨_, rfl, ?_⟩
  split
  · split_ifs <;> exact SameIngest.refl s
  · exact SameIngest.refl s

theorem unknownRequest_sameIngest (p : PortId) (s : State) :
    ∃ t, execUnknownRequest p s = .next t ∧ SameIngest s t := by
  refine ⟨_, rfl, ?_⟩
  split
  · split_ifs <;> exact SameIngest.refl s
  · exact SameIngest.refl s

theorem sendDelivery_sameIngest (p : PortId) (s : State) : SameIngest s (sendDelivery p s) := by
  unfold sendDelivery
  split
  · exact SameIngest.refl s
  · split
    · exact SameIngest.refl s
    · split <;> exact SameIngest.refl s

theorem frameTransmit_sameIngest (p : PortId) (s : State) :
    ∃ t, execFrameTransmit p s = .next t ∧ SameIngest s t := by
  refine ⟨_, rfl, ?_⟩
  split_ifs
  · exact SameIngest.refl s
  · unfold transmit
    split
    · split_ifs <;> exact SameIngest.refl s
    · exact SameIngest.refl s
    · exact SameIngest.refl s
    · exact sendDelivery_sameIngest p s

/-- An event of one cursor. -/
theorem slotEvent_sameIngest (s : State) (l : Live) : SameIngest s (if s.resetLow then s else s.withLive l) := by
  split_ifs <;> exact SameIngest.refl s

theorem execClockAdvance_sameIngest (s : State) : ∃ t, execClockAdvance s = .next t ∧ SameIngest s t := by
  refine ⟨_, rfl, ?_⟩
  split_ifs
  · exact SameIngest.refl s
  · exact clockAdvance_sameIngest { s with clock := s.clock.spend (s.clock.pacing.getD 0) }

theorem execLeaseExpiry_sameIngest (s : State) : ∃ t, execLeaseExpiry s = .next t ∧ SameIngest s t := by
  refine ⟨_, rfl, ?_⟩
  split_ifs
  · exact SameIngest.refl s
  · exact passClock_sameIngest _ s

/-- The commands that may write the Merge Engine, the Gap List, a recorder's timing or RESET_N. -/
def WritesIngest : Instr → Bool
  | .powerOn | .resetAssert | .resetRelease | .sealHistory _ | .clearHistory _ | .loadSegment _ | .cancelSegment ..
  | .segmentCommit | .segmentFailure => true
  | _ => false

/-- Every other command leaves them. -/
theorem exec_sameIngest {i : Instr} (hi : WritesIngest i = false) (s : State) :
    ∃ t, exec i s = .next t ∧ SameIngest s t := by
  cases i with
  | powerOn | resetAssert | resetRelease | sealHistory | clearHistory | loadSegment | cancelSegment | segmentCommit
  | segmentFailure => cases hi
  | linkUp p => exact linkUp_sameIngest p s
  | linkDown p => exact linkDown_sameIngest p s
  | markInEdge => exact markInEdge_sameIngest s
  | frameReceive p bytes => exact frameReceive_sameIngest p bytes s
  | frameError p => exact frameError_sameIngest p s
  | unknownRequest p => exact unknownRequest_sameIngest p s
  | frameTransmit p => exact frameTransmit_sameIngest p s
  | describe p => exact ⟨_, rfl, takeRequest_same_sameIngest (fun _ _ => rfl) p 1 s⟩
  | subscribe p set => exact ⟨_, rfl, takeRequest_sameIngest (subscribe_sameIngest p set) p 2 s⟩
  | beginCollection p => exact ⟨_, rfl, takeRequest_sameIngest beginCollection_sameIngest p 3 s⟩
  | readRecords p st e n z => exact ⟨_, rfl, takeRequest_same_sameIngest (readRecords_same st e n z) p 6 s⟩
  | readGaps p a n r => exact ⟨_, rfl, takeRequest_same_sameIngest (readGaps_same a n r) p 7 s⟩
  | setPoint p first xs => exact ⟨_, rfl, takeRequest_sameIngest (tableWrite_sameIngest _) p 8 s⟩
  | setRecorder p r e u o d f => exact ⟨_, rfl, takeRequest_sameIngest (tableWrite_sameIngest _) p 9 s⟩
  | setMapBlock p r b x => exact ⟨_, rfl, takeRequest_sameIngest (tableWrite_sameIngest _) p 10 s⟩
  | setStudy p e w t v => exact ⟨_, rfl, takeRequest_sameIngest (tableWrite_sameIngest _) p 11 s⟩
  | setEventZero p t => exact ⟨_, rfl, takeRequest_sameIngest (setEventZero_sameIngest t) p 12 s⟩
  | readRecorder p r => exact ⟨_, rfl, takeRequest_same_sameIngest (readRecorder_same r) p 15 s⟩
  | setAttentionMask p => exact ⟨_, rfl, takeRequest_sameIngest setAttentionMask_sameIngest p 16 s⟩
  | clearCauses p => exact ⟨_, rfl, takeRequest_sameIngest clearCauses_sameIngest p 17 s⟩
  | openCursor p => exact ⟨_, rfl, takeRequest_sameIngest (openCursor_sameIngest p) p 18 s⟩
  | readCursor p slot => exact ⟨_, rfl, takeRequest_same_sameIngest (readCursor_same slot) p 19 s⟩
  | setCursor p slot x =>
      exact ⟨_, rfl, takeRequest_sameIngest (fun b => cursorRequest_sameIngest (setCursor_liveOnly x b) p slot b) p _ s⟩
  | seek p slot t ch => exact ⟨_, rfl, takeCursorRequest_sameIngest (seek_liveOnly t ch) p _ slot s⟩
  | play p slot re => exact ⟨_, rfl, takeCursorRequest_sameIngest (play_liveOnly re) p _ slot s⟩
  | step p slot n => exact ⟨_, rfl, takeCursorRequest_sameIngest (stepRequest_liveOnly n) p _ slot s⟩
  | hold p slot => exact ⟨_, rfl, takeCursorRequest_sameIngest hold_liveOnly p _ slot s⟩
  | stop p slot => exact ⟨_, rfl, takeCursorRequest_sameIngest stop_liveOnly p _ slot s⟩
  | arm p slot => exact ⟨_, rfl, takeCursorRequest_sameIngest arm_liveOnly p _ slot s⟩
  | snapshot p slot a b st => exact ⟨_, rfl, takeCursorRequest_sameIngest (snapshot_liveOnly a b st) p _ slot s⟩
  | closeCursor p slot => exact ⟨_, rfl, takeCursorRequest_sameIngest closeCursor_liveOnly p _ slot s⟩
  | fetch p slot => exact ⟨_, rfl, takeCursorRequest_sameIngest fetch_liveOnly p _ slot s⟩
  | probe p slot tag pt t => exact ⟨_, rfl, takeCursorRequest_sameIngest (probeRequest_liveOnly tag pt t) p _ slot s⟩
  | setWatch p slot w args a => exact ⟨_, rfl, takeCursorRequest_sameIngest (setWatch_liveOnly w args a) p _ slot s⟩
  | clearWatch p slot w => exact ⟨_, rfl, takeCursorRequest_sameIngest (clearWatch_liveOnly w) p _ slot s⟩
  | readWatches p slot ws => exact ⟨_, rfl, takeCursorRequest_sameIngest (readWatches_liveOnly ws) p _ slot s⟩
  | readTrail p slot => exact ⟨_, rfl, takeCursorRequest_sameIngest readTrail_liveOnly p _ slot s⟩
  | takeClock p w => exact ⟨_, rfl, takeRequest_sameIngest (takeClock_sameIngest p w) p 35 s⟩
  | releaseClock p => exact ⟨_, rfl, takeRequest_sameIngest (releaseClock_sameIngest p) p 36 s⟩
  | readClock p => exact ⟨_, rfl, takeRequest_same_sameIngest (fun _ _ => rfl) p 37 s⟩
  | clockRun p => exact ⟨_, rfl, takeControlRequest_sameIngest true clockRun_sameIngest p _ s⟩
  | clockPause p => exact ⟨_, rfl, takeControlRequest_sameIngest true clockPause_sameIngest p _ s⟩
  | clockSet p t =>
      exact ⟨_, rfl, takeControlRequest_sameIngest (rule := clockSet t) _ (fun u => SameIngest.refl u) p _ s⟩
  | clockRate p n => exact ⟨_, rfl, takeControlRequest_sameIngest _ (clockRate_sameIngest n) p _ s⟩
  | setLease p n =>
      exact ⟨_, rfl, takeControlRequest_sameIngest (rule := setLease n) _ (fun u => SameIngest.clock u _) p _ s⟩
  | clockAdvance => exact execClockAdvance_sameIngest s
  | leaseExpiry => exact execLeaseExpiry_sameIngest s
  | stepRead k => exact ⟨_, rfl, slotEvent_sameIngest s _⟩
  | rebuildRead k => exact ⟨_, rfl, slotEvent_sameIngest s _⟩
  | probeRead k => exact ⟨_, rfl, slotEvent_sameIngest s _⟩
  | itemWritten k => exact ⟨_, rfl, slotEvent_sameIngest s _⟩

end Sys2Proof.Machine
end

section
/-!
PROOF. The laws of the recorder contexts, the Merge Engine and the Gap List at the commands that queue, finish, cancel or clear
a segment, or spill a pending list (R7, R8, R11, R12, R64 to R73).
-/

namespace Sys2Proof.Machine

open Sys2Proof

/-! ### The Segment Queue and the finished lists (R64, R66, R72) -/

/-- R64, R72: the queue and the finished lists within capacity. -/
def ListsFit (s : State) : Prop :=
  s.merge.queue.length ≤ Config.queueCapacity ∧
    ∀ p : PortId, (s.merge.finished.get p).length ≤ Config.finishedCapacity

/-- R43, R62: every timing lawful and the Gap List within capacity. -/
def TimingsFit (s : State) : Prop :=
  (∀ r : RecId, (s.contexts.get r).timing.lawful) ∧ s.gaps.length ≤ Config.gapCapacity

theorem IngestLaw.listsFit {s : State} (h : IngestLaw s) : ListsFit s := ⟨h.1.1, h.1.2.1⟩

theorem IngestLaw.timingsFit {s : State} (h : IngestLaw s) : TimingsFit s := h.2

theorem TimingsFit.of_same {s t : State} (h : TimingsFit s)
    (hc : ∀ r : RecId, (t.contexts.get r).timing = (s.contexts.get r).timing) (hg : t.gaps = s.gaps) : TimingsFit t :=
  ⟨fun r => by rw [hc r]; exact h.1 r, by rw [hg]; exact h.2⟩

theorem IngestLaw.of_same {s t : State} (h : IngestLaw s) (e : SameIngest s t) : IngestLaw t := by
  obtain ⟨hm, hg, hr, hc⟩ := e
  refine ⟨?_, h.timingsFit.of_same hc hg⟩
  have := h.1
  unfold MergeLaw at *
  rw [hm, hr]
  simpa only [hc] using this

/-- R64: with no segment queued and none in progress, what the contexts hold does not matter. -/
theorem mergeLaw_of_empty {s : State} (h : ListsFit s) (hq : s.merge.queue = []) (hw : s.merge.work = none) : MergeLaw s := by
  refine ⟨h.1, h.2, fun _ => ?_, fun g hg => ?_⟩
  · rw [hq, hw]; rfl
  · rw [hq] at hg; cases hg

/-- R66: the oldest queued segment is in progress from its recorder's committed timing. -/
theorem takeNext_mergeLaw {s : State} (h : ListsFit s) : MergeLaw s.takeNext := by
  refine ⟨h.1, h.2, fun _ => ?_, fun g hg w hw => ?_⟩
  · show (s.merge.queue.head?.map _).isSome = !s.merge.queue.isEmpty
    cases s.merge.queue <;> rfl
  · have head : s.merge.queue.head? = some g := hg
    have work : s.merge.queue.head?.map (fun g => workOf (s.contexts.get g.recorder)) = some w := hw
    rw [head] at work
    cases work
    exact ⟨rfl, rfl, rfl⟩

/-- R72: a finished list holds its last 8. -/
theorem pushFinished_length (x : FinishedSegment) {l : List FinishedSegment} (h : l.length ≤ Config.finishedCapacity) :
    (pushFinished x l).length ≤ Config.finishedCapacity := by
  unfold pushFinished
  rw [List.length_drop, List.length_append, List.length_singleton]
  omega

theorem recordFinished_listsFit {s : State} (g : QueuedSegment) (o : SegOutcome) (h : ListsFit s) :
    ListsFit (recordFinished g o s) := by
  refine ⟨h.1, fun p => ?_⟩
  show ((vput s.merge.finished g.port _).get p).length ≤ _
  rw [vput_get]
  split_ifs
  · exact pushFinished_length _ (h.2 g.port)
  · exact h.2 p

/-! ### The end of the segment in progress (R68, R69) -/

theorem finishInProgress_timings (g : QueuedSegment) (o : SegOutcome) (a b : Nat) (i : Option Nat) (x : CauseSet)
    (s : State) (r : RecId) :
    ((finishInProgress g o a b i x s).contexts.get r).timing = (s.contexts.get r).timing := by
  rw [finishInProgress_context]
  split_ifs <;> rfl

theorem finishInProgress_ingestLaw {s : State} (hl : ListsFit s) (ht : TimingsFit s) (g : QueuedSegment)
    (o : SegOutcome) (a b : Nat) (i : Option Nat) (x : CauseSet) : IngestLaw (finishInProgress g o a b i x s) := by
  refine ⟨takeNext_mergeLaw ?_, ht.of_same (finishInProgress_timings g o a b i x s) rfl⟩
  have left : ListsFit { s with merge := { s.merge with queue := s.merge.queue.drop 1 } } :=
    ⟨(List.drop_sublist 1 _).length_le.trans hl.1, hl.2⟩
  exact recordFinished_listsFit g o left

theorem failSegment_ingestLaw {s : State} (h : IngestLaw s) (g : QueuedSegment) (o : SegOutcome) (i : Option Nat) :
    IngestLaw (failSegment g o i s) := finishInProgress_ingestLaw h.listsFit h.timingsFit g o 0 0 i _

/-- R12: the recorder takes the timing processed and the Gap List the openings counted. -/
theorem installCommit_timingsFit {s : State} (h : TimingsFit s) {r : RecId} {x : Proc} (hx : x.Fits (s.procEnv r))
    (acc : CommitAcc) : TimingsFit (installCommit r x acc s) := by
  obtain ⟨ht, hc, hcap⟩ := hx
  refine ⟨fun q => ?_, ?_⟩
  · show ((vput s.contexts r _).get q).timing.lawful
    rw [vput_get]
    split_ifs
    · exact ht
    · exact h.1 q
  · show (applyGaps s.gaps x.gapChanges).length ≤ _
    rw [applyGaps_length, hc]
    exact hcap

/-- R14, R15, R68: a commit handed over is refused or taken. -/
theorem handOver_ingestLaw {s : State} (h : IngestLaw s) {g : QueuedSegment} {x : Proc}
    (hx : x.Fits (s.procEnv g.recorder)) : IngestLaw (handOver g x s) := by
  unfold handOver
  split_ifs
  · exact failSegment_ingestLaw h g _ _
  · exact failSegment_ingestLaw h g _ _
  · rw [commitSegment_eq]
    have lists : ∀ acc, ListsFit (installCommit g.recorder x acc s) := fun _ => h.listsFit
    have timings := installCommit_timingsFit h.timingsFit hx
    exact (finishInProgress_ingestLaw (lists _) (timings _) g _ _ _ _ _).of_same (SameIngest.withLive _ _)

/-- R66, R67: the segment in progress is processed from the committed timing, with nothing staged, so that what it hands
over fits. -/
theorem verdict_fits {s : State} (h : IngestLaw s) {g : QueuedSegment} {x : Proc}
    (hv : s.verdict = some (g, .commit x)) : x.Fits (s.procEnv g.recorder) := by
  obtain ⟨rest, w, hq, hw, he⟩ := verdict_iff.1 hv
  obtain ⟨⟨-, -, -, hwork⟩, htimings, hgaps⟩ := h
  obtain ⟨hworking, -, hstaged⟩ := hwork g (by rw [hq]; rfl) w hw
  refine processSegment_fits (w := w) (g := g) ⟨?_, ?_, hgaps⟩ he.symm
  · show w.working.lawful
    rw [hworking]
    exact htimings g.recorder
  · show w.stagedGaps.countP GapChange.opens = 0
    rw [hstaged]
    rfl

theorem segmentCommit_ingestLaw {s : State} (h : IngestLaw s) : ∃ t, execSegmentCommit s = .next t ∧ IngestLaw t := by
  refine ⟨_, rfl, ?_⟩
  split_ifs
  · exact h
  · split
    · exact handOver_ingestLaw h (verdict_fits h ‹_›)
    · exact h

theorem segmentFailure_ingestLaw {s : State} (h : IngestLaw s) : ∃ t, execSegmentFailure s = .next t ∧ IngestLaw t := by
  refine ⟨_, rfl, ?_⟩
  split_ifs
  · exact h
  · split
    · exact failSegment_ingestLaw h _ _ _
    · exact h

/-! ### LOAD_SEGMENT and CANCEL_SEGMENT (R65, R73) -/

/-- R64: a segment joins behind the one in progress, or is taken into processing at once. -/
theorem joinQueue_ingestLaw {s : State} (h : IngestLaw s) (g : QueuedSegment)
    (hroom : s.merge.queue.length < Config.queueCapacity) : IngestLaw (joinQueue g s) := by
  have lists : ListsFit { s with merge := { s.merge with queue := s.merge.queue ++ [g] } } :=
    ⟨by rw [List.length_append]; exact hroom, h.1.2.1⟩
  unfold joinQueue
  dsimp only
  split_ifs with hq
  · exact ⟨takeNext_mergeLaw lists, h.timingsFit⟩
  · obtain ⟨⟨-, -, hprog, hwork⟩, timings⟩ := h
    refine ⟨⟨lists.1, lists.2, fun hr => ?_, fun f hf => hwork f ?_⟩, timings⟩
    · rw [hprog hr]
      cases hs : s.merge.queue with
      | nil => exact absurd hs hq
      | cons => rfl
    · rwa [List.head?_append_of_ne_nil _ hq] at hf

theorem loadSegment_ingestLaw (p : PortId) (b : List Byte) {s : State} (h : IngestLaw s) :
    IngestLaw (loadSegment p b s).2 := by
  unfold loadSegment
  split
  · exact h
  · split
    · exact h
    · split
      · exact h
      · split
        · exact h
        · exact joinQueue_ingestLaw h _ (not_le.1 ‹_›)

/-- R73: the entry in progress is abandoned and the next is taken, or a waiting one is removed. -/
theorem cancelAt_ingestLaw {s : State} (h : IngestLaw s) (i : Nat) (g : QueuedSegment) : IngestLaw (cancelAt i g s) := by
  have left : ListsFit { s with merge := { s.merge with queue := s.merge.queue.eraseIdx i } } :=
    ⟨(List.length_eraseIdx_le _ i).trans h.1.1, h.1.2.1⟩
  have lists := recordFinished_listsFit g .cancelled left
  unfold cancelAt
  dsimp only
  split_ifs with hi
  · exact ⟨takeNext_mergeLaw lists, h.timingsFit⟩
  · obtain ⟨j, rfl⟩ := Nat.exists_eq_succ_of_ne_zero hi
    obtain ⟨⟨-, -, hprog, hwork⟩, timings⟩ := h
    refine ⟨⟨lists.1, lists.2, fun hr => (hprog hr).trans ?_, fun f hf => hwork f ?_⟩, timings⟩
    · show _ = !(s.merge.queue.eraseIdx (j + 1)).isEmpty
      cases s.merge.queue <;> rfl
    · change f ∈ (s.merge.queue.eraseIdx (j + 1)).head? at hf
      cases hq : s.merge.queue <;> rw [hq] at hf <;> exact hf

theorem cancelSegment_ingestLaw (p : PortId) (r q : Nat) (b : List Byte) {s : State} (h : IngestLaw s) :
    IngestLaw (cancelSegment p r q b s).2 := by
  unfold cancelSegment
  split
  · exact h
  · split
    · exact h
    · split
      · exact h
      · exact cancelAt_ingestLaw h _ _

/-! ### SEAL_HISTORY and CLEAR_HISTORY (R7, R8, R11) -/

/-- R8: one recorder's context after its spill. -/
theorem sealContext_timingsFit {s : State} (h : TimingsFit s) {b : State} {r : RecId} (hr : (sealSpill b r).timing.lawful)
    (rej : List Candidate) (full : List RecId) : TimingsFit (sealContext b rej full s r) := by
  have spilled : TimingsFit
      { s with contexts := vput s.contexts r { s.contexts.get r with timing := (sealSpill b r).timing } } := by
    refine ⟨fun q => ?_, h.2⟩
    show ((vput s.contexts r _).get q).timing.lawful
    rw [vput_get]
    split_ifs
    · exact hr
    · exact h.1 q
  obtain ⟨-, hg, -, hc⟩ := mergeCauses_sameIngest r (sealRaised (sealSpill b r) r rej full)
    { s with contexts := vput s.contexts r { s.contexts.get r with timing := (sealSpill b r).timing } }
  exact spilled.of_same hc hg

theorem sealContexts_timingsFit {s : State} (h : TimingsFit s) {b : State} {rs : List RecId}
    (hrs : ∀ r ∈ rs, (sealSpill b r).timing.lawful) (rej : List Candidate) (full : List RecId) :
    TimingsFit (rs.foldl (sealContext b rej full) s) := by
  induction rs generalizing s with
  | nil => exact h
  | cons r rs ih =>
    exact ih (sealContext_timingsFit h (hrs r List.mem_cons_self) rej full)
      fun q hq => hrs q (List.mem_cons_of_mem _ hq)

theorem sealContexts_merge (b : State) (rej : List Candidate) (full : List RecId) (rs : List RecId) (s : State) :
    (rs.foldl (sealContext b rej full) s).merge = s.merge := by
  induction rs generalizing s with
  | nil => rfl
  | cons r rs ih => exact ih _

/-- R8: the recorders spilled have entries pending. -/
theorem spillSlots_lawful {s : State} (h : TimingsFit s) : ∀ r ∈ spillSlots s, (sealSpill s r).timing.lawful := by
  intro r hr
  refine sealSpill_lawful (h.1 r) fun hl => ?_
  have := (List.mem_filter.1 hr).2
  rw [hl] at this
  cases this

/-- R7, R8: the contexts as the whole spill leaves them, in the store it seals. -/
def sealSpilled (s : State) : State :=
  (spillSlots s).foldl (sealContext s (sealSplit s).2 (sealCommit s).full)
    { s with history := { (sealCommit s).history.settle with phase := .sealed } }

theorem sealHistory_sameIngest (s : State) : SameIngest (sealSpilled s) (sealHistory s) := by
  have notified : SameIngest (sealSpilled s) (notifyStore (sealSpilled s)) := SameIngest.withLive _ _
  have handed : ∀ r ts u, SameIngest u (handOut r ts u) := fun _ _ u => SameIngest.withLive u _
  exact (notified.trans (handed _ _ _)).trans (SameIngest.withLive _ _)

/-- R7: a seal finds the queue empty, so that its spills reach no segment in progress. -/
theorem sealHistory_ingestLaw {s : State} (h : IngestLaw s) (hr : s.resetLow = false) (hq : s.merge.queue = []) :
    IngestLaw (sealHistory s) := by
  have hw : s.merge.work = none := by
    have := h.1.2.2.1 hr
    rw [hq] at this
    simpa using this
  have hm : (sealSpilled s).merge = s.merge := sealContexts_merge _ _ _ _ _
  have before : TimingsFit { s with history := { (sealCommit s).history.settle with phase := .sealed } } := h.timingsFit
  have timings : TimingsFit (sealSpilled s) := sealContexts_timingsFit before (spillSlots_lawful h.timingsFit) _ _
  refine IngestLaw.of_same ⟨mergeLaw_of_empty ?_ (by rw [hm]; exact hq) (by rw [hm]; exact hw), timings⟩
    (sealHistory_sameIngest s)
  unfold ListsFit
  rw [hm]
  exact h.listsFit

theorem takeRequest_ingestLaw {rule : List Byte → State → Response × State}
    (hrule : ∀ b u, u.resetLow = false → IngestLaw u → IngestLaw (rule b u).2) (p : PortId) (code : Nat) {s : State}
    (h : IngestLaw s) : IngestLaw (takeRequest p code rule s) := by
  rcases takeRequest_cases p code rule s with e | ⟨tag, body, taken, e⟩ <;> rw [e]
  · exact h
  · exact hrule body (s.popRequest p) (taken_port taken).1 h

theorem sealRequest_ingestLaw (b : List Byte) {s : State} (hr : s.resetLow = false) (h : IngestLaw s) :
    IngestLaw (sealRequest b s).2 := by
  unfold sealRequest
  split_ifs with hp hq
  · exact h
  · exact h
  · exact sealHistory_ingestLaw h hr (not_not.1 hq)

/-- The contexts and the Gap List after a clear or a reset (R11, R43). -/
theorem reset_timingsFit {t : State} (hc : t.contexts = Vector.replicate 64 Context.reset) (hg : t.gaps = []) :
    TimingsFit t := by
  refine ⟨fun r => ?_, by rw [hg]; exact Nat.zero_le _⟩
  rw [hc, vreplicate_get]
  exact (lawful_unanchored rfl).2 ⟨Nat.zero_le _, rfl, rfl⟩

theorem clearSegment_listsFit {s : State} (h : ListsFit s) (gs : List QueuedSegment) :
    ListsFit (gs.foldl clearSegment s) := by
  induction gs generalizing s with
  | nil => exact h
  | cons g gs ih => exact ih (recordFinished_listsFit g .cleared h)

theorem clearRequest_ingestLaw (b : List Byte) {s : State} (h : IngestLaw s) : IngestLaw (clearRequest b s).2 := by
  unfold clearRequest
  split_ifs
  · exact h
  · have lists := clearSegment_listsFit h.listsFit s.merge.queue
    exact ⟨mergeLaw_of_empty ⟨Nat.zero_le _, lists.2⟩ rfl rfl, reset_timingsFit rfl rfl⟩

/-! ### The lines (R183) -/

theorem reset_ingestLaw (pending : List Instr) : IngestLaw { State.reset with pending := pending } := by
  refine ⟨mergeLaw_of_empty ⟨Nat.zero_le _, fun p => ?_⟩ rfl rfl, reset_timingsFit rfl rfl⟩
  show ((Vector.replicate 4 []).get p).length ≤ _
  rw [vreplicate_get]
  exact Nat.zero_le _

/-- R183: while RESET_N is low no segment is in progress (log 11). -/
theorem resetAssert_ingestLaw {s : State} (h : IngestLaw s) : ∃ t, execResetAssert s = .next t ∧ IngestLaw t :=
  ⟨_, rfl, ⟨h.1.1, h.1.2.1, fun hr => absurd hr Bool.noConfusion, fun _ _ _ hw => nomatch hw⟩, h.timingsFit⟩

/-! ### Every step -/

/-- Every command keeps the laws. -/
theorem exec_ingestLaw (i : Instr) {s : State} (h : IngestLaw s) : ∃ t, exec i s = .next t ∧ IngestLaw t := by
  by_cases hw : WritesIngest i = true
  · cases i with
    | powerOn => exact ⟨_, rfl, reset_ingestLaw _⟩
    | resetAssert => exact resetAssert_ingestLaw h
    | resetRelease =>
      refine ⟨_, rfl, ?_⟩
      split_ifs
      · exact reset_ingestLaw _
      · exact h
    | sealHistory p => exact ⟨_, rfl, takeRequest_ingestLaw (fun b _ hr hu => sealRequest_ingestLaw b hr hu) p 4 h⟩
    | clearHistory p => exact ⟨_, rfl, takeRequest_ingestLaw (fun b _ _ hu => clearRequest_ingestLaw b hu) p 5 h⟩
    | loadSegment p => exact ⟨_, rfl, takeRequest_ingestLaw (fun b _ _ hu => loadSegment_ingestLaw p b hu) p 13 h⟩
    | cancelSegment p r q =>
      exact ⟨_, rfl, takeRequest_ingestLaw (fun b _ _ hu => cancelSegment_ingestLaw p r q b hu) p 14 h⟩
    | segmentCommit => exact segmentCommit_ingestLaw h
    | segmentFailure => exact segmentFailure_ingestLaw h
    | _ => cases hw
  · obtain ⟨t, he, hsame⟩ := exec_sameIngest (by simpa using hw) s
    exact ⟨t, he, h.of_same hsame⟩

/-- Settles O57: what processing hands over fits, since it starts from a lawful committed timing; and the next segment is taken
from the timing that stands committed whenever one leaves the front of the queue. -/
theorem stepKeepsIngestLaw : Obligations.StepKeepsIngestLaw := by
  unfold Obligations.StepKeepsIngestLaw
  intro s t hs h
  exact step_keeps (P := IngestLaw) (fun _ _ hu => hu) (fun u hu => hu.of_same (idle_sameIngest u))
    (fun i _ hu => exec_ingestLaw i hu) hs h

end Sys2Proof.Machine
end

section
/-!
PROOF. The form check of a segment's body (R41, R188, Tables 11-3 and 11-4): one entry's units and what they read as, the body
unit by unit, the index of the first entry at fault.
-/

namespace Sys2Proof.Machine

open Sys2Proof

/-! ### Fields read back (R185) -/

/-- A field of `n` bytes is what `le` writes of its number. -/
theorem le_leValue (bs : List Byte) : le bs.length (leValue bs) = bs := by
  induction bs with
  | nil => rfl
  | cons b bs ih =>
    have hb := b.isLt
    rw [List.length_cons, le, leValue, show (b.toNat + 256 * leValue bs) / 256 = leValue bs by omega, ih]
    congr 1
    apply BitVec.eq_of_toNat_eq
    rw [BitVec.toNat_ofNat]
    omega

/-- The bytes from an offset on are a field and what stands behind it. -/
theorem drop_eq_field {bs : List Byte} {off n : Nat} (h : off + n ≤ bs.length) :
    bs.drop off = le n (leAt bs off n) ++ bs.drop (off + n) := by
  have hn : ((bs.drop off).take n).length = n := by rw [List.length_take, List.length_drop]; omega
  have read : le n (leAt bs off n) = (bs.drop off).take n := by
    have := le_leValue ((bs.drop off).take n)
    rwa [hn] at this
  rw [read, ← List.drop_drop, List.take_append_drop]

theorem byteAt_eq_leAt {bs : List Byte} {i : Nat} (h : i < bs.length) : byteAt bs i = leAt bs i 1 := by
  rw [leAt, List.drop_eq_getElem_cons h, List.take_succ_cons, List.take_zero, byteAt, List.getD_eq_getElem _ _ h]
  rfl

/-! ### Value codes (Table 11-2) -/

theorem swStateOf_eq_some {n : Nat} {st : SwState} : swStateOf n = some st ↔ n = swStateCode st := by
  unfold swStateOf
  split <;> cases st <;> simp_all [swStateCode]

theorem anchorQualityOf_eq_some {n : Nat} {q : AnchorQuality} : anchorQualityOf n = some q ↔ n = q.code := by
  unfold anchorQualityOf
  split <;> cases q <;> simp_all [AnchorQuality.code]

/-- R187: 0 is absence. -/
theorem nonzero_getD (n : Nat) : (nonzero n).getD 0 = n := by
  unfold nonzero
  split_ifs with h
  · exact h.symm
  · rfl

theorem nonzero_of_range {o : Option Nat} {m : Nat} (h : ∀ x ∈ o, 1 ≤ x ∧ x ≤ m) : nonzero (o.getD 0) = o := by
  cases o with
  | none => rfl
  | some x => exact if_neg (Nat.one_le_iff_ne_zero.1 (h x rfl).1)

theorem mem_nonzero {n m x : Nat} (hn : n ≤ m) (h : x ∈ nonzero n) : 1 ≤ x ∧ x ≤ m := by
  unfold nonzero at h
  split_ifs at h with h0
  · cases h
  · cases h
    omega

/-! ### One entry (Table 11-4) -/

/-- R188: the bytes that an entry takes, by its first byte. -/
def entryWidth (bs : List Byte) : Nat := if byteAt bs 0 = 1 then 16 else 8

/-- What the bytes of one entry read as; none where a code or a reserved field is at fault. -/
def entryOf (bs : List Byte) : Option SegEntry :=
  if byteAt bs 0 = 1 then anchorOf (bs.take 8) (bs.drop 8) else singleOf bs

theorem units_length (x : SegEntry) : x.units.length = entryWidth x.units := by
  cases x <;> rfl

theorem entryOf_units_anchor {d a : Nat} (q : AnchorQuality) (hd : d < 65536) (ha : a < 2 ^ 48) :
    entryOf (SegEntry.anchor d a q).units = some (.anchor d a q) := by
  generalize hu : (SegEntry.anchor d a q).units = u
  have hkind : byteAt u 0 = 1 := hu ▸ rfl
  have hreserved : leAt (u.take 8) 4 4 = 0 ∧ leAt (u.drop 8) 6 2 = 0 := hu ▸ ⟨rfl, rfl⟩
  have hquality : byteAt (u.take 8) 1 = q.code := hu ▸ by cases q <;> rfl
  have hdelta : leAt (u.take 8) 2 2 = d := hu ▸ leValue_le_of_lt (n := 2) hd
  have htime : leAt (u.drop 8) 0 6 = a := hu ▸ leValue_le_of_lt (n := 6) ha
  rw [entryOf, if_pos hkind, anchorOf, hquality, hdelta, htime, anchorQualityOf_eq_some.2 rfl, if_neg (by simp [hreserved])]
  rfl

theorem entryOf_units_step {d n : Nat} (hd : d < 65536) (hn : n < 2 ^ 32) :
    entryOf (SegEntry.step d n).units = some (.step d n) := by
  generalize hu : (SegEntry.step d n).units = u
  have hkind : byteAt u 0 = 2 := hu ▸ rfl
  have hreserved : byteAt u 1 = 0 := hu ▸ rfl
  have hdelta : leAt u 2 2 = d := hu ▸ leValue_le_of_lt (n := 2) hd
  have hadvance : leAt u 4 4 = n := hu ▸ leValue_le_of_lt (n := 4) hn
  simp [entryOf, singleOf, hkind, hreserved, hdelta, hadvance]

theorem entryOf_units_change {d ch : Nat} (st : SwState) {cause : Option Nat} (hd : d < 65536) (hch : ch < 65536)
    (hc : ∀ x ∈ cause, 1 ≤ x ∧ x ≤ 255) :
    entryOf (SegEntry.change d ch st cause).units = some (.change d ch st cause) := by
  have hlt : cause.getD 0 < 256 := by
    cases cause with
    | none => decide
    | some x => exact Nat.lt_succ_of_le (hc x rfl).2
  generalize hu : (SegEntry.change d ch st cause).units = u
  have hkind : byteAt u 0 = 3 := hu ▸ rfl
  have hreserved : byteAt u 7 = 0 := hu ▸ rfl
  have hcode : byteAt u 1 = swStateCode st := hu ▸ by cases st <;> rfl
  have hstate : swStateOf (byteAt u 1) = some st := swStateOf_eq_some.2 hcode
  have hdelta : leAt u 2 2 = d := hu ▸ leValue_le_of_lt (n := 2) hd
  have hchannel : leAt u 4 2 = ch := hu ▸ leValue_le_of_lt (n := 2) hch
  have hcause : byteAt u 6 = cause.getD 0 := hu ▸ Nat.mod_eq_of_lt hlt
  simp [entryOf, singleOf, hkind, hreserved, hstate, hdelta, hchannel, hcause, nonzero_of_range hc]

theorem entryOf_units_loss {d : Nat} {lost : Option Nat} (hd : d < 65536) (hl : ∀ x ∈ lost, 1 ≤ x ∧ x ≤ 65535) :
    entryOf (SegEntry.loss d lost).units = some (.loss d lost) := by
  have hlt : lost.getD 0 < 65536 := by
    cases lost with
    | none => decide
    | some x => exact Nat.lt_succ_of_le (hl x rfl).2
  generalize hu : (SegEntry.loss d lost).units = u
  have hkind : byteAt u 0 = 4 := hu ▸ rfl
  have hreserved : byteAt u 1 = 0 ∧ leAt u 6 2 = 0 := hu ▸ ⟨rfl, rfl⟩
  have hdelta : leAt u 2 2 = d := hu ▸ leValue_le_of_lt (n := 2) hd
  have hlost : leAt u 4 2 = lost.getD 0 := hu ▸ leValue_le_of_lt (n := 2) hlt
  simp [entryOf, singleOf, hkind, hreserved, hdelta, hlost, nonzero_of_range hl]

/-- Table 11-4: the units of an entry in range read as that entry. -/
theorem entryOf_units {x : SegEntry} (h : x.inRange) : entryOf x.units = some x := by
  cases x with
  | anchor d a q => exact entryOf_units_anchor q h.1 h.2
  | step d n => exact entryOf_units_step h.1 h.2
  | change d ch st cause => exact entryOf_units_change st h.1 h.2.1 h.2.2
  | loss d lost => exact entryOf_units_loss h.1 h.2

/-- A unit of 8 bytes as its fields: two of one byte, then what stands from offset 2. -/
theorem unit_eq_fields {u : List Byte} (h : u.length = 8) :
    u = le 1 (byteAt u 0) ++ (le 1 (byteAt u 1) ++ (le 2 (leAt u 2 2) ++ u.drop 4)) := by
  have bound : ∀ {off n : Nat}, off + n ≤ 8 → off + n ≤ u.length := fun hn => by omega
  rw [byteAt_eq_leAt (bound (n := 1) (by omega)), byteAt_eq_leAt (bound (n := 1) (by omega)),
    ← drop_eq_field (off := 2) (bound (by omega)), ← drop_eq_field (off := 1) (bound (by omega)),
    ← drop_eq_field (off := 0) (bound (by omega)), List.drop_zero]

/-- Table 11-4: an entry of one unit, read back. -/
theorem singleOf_some {u : List Byte} {x : SegEntry} (hl : u.length = 8) (h : singleOf u = some x) :
    u = x.units ∧ x.inRange := by
  have hf := unit_eq_fields hl
  have bound : ∀ {off n : Nat}, off + n ≤ 8 → off + n ≤ u.length := fun hn => by omega
  have hd : leAt u 2 2 < 65536 := leAt_lt u 2 2
  have stop : u.drop 8 = [] := List.drop_of_length_le hl.le
  unfold singleOf at h
  split at h
  next hk =>
    split_ifs at h with h1
    cases h
    refine ⟨?_, hd, leAt_lt u 4 4⟩
    rw [hk, h1, drop_eq_field (n := 4) (bound (by omega)), stop] at hf
    simpa [SegEntry.units] using hf
  next hk =>
    split_ifs at h with h7
    obtain ⟨st, hst, rfl⟩ := Option.map_eq_some_iff.1 h
    refine ⟨?_, hd, leAt_lt u 4 2, fun x hx => mem_nonzero (Nat.le_of_lt_succ (byteAt_lt u 6)) hx⟩
    rw [hk, swStateOf_eq_some.1 hst, drop_eq_field (n := 2) (bound (by omega)), drop_eq_field (n := 1) (bound (by omega)),
      drop_eq_field (n := 1) (bound (by omega)), stop, ← byteAt_eq_leAt (by omega), ← byteAt_eq_leAt (by omega), h7] at hf
    simpa [SegEntry.units, nonzero_getD] using hf
  next hk =>
    split_ifs at h with h16
    cases h
    refine ⟨?_, hd, fun x hx => mem_nonzero (Nat.le_of_lt_succ (leAt_lt u 4 2)) hx⟩
    rw [hk, h16.1, drop_eq_field (n := 2) (bound (by omega)), drop_eq_field (n := 2) (bound (by omega)), h16.2, stop] at hf
    simpa [SegEntry.units, nonzero_getD] using hf
  next => cases h

/-- Table 11-4: an ANCHOR's two units, read back. -/
theorem anchorOf_some {u v : List Byte} {x : SegEntry} (hu : u.length = 8) (hv : v.length = 8) (hk : byteAt u 0 = 1)
    (h : anchorOf u v = some x) : u ++ v = x.units ∧ x.inRange := by
  unfold anchorOf at h
  split_ifs at h with hr
  obtain ⟨q, hq, rfl⟩ := Option.map_eq_some_iff.1 h
  obtain ⟨h4, h6⟩ := not_or.1 hr
  refine ⟨?_, leAt_lt u 2 2, leAt_lt v 0 6⟩
  have hf := unit_eq_fields hu
  rw [hk, anchorQualityOf_eq_some.1 hq, drop_eq_field (n := 4) (by omega), not_not.1 h4,
    List.drop_of_length_le hu.le] at hf
  have hg : v = le 6 (leAt v 0 6) ++ v.drop 6 := drop_eq_field (off := 0) (n := 6) (by omega)
  rw [drop_eq_field (n := 2) (by omega), not_not.1 h6, List.drop_of_length_le hv.le] at hg
  refine (congrArg₂ (· ++ ·) hf hg).trans ?_
  simp [SegEntry.units]

/-- Table 11-4: bytes of an entry's width read as an entry exactly when they are its units, in range. -/
theorem entryOf_eq_some {u : List Byte} {x : SegEntry} (hu : u.length = entryWidth u) :
    entryOf u = some x ↔ u = x.units ∧ x.inRange := by
  refine ⟨fun h => ?_, fun ⟨hx, hr⟩ => hx ▸ entryOf_units hr⟩
  unfold entryOf at h
  unfold entryWidth at hu
  split_ifs at h hu with hk
  · have hk' : byteAt (u.take 8) 0 = 1 := by cases u <;> exact hk
    have := anchorOf_some (by rw [List.length_take]; omega) (by rw [List.length_drop]; omega) hk' h
    rwa [List.take_append_drop] at this
  · exact singleOf_some hu h

end Sys2Proof.Machine
end

section
/-!
PROOF. The form check of a whole body and the sequence check (R41, R42, R58, R69, R71, R188): the body cut into what its
entries take, the index of the first entry at fault, and what processing makes of each.
-/

namespace Sys2Proof.Machine

open Sys2Proof

/-! ### The body cut into units of 8 bytes -/

/-- Any fuel that suffices gives the same units. -/
theorem unitsOf_fuel {n m : Nat} {bs : List Byte} (hn : bs.length ≤ n) (hm : bs.length ≤ m) :
    unitsOf n bs = unitsOf m bs := by
  induction n generalizing m bs with
  | zero =>
    obtain rfl := List.length_eq_zero_iff.1 (Nat.le_zero.1 hn)
    cases m <;> rfl
  | succ n ih =>
    cases bs with
    | nil => cases m <;> rfl
    | cons b bs =>
      obtain ⟨m, rfl⟩ : ∃ k, m = k + 1 := ⟨m - 1, by rw [List.length_cons] at hm; omega⟩
      rw [List.length_cons] at hn hm
      rw [unitsOf, unitsOf, ih (m := m)] <;> rw [List.length_drop, List.length_cons] <;> omega

theorem unitsOf_append {u : List Byte} (hu : u.length = 8) (rest : List Byte) :
    unitsOf (u ++ rest).length (u ++ rest) = u :: unitsOf rest.length rest := by
  cases u with
  | nil => cases hu
  | cons b bs =>
    have take : ((b :: bs) ++ rest).take 8 = b :: bs := List.take_left' hu
    have drop : ((b :: bs) ++ rest).drop 8 = rest := List.drop_left' hu
    rw [List.cons_append] at *
    rw [List.length_cons, unitsOf, take, drop, unitsOf_fuel _ le_rfl]
    rw [List.length_append]
    omega

theorem unitsOf_short {bs : List Byte} (h0 : bs ≠ []) (h : bs.length ≤ 8) : unitsOf bs.length bs = [bs] := by
  cases bs with
  | nil => exact absurd rfl h0
  | cons b bs =>
    rw [List.length_cons, unitsOf, List.take_of_length_le h, List.drop_of_length_le h]
    cases bs <;> rfl

/-! ### The body read entry by entry (R188) -/

/-- R188: what the entry bytes of a body read as, and whether they exhaust it. -/
def readBody (bs : List Byte) : List (Option SegEntry) × Bool := readUnits (unitsOf bs.length bs)

theorem readUnits_single {u : List Byte} (us : List (List Byte)) (hu : u.length = 8) (hk : byteAt u 0 ≠ 1) :
    readUnits (u :: us) = (singleOf u :: (readUnits us).1, (readUnits us).2) := by
  cases us with
  | nil => simp [readUnits, hu, hk]
  | cons v rest => simp [readUnits, hk]

theorem entryWidth_take (bs : List Byte) : entryWidth (bs.take (entryWidth bs)) = entryWidth bs := by
  cases bs with
  | nil => rfl
  | cons b bs =>
    have : 0 < entryWidth (b :: bs) := by unfold entryWidth; split_ifs <;> omega
    obtain ⟨n, hn⟩ := Nat.exists_eq_succ_of_ne_zero this.ne'
    rw [hn, List.take_succ_cons]
    exact hn

/-- R188: the bytes of an entry read as that entry, and the rest as if it stood alone. -/
theorem readBody_part {u : List Byte} (hu : u.length = entryWidth u) (rest : List Byte) :
    readBody (u ++ rest) = (entryOf u :: (readBody rest).1, (readBody rest).2) := by
  unfold readBody entryOf
  unfold entryWidth at hu
  split_ifs at hu with hk
  · have hhead : (u.take 8).length = 8 := by rw [List.length_take]; omega
    have htail : (u.drop 8).length = 8 := by rw [List.length_drop]; omega
    have hk' : byteAt (u.take 8) 0 = 1 := by cases u <;> exact hk
    rw [← List.take_append_drop 8 u, List.append_assoc, unitsOf_append hhead, unitsOf_append htail,
      List.take_append_drop, if_pos hk]
    simp [readUnits, hk', htail]
  · rw [unitsOf_append hu, readUnits_single _ hu hk, if_neg hk]

/-- R188: bytes that end within an entry are not exhausted. -/
theorem readBody_stub {bs : List Byte} (h0 : bs ≠ []) (h : bs.length < entryWidth bs) : (readBody bs).2 = false := by
  unfold readBody
  unfold entryWidth at h
  rcases Nat.lt_or_ge 8 bs.length with hl | hl
  · split_ifs at h with hk
    · have hhead : (bs.take 8).length = 8 := by rw [List.length_take]; omega
      have hk' : byteAt (bs.take 8) 0 = 1 := by cases bs <;> exact hk
      have hlen := List.length_drop (i := 8) (l := bs)
      have htail : (bs.drop 8).length ≠ 8 := by omega
      have hne : bs.drop 8 ≠ [] := fun e => by rw [e, List.length_nil] at hlen; omega
      rw [← List.take_append_drop 8 bs, unitsOf_append hhead, unitsOf_short hne (by omega)]
      simp only [readUnits, hk', if_pos, htail, ne_eq, not_false_eq_true]
    · omega
  · rw [unitsOf_short h0 hl]
    have : bs.length ≠ 8 ∨ byteAt bs 0 = 1 := by split_ifs at h with hk <;> omega
    simp only [readUnits, if_pos this]

/-- R188: a body that entries exhaust reads as those entries. -/
theorem readBody_entryUnits {bs : List Byte} {parts : List (List Byte)} (h : EntryUnits bs parts) :
    readBody bs = (parts.map entryOf, true) := by
  obtain ⟨rfl, hw⟩ := h
  induction parts with
  | nil => rfl
  | cons u parts ih =>
    rw [List.flatten_cons, readBody_part (hw u List.mem_cons_self), ih fun x hx => hw x (List.mem_cons_of_mem _ hx)]
    rfl

/-- R188: a body read to its end is exhausted by entries. -/
theorem entryUnits_of_read {bs : List Byte} (h : (readBody bs).2 = true) : ∃ parts, EntryUnits bs parts := by
  induction hn : bs.length using Nat.strong_induction_on generalizing bs with
  | _ n ih =>
    by_cases h0 : bs = []
    · exact ⟨[], h0, fun u hu => nomatch hu⟩
    · have hw : entryWidth bs ≤ bs.length := by
        by_contra hlt
        rw [readBody_stub h0 (not_le.1 hlt)] at h
        cases h
      have hpos : 0 < entryWidth bs := by unfold entryWidth; split_ifs <;> omega
      have hu : (bs.take (entryWidth bs)).length = entryWidth (bs.take (entryWidth bs)) := by
        rw [entryWidth_take, List.length_take]
        omega
      rw [← List.take_append_drop (entryWidth bs) bs, readBody_part hu] at h
      obtain ⟨parts, hb, hp⟩ := ih _ (by rw [List.length_drop]; omega) h rfl
      refine ⟨bs.take (entryWidth bs) :: parts, ?_, ?_⟩
      · rw [List.flatten_cons, ← hb, List.take_append_drop]
      · exact List.forall_mem_cons.2 ⟨hu, hp⟩

/-- R188: a body read from its first unit is cut in one way alone, as to the number of its entries. -/
theorem entryUnits_length_unique {bs : List Byte} {ps qs : List (List Byte)} (hp : EntryUnits bs ps)
    (hq : EntryUnits bs qs) : ps.length = qs.length := by
  have := (readBody_entryUnits hp).symm.trans (readBody_entryUnits hq)
  simpa using congrArg (fun x => x.1.length) this

/-- R188: entries take whole units. -/
theorem entryUnits_dvd {bs : List Byte} {parts : List (List Byte)} (h : EntryUnits bs parts) : 8 ∣ bs.length := by
  obtain ⟨rfl, hw⟩ := h
  rw [List.length_flatten]
  refine List.dvd_sum fun n hn => ?_
  obtain ⟨u, hu, rfl⟩ := List.mem_map.1 hn
  rw [hw u hu]
  split_ifs <;> decide

/-- Entries laid out one behind the other exhaust their bytes. -/
theorem entryUnits_units (es : List SegEntry) : EntryUnits (es.flatMap SegEntry.units) (es.map SegEntry.units) := by
  refine ⟨List.flatMap_def, fun u hu => ?_⟩
  obtain ⟨x, -, rfl⟩ := List.mem_map.1 hu
  exact units_length x

theorem map_entryOf_units {es : List SegEntry} (h : ∀ x ∈ es, x.inRange) :
    (es.map SegEntry.units).map entryOf = es.map some := by
  rw [List.map_map]
  exact List.map_congr_left fun x hx => entryOf_units (h x hx)

/-- Table 11-4: parts that read as entries are the units of those entries, each in range. -/
theorem parts_eq_units {parts : List (List Byte)} {es : List SegEntry} (hw : ∀ u ∈ parts, u.length = entryWidth u)
    (h : parts.map entryOf = es.map some) : parts = es.map SegEntry.units ∧ ∀ x ∈ es, x.inRange := by
  induction parts generalizing es with
  | nil =>
    obtain rfl : es = [] := by simpa using h.symm
    exact ⟨rfl, fun x hx => nomatch hx⟩
  | cons u parts ih =>
    cases es with
    | nil => cases h
    | cons x es =>
      rw [List.map_cons, List.map_cons, List.cons.injEq] at h
      obtain ⟨hu, hparts⟩ := List.forall_mem_cons.1 hw
      obtain ⟨rfl, hx⟩ := (entryOf_eq_some hu).1 h.1
      obtain ⟨rfl, hes⟩ := ih hparts h.2
      exact ⟨rfl, List.forall_mem_cons.2 ⟨hx, hes⟩⟩

/-- Entries in range at the front of a body read as themselves. -/
theorem readBody_entries {es : List SegEntry} (h : ∀ x ∈ es, x.inRange) (rest : List Byte) :
    readBody (es.flatMap SegEntry.units ++ rest) = (es.map some ++ (readBody rest).1, (readBody rest).2) := by
  induction es with
  | nil => rfl
  | cons x es ih =>
    obtain ⟨hx, hes⟩ := List.forall_mem_cons.1 h
    rw [List.flatMap_cons, List.append_assoc, readBody_part (units_length x), ih hes, entryOf_units hx]
    rfl

/-! ### The first entry at fault (R71) -/

theorem firstFault_none (i : Nat) (es : List SegEntry) : firstFault i (es.map some) = none := by
  induction es generalizing i with
  | nil => rfl
  | cons x es ih => exact ih (i + 1)

theorem firstFault_some (i : Nat) (es : List SegEntry) (more : List (Option SegEntry)) :
    firstFault i (es.map some ++ none :: more) = some (i + es.length) := by
  induction es generalizing i with
  | nil => rfl
  | cons x es ih =>
    refine (ih (i + 1)).trans ?_
    rw [List.length_cons, Nat.add_assoc, Nat.add_comm 1]

/-- Entries read are all sound, or there is a first at fault. -/
theorem sound_or_fault (os : List (Option SegEntry)) :
    ∃ es : List SegEntry, os = es.map some ∨ ∃ more, os = es.map some ++ none :: more := by
  induction os with
  | nil => exact ⟨[], .inl rfl⟩
  | cons o os ih =>
    cases o with
    | none => exact ⟨[], .inr ⟨os, rfl⟩⟩
    | some x =>
      obtain ⟨es, rfl | ⟨more, rfl⟩⟩ := ih
      · exact ⟨x :: es, .inl rfl⟩
      · exact ⟨x :: es, .inr ⟨more, rfl⟩⟩

/-! ### The form check (R41, R71) -/

/-- R41, R188: a header without reserved bits declares 1 to 1,024 entries, and so many parts exhaust the body behind it. -/
structure LaidOut (body : List Byte) (parts : List (List Byte)) : Prop where
  header : 8 ≤ body.length
  reserved : byteAt body 1 = 0 ∧ leAt body 6 2 = 0
  declared : 1 ≤ leAt body 4 2 ∧ leAt body 4 2 ≤ 1024
  parted : EntryUnits (body.drop 8) parts
  counted : parts.length = leAt body 4 2

/-- The form check reads the bytes behind the header. -/
theorem readUnits_body (body : List Byte) : readUnits (unitsOf body.length (body.drop 8)) = readBody (body.drop 8) := by
  unfold readBody
  rw [unitsOf_fuel _ le_rfl]
  rw [List.length_drop]
  omega

theorem formCheck_not_laidOut {body : List Byte} (h : ∀ parts, ¬LaidOut body parts) : formCheck body = .error none := by
  unfold formCheck
  dsimp only
  rw [readUnits_body]
  refine if_pos ?_
  by_contra hc
  simp only [not_or, not_lt, not_not, Bool.not_eq_false] at hc
  obtain ⟨hlen, h1, h6, h0, hmax, hread, hcount⟩ := hc
  obtain ⟨parts, hparts⟩ := entryUnits_of_read hread
  refine h parts ⟨hlen, ⟨h1, h6⟩, ⟨Nat.one_le_iff_ne_zero.2 h0, hmax⟩, hparts, ?_⟩
  rw [readBody_entryUnits hparts] at hcount
  simpa using hcount

theorem formCheck_laidOut {body : List Byte} {parts : List (List Byte)} (h : LaidOut body parts) :
    formCheck body =
      (firstFault 0 (parts.map entryOf)).elim (.ok ((parts.map entryOf).filterMap id)) fun i => .error (some i) := by
  obtain ⟨hlen, ⟨h1, h6⟩, ⟨h0, hmax⟩, hparts, hcount⟩ := h
  unfold formCheck
  dsimp only
  rw [readUnits_body, readBody_entryUnits hparts]
  rw [if_neg]
  · cases firstFault 0 (parts.map entryOf) <;> rfl
  · have : leAt body 4 2 ≤ Config.maxEntries := hmax
    simp [hlen, h1, h6, Nat.one_le_iff_ne_zero.1 h0, this, hcount]

/-- R41: a body whose entries are all sound passes. -/
theorem formCheck_sound {body : List Byte} {parts : List (List Byte)} {es : List SegEntry} (h : LaidOut body parts)
    (he : parts.map entryOf = es.map some) : formCheck body = .ok es := by
  rw [formCheck_laidOut h, he, firstFault_none]
  simp

/-- R71: a body with an entry at fault is MALFORMED at the first one. -/
theorem formCheck_faulty {body : List Byte} {parts : List (List Byte)} {es : List SegEntry}
    {more : List (Option SegEntry)} (h : LaidOut body parts) (he : parts.map entryOf = es.map some ++ none :: more) :
    formCheck body = .error (some es.length) := by
  rw [formCheck_laidOut h, he, firstFault_some, Nat.zero_add]
  rfl

/-- What the form check can come to. -/
theorem formCheck_cases (body : List Byte) :
    formCheck body = .error none ∨
      ∃ parts es, LaidOut body parts ∧
        (parts.map entryOf = es.map some ∧ formCheck body = .ok es ∨
          ∃ more, parts.map entryOf = es.map some ++ none :: more ∧ formCheck body = .error (some es.length)) := by
  by_cases h : ∃ parts, LaidOut body parts
  · obtain ⟨parts, hl⟩ := h
    obtain ⟨es, he | ⟨more, he⟩⟩ := sound_or_fault (parts.map entryOf)
    · exact .inr ⟨parts, es, hl, .inl ⟨he, formCheck_sound hl he⟩⟩
    · exact .inr ⟨parts, es, hl, .inr ⟨more, he, formCheck_faulty hl he⟩⟩
  · exact .inl (formCheck_not_laidOut (not_exists.1 h))

/-- R41: the bodies that pass are those that lay out a sound header and the entries it declares. -/
theorem formCheck_ok_iff (body : List Byte) (es : List SegEntry) :
    formCheck body = .ok es ↔
      8 ≤ body.length ∧ byteAt body 1 = 0 ∧ leAt body 6 2 = 0 ∧ 1 ≤ es.length ∧ es.length ≤ 1024 ∧
        leAt body 4 2 = es.length ∧ (∀ x ∈ es, x.inRange) ∧ body.drop 8 = es.flatMap SegEntry.units := by
  constructor
  · intro h
    rcases formCheck_cases body with e | ⟨parts, fs, hl, ⟨he, e⟩ | ⟨more, -, e⟩⟩ <;> rw [e] at h
    · cases h
    · cases h
      obtain ⟨hlen, ⟨h1, h6⟩, ⟨h0, hmax⟩, hparts, hcount⟩ := hl
      obtain ⟨rfl, hr⟩ := parts_eq_units hparts.2 he
      rw [List.length_map] at hcount
      rw [← hcount] at h0 hmax
      exact ⟨hlen, h1, h6, h0, hmax, hcount.symm, hr, hparts.1.trans List.flatMap_def.symm⟩
    · cases h
  · rintro ⟨hlen, h1, h6, h0, hmax, hcount, hr, hbody⟩
    refine formCheck_sound (parts := es.map SegEntry.units) ⟨hlen, ⟨h1, h6⟩, ?_, ?_, ?_⟩ (map_entryOf_units hr)
    · rw [hcount]; exact ⟨h0, hmax⟩
    · rw [hbody]; exact entryUnits_units es
    · rw [List.length_map, hcount]

/-- Table 11-4: bytes whose first entry is at fault lay out no entry. -/
theorem not_units_of_fault {u : List Byte} (hu : u.length = entryWidth u) (hf : entryOf u = none) (behind : List Byte)
    {x : SegEntry} (hx : x.inRange) (more : List Byte) : u ++ behind ≠ x.units ++ more := fun e => by
  have := congrArg (fun bs => (readBody bs).1.head?) e
  rw [readBody_part hu, readBody_part (units_length x), hf, entryOf_units hx] at this
  cases this

/-- R71: the index that MALFORMED reports is that of the first entry at fault. -/
theorem formCheck_index {body : List Byte} {i : Nat} (h : formCheck body = .error (some i)) :
    i < leAt body 4 2 ∧ ∃ (es : List SegEntry) (rest : List Byte), es.length = i ∧ (∀ x ∈ es, x.inRange) ∧
      body.drop 8 = es.flatMap SegEntry.units ++ rest ∧
      ∀ (x : SegEntry) (more : List Byte), x.inRange → rest ≠ x.units ++ more := by
  rcases formCheck_cases body with e | ⟨parts, es, hl, ⟨-, e⟩ | ⟨more, he, e⟩⟩ <;> rw [e] at h
  · cases h
  · cases h
  · cases h
    obtain ⟨front, back, rfl, hfront, hback⟩ := List.map_eq_append_iff.1 he
    obtain ⟨u, behind, rfl, hu, -⟩ := List.map_eq_cons_iff.1 hback
    obtain ⟨hbody, hw⟩ := hl.parted
    obtain ⟨hwfront, hwback⟩ := List.forall_mem_append.1 hw
    obtain ⟨rfl, hr⟩ := parts_eq_units hwfront hfront
    refine ⟨?_, es, u ++ behind.flatten, rfl, hr, ?_, fun x more hx => ?_⟩
    · rw [← hl.counted, List.length_append, List.length_map, List.length_cons]
      omega
    · rw [hbody, List.flatten_append, List.flatten_cons, List.flatMap_def]
    · exact not_units_of_fault (hwback u List.mem_cons_self) hu _ hx more

/-- R71: where header and count are sound, a first entry at fault has its index reported. -/
theorem formCheck_of_fault {body : List Byte} {es : List SegEntry} {rest : List Byte} {parts : List (List Byte)}
    (hl : LaidOut body parts) (hi : es.length < leAt body 4 2) (hr : ∀ x ∈ es, x.inRange)
    (hbody : body.drop 8 = es.flatMap SegEntry.units ++ rest)
    (hrest : ∀ (x : SegEntry) (more : List Byte), x.inRange → rest ≠ x.units ++ more) :
    formCheck body = .error (some es.length) := by
  have read := readBody_entryUnits hl.parted
  rw [hbody, readBody_entries hr, Prod.mk.injEq] at read
  obtain ⟨hread, hexh⟩ := read
  obtain ⟨behind, hbehind⟩ := entryUnits_of_read hexh
  rw [readBody_entryUnits hbehind] at hread
  cases behind with
  | nil =>
    have := congrArg List.length hread
    rw [List.map_nil, List.append_nil, List.length_map, List.length_map, hl.counted] at this
    omega
  | cons u us =>
    obtain ⟨hus, hw⟩ := hbehind
    refine formCheck_faulty (more := us.map entryOf) hl ?_
    rw [← hread, List.map_cons]
    cases hu : entryOf u with
    | none => rfl
    | some x =>
      obtain ⟨rfl, hx⟩ := (entryOf_eq_some (hw u List.mem_cons_self)).1 hu
      exact absurd hus (hrest x _ hx)

/-! ### The sequence check (R42, R58, R69) -/

/-- R42: the distance of a sequence from the last. -/
theorem seqDistance_ahead {last : Nat} (hl : last < 65536) (d : Nat) :
    seqDistance ((last + d) % 65536) last = d % 65536 := by
  unfold seqDistance
  omega

theorem processSegment_malformed {g : QueuedSegment} {i : Option Nat} (h : formCheck g.body = .error i) (v : ProcEnv)
    (w : Work) : processSegment v w g = .failed .malformed i := by
  simp only [processSegment, h]

theorem processSegment_first {g : QueuedSegment} {es : List SegEntry} {w : Work} (h : formCheck g.body = .ok es)
    (hl : w.working.lastSeq = none) (v : ProcEnv) : processSegment v w g = runEntries v g.seq (Proc.begin w) es := by
  simp only [processSegment, h, hl]

section
variable {g : QueuedSegment} {es : List SegEntry} {w : Work} {last : Nat} (h : formCheck g.body = .ok es)
  (hl : w.working.lastSeq = some last)
include h hl

theorem processSegment_successor (hd : seqDistance g.seq last = 1) (v : ProcEnv) :
    processSegment v w g = runEntries v g.seq (Proc.begin w) es := by
  simp only [processSegment, h, hl, hd, if_true]

theorem processSegment_duplicate (hd : seqDistance g.seq last = 0 ∨ 32768 ≤ seqDistance g.seq last) (v : ProcEnv) :
    processSegment v w g = .failed .duplicate none := by
  simp only [processSegment, h, hl]
  rw [if_neg (by omega), if_neg (by omega)]

/-- R57, R58: a segment gap whose LOSS finds no base for its spill. -/
theorem processSegment_gap_none (hd : 2 ≤ seqDistance g.seq last ∧ seqDistance g.seq last ≤ 32767) {v : ProcEnv}
    (hz : (Proc.begin w).loss v .segmentGap none = none) : processSegment v w g = .failed .noTimeBase none := by
  simp only [processSegment, h, hl, hz]
  rw [if_neg (by omega), if_pos hd]

/-- R58: a segment gap acts as a LOSS before the entries. -/
theorem processSegment_gap_some (hd : 2 ≤ seqDistance g.seq last ∧ seqDistance g.seq last ≤ 32767) {v : ProcEnv}
    {q : Proc} (hz : (Proc.begin w).loss v .segmentGap none = some q) :
    processSegment v w g = runEntries v g.seq q es := by
  simp only [processSegment, h, hl, hz]
  rw [if_neg (by omega), if_pos hd]

end

/-- Settles O27: the bodies that entries exhaust are cut in one way, part by part; each part reads as an entry exactly when it
is that entry's units; and the sequence check turns on the distance alone. -/
theorem sequenceCheck : Obligations.SequenceCheck := by
  unfold Obligations.SequenceCheck
  refine ⟨formCheck_ok_iff, fun _ _ => formCheck_index, ?index, ?parts, ?header,
    fun v w g i h => processSegment_malformed h v w, fun v w g es h => ⟨fun hl => processSegment_first h hl v, ?seq⟩⟩
  case index =>
    intro body es rest parts hlen h1 h6 hmax hparts hcount hi hr hbody hrest
    exact formCheck_of_fault ⟨hlen, ⟨h1, h6⟩, ⟨by omega, hmax⟩, hparts, hcount⟩ hi hr hbody hrest
  case parts =>
    rintro body (⟨parts, hparts, hne⟩ | hnone)
    · exact formCheck_not_laidOut fun qs hl =>
        hne ((entryUnits_length_unique hparts hl.parted).trans hl.counted)
    · exact formCheck_not_laidOut fun qs hl => hnone qs hl.parted
  case header =>
    intro body h
    refine formCheck_not_laidOut fun parts hl => ?_
    have hdvd := entryUnits_dvd hl.parted
    rw [List.length_drop] at hdvd
    obtain ⟨hlen, ⟨h1, h6⟩, ⟨h0, hmax⟩, -, -⟩ := hl
    omega
  case seq =>
    intro last hl hlast hseq
    have distance : ∀ d, g.seq = (last + d) % 65536 → seqDistance g.seq last = d % 65536 :=
      fun d he => he ▸ seqDistance_ahead hlast d
    refine ⟨fun he => processSegment_successor h hl (distance 1 he) v, fun d h2 hmax he => ?_,
      fun d hmin hmax he => processSegment_duplicate h hl (by have := distance d he; omega) v⟩
    have hd := distance d he
    cases hz : (Proc.begin w).loss v .segmentGap none with
    | none => exact processSegment_gap_none h hl (by omega) hz
    | some q => exact processSegment_gap_some h hl (by omega) hz

end Sys2Proof.Machine
end

section
/-!
PROOF. A request answered by its rule, and the requests on one recorder context: READ_RECORDER, SET_ATTENTION_MASK and
CLEAR_CAUSES (R77 to R79, R81, R187).
-/

namespace Sys2Proof.Machine

open Sys2Proof

/-! ### A request answered by its rule (R176) -/

/-- The answer of a request from what its rule gives. -/
theorem takeRequest_gives {s u : State} {p : PortId} {code tag : Nat} {body : List Byte} {a : Response}
    {rule : List Byte → State → Response × State} (h : Taken s p code tag body)
    (e : rule body (s.popRequest p) = (a, u)) : takeRequest p code rule s = answered s p tag a u := by
  rw [takeRequest_taken h, e]

/-! ### The ports of an answered request (R176, R177) -/

theorem takes_response (p : Port) (ns : List Notice) : (p.takes ns).response = p.response := Pushed.response ⟨ns, rfl⟩

theorem subs_popRequest (s : State) (p q : PortId) : ((s.popRequest p).live.port q).subs = (s.live.port q).subs := by
  rw [port_popRequest]
  split_ifs with h
  · rw [h]
  · rfl

/-- A port after an answered request is as the rule leaves it, but for the answering port's response. -/
theorem port_answered_response (s : State) (p q : PortId) (tag : Nat) (a : Response) (u : State) :
    (answered s p tag a u).live.port q =
      { u.live.port q with response := ((answered s p tag a u).live.port q).response } := by
  rw [port_answered]
  split_ifs with h
  · rw [h]
  · rfl

theorem responded_answered (s : State) (p : PortId) (tag : Nat) (a : Response) (u : State) :
    Responded (answered s p tag a u) p tag a := by
  unfold Responded
  rw [port_answered, if_pos rfl]
  rfl

/-! ### The laid-out bodies (R187) -/

theorem causeSetOf_of_lt {n : Nat} (h : n < 2048) : causeSetOf n = some (BitVec.ofNat 11 n) := if_pos h

theorem causeSetOf_none {n : Nat} (h : 2048 ≤ n) : causeSetOf n = none := if_neg (not_lt.2 h)

theorem maskArgsOf_fits {body : List Byte} {r : RecId} (hl : body.length = 4) (h0 : byteAt body 0 = r.val)
    (h1 : byteAt body 1 = 0) (h2 : leAt body 2 2 < 2048) :
    maskArgsOf body = some (r, BitVec.ofNat 11 (leAt body 2 2)) := by
  unfold maskArgsOf
  rw [if_neg (by simp [hl, h1]), h0, asIndex_val, causeSetOf_of_lt h2]

theorem maskArgsOf_unfit {body : List Byte}
    (h : body.length ≠ 4 ∨ 64 ≤ byteAt body 0 ∨ byteAt body 1 ≠ 0 ∨ 2048 ≤ leAt body 2 2) : maskArgsOf body = none := by
  unfold maskArgsOf
  split_ifs with hform
  · rfl
  · rcases h with hl | h0 | h1 | h2
    · exact absurd (.inl hl) hform
    · rw [asIndex_none.2 h0]
    · exact absurd (.inr h1) hform
    · rw [causeSetOf_none h2]
      cases asIndex 64 (byteAt body 0) <;> rfl

/-- A byte of a body is that of its front. -/
theorem byteAt_take {bs : List Byte} {i n : Nat} (h : i < n) : byteAt (bs.take n) i = byteAt bs i := by
  simp [byteAt, List.getD_eq_getElem?_getD, h]

/-- A field of a body is that of its front. -/
theorem leAt_take {bs : List Byte} {off n m : Nat} (h : off + n ≤ m) : leAt (bs.take m) off n = leAt bs off n := by
  unfold leAt
  rw [List.drop_take, List.take_take, min_eq_left (by omega)]

theorem clearArgsOf_fits {body : List Byte} {r : RecId} (hl : body.length = 5) (h0 : byteAt body 0 = r.val)
    (h1 : byteAt body 1 = 0) (h2 : leAt body 2 2 < 2048) (h4 : byteAt body 4 < 2) :
    clearArgsOf body = some (r, BitVec.ofNat 11 (leAt body 2 2), byteAt body 4 == 1) := by
  have front : maskArgsOf (body.take 4) = some (r, BitVec.ofNat 11 (leAt (body.take 4) 2 2)) :=
    maskArgsOf_fits (by simp [hl]) ((byteAt_take (by decide)).trans h0) ((byteAt_take (by decide)).trans h1)
      (by rwa [leAt_take (by decide)])
  unfold clearArgsOf
  rw [if_neg (by omega), front, leAt_take (by decide)]
  rfl

theorem clearArgsOf_unfit {body : List Byte}
    (h : body.length ≠ 5 ∨ 64 ≤ byteAt body 0 ∨ byteAt body 1 ≠ 0 ∨ 2048 ≤ leAt body 2 2 ∨ 2 ≤ byteAt body 4) :
    clearArgsOf body = none := by
  unfold clearArgsOf
  split_ifs with hform
  · rfl
  · have front : maskArgsOf (body.take 4) = none := by
      refine maskArgsOf_unfit (.inr ?_)
      rw [byteAt_take (by decide), byteAt_take (by decide), leAt_take (by decide)]
      omega
    rw [front]
    rfl

/-! ### The rules (R78, R79, R81) -/

/-- R81. -/
theorem readRecorder_answers (r : RecId) (b : List Byte) (s : State) :
    readRecorder r.val b s =
      ({ code := .done
         body := .recorder r (s.contexts.get r) (s.contexts.get r).attention
           (s.merge.queue.filter fun g => g.recorder == r).length
           (s.merge.work.isSome && s.merge.queue.head?.elim false fun g => g.recorder == r) }, s) := by
  unfold readRecorder
  rw [asIndex_val]

theorem readRecorder_beyond {n : Nat} (h : 64 ≤ n) (b : List Byte) (s : State) :
    readRecorder n b s = (Response.plain .badArgument, s) := by
  unfold readRecorder
  rw [asIndex_none.2 h]

/-- R77: the live part after a change of a context, told on a rising edge of attention alone. -/
theorem notifyAttention_eq (r : RecId) (c d : Context) (l : Live) :
    notifyAttention r c d l =
      if c.flags &&& c.mask = 0 ∧ d.flags &&& d.mask ≠ 0 then
        l.notifyWhere (fun _ q => q.subs.attention) (.recorderAttention r d.flags d.mask d.noted)
      else l := by
  have edge : (!c.attention && d.attention) = true ↔ c.flags &&& c.mask = 0 ∧ d.flags &&& d.mask ≠ 0 := by
    simp [Context.attention]
  unfold notifyAttention attentionNotice
  simp only [edge]

/-- R78. -/
theorem setAttentionMask_sets {body : List Byte} {r : RecId} {m : CauseSet} (h : maskArgsOf body = some (r, m))
    (s : State) : setAttentionMask body s = (Response.done, setMask r m s) := by
  unfold setAttentionMask
  rw [h]

theorem setAttentionMask_refused {body : List Byte} (h : maskArgsOf body = none) (s : State) :
    setAttentionMask body s = (Response.plain .badArgument, s) := by
  unfold setAttentionMask
  rw [h]

/-- R79. -/
theorem clearCauses_clears {body : List Byte} {r : RecId} {set : CauseSet} {noted : Bool}
    (h : clearArgsOf body = some (r, set, noted)) (s : State) :
    clearCauses body s =
      ({ code := .done
         body := .causes ((s.contexts.get r).clearCauses set noted).flags
           ((s.contexts.get r).clearCauses set noted).noted },
       { s with contexts := vput s.contexts r ((s.contexts.get r).clearCauses set noted) }) := by
  unfold clearCauses
  rw [h]

theorem clearCauses_refused {body : List Byte} (h : clearArgsOf body = none) (s : State) :
    clearCauses body s = (Response.plain .badArgument, s) := by
  unfold clearCauses
  rw [h]

/-- Settles O24: each of the three requests, on a body that fits and on one that does not. -/
theorem recorderContextRequests : Obligations.RecorderContextRequests := by
  unfold Obligations.RecorderContextRequests
  refine ⟨fun s p tag body h => ⟨fun r => ?_, fun n hn => ?_⟩,
    fun s p tag body h => ⟨fun r hl h0 h1 h2 => ?_, fun hbad => ?_⟩,
    fun s p tag body h => ⟨fun r hl h0 h1 h2 h4 => ?_, fun hbad => ?_⟩⟩
  · exact congrArg _ (takeRequest_gives h (readRecorder_answers r body _))
  · exact congrArg _ (takeRequest_gives h (readRecorder_beyond hn body _))
  · refine congrArg _ ((takeRequest_gives h (setAttentionMask_sets (maskArgsOf_fits hl h0 h1 h2) _)).trans ?_)
    rw [setMask, notifyAttention_eq]
    rfl
  · exact congrArg _ (takeRequest_gives h (setAttentionMask_refused (maskArgsOf_unfit hbad) _))
  · exact congrArg _ (takeRequest_gives h (clearCauses_clears (clearArgsOf_fits hl h0 h1 h2 h4) _))
  · exact congrArg _ (takeRequest_gives h (clearCauses_refused (clearArgsOf_unfit hbad) _))

end Sys2Proof.Machine
end

section
/-!
PROOF. LOAD_SEGMENT and CANCEL_SEGMENT (R64 to R66, R70 to R73): the segment header, the queue with one segment more or one
less, and the refusals in their order.
-/

namespace Sys2Proof.Machine

open Sys2Proof

/-! ### LOAD_SEGMENT (R65, R66) -/

/-- R65, R176: the body carries a sound segment header, and the header names an enabled recorder. -/
def HeaderNames (t : Tables) (body : List Byte) (r : RecId) : Prop :=
  8 ≤ body.length ∧ byteAt body 1 = 0 ∧ leAt body 6 2 = 0 ∧ byteAt body 0 = r.val ∧ (t.recorders.get r).enabled = true

theorem segmentHeaderOf_eq_some (body : List Byte) (x : Nat × Nat) :
    segmentHeaderOf body = some x ↔
      8 ≤ body.length ∧ byteAt body 1 = 0 ∧ leAt body 6 2 = 0 ∧ (byteAt body 0, leAt body 2 2) = x := by
  unfold segmentHeaderOf
  split_ifs with h
  · simp only [false_iff]
    omega
  · have sound : 8 ≤ body.length ∧ byteAt body 1 = 0 ∧ leAt body 6 2 = 0 := by omega
    simp [sound]

theorem enabledRecorder_eq_some (t : Tables) (n : Nat) (r : RecId) :
    enabledRecorder t n = some r ↔ n = r.val ∧ (t.recorders.get r).enabled = true := by
  unfold enabledRecorder
  cases hi : asIndex 64 n with
  | none =>
    have beyond := asIndex_none.1 hi
    simp only [reduceCtorEq, false_iff]
    omega
  | some x =>
    have hx : x.val = n := asIndex_some hi
    dsimp only
    split_ifs with hon
    · rw [Option.some_inj]
      exact ⟨fun e => e ▸ ⟨hx.symm, hon⟩, fun ⟨e, _⟩ => Fin.ext (hx.trans e)⟩
    · simp only [false_iff]
      exact fun ⟨e, g⟩ => hon (Fin.ext (hx.trans e) ▸ g)

/-- R64, R66: the queue takes the segment at its end; into an empty queue it is taken into processing at once. -/
theorem joinQueue_eq (g : QueuedSegment) (s : State) :
    joinQueue g s =
      { s with
        merge :=
          { s.merge with
            queue := s.merge.queue ++ [g]
            work := if s.merge.queue = [] then some (workOf (s.contexts.get g.recorder)) else s.merge.work } } := by
  unfold joinQueue State.takeNext
  by_cases h : s.merge.queue = []
  · simp [h]
  · simp [h]

theorem loadSegment_wrongPhase (p : PortId) (body : List Byte) {s : State} (h : s.history.phase ≠ .collecting) :
    loadSegment p body s = (Response.plain .wrongPhase, s) := if_pos h

/-- R65: past the header and the recorder the queue's room decides. -/
theorem loadSegment_named (p : PortId) {body : List Byte} {r : RecId} {s : State} (hp : s.history.phase = .collecting)
    (h : HeaderNames s.tables body r) :
    loadSegment p body s =
      if 8 ≤ s.merge.queue.length then (Response.plain .queueFull, s)
      else
        ({ code := .accepted, body := .queuePosition s.merge.queue.length },
          joinQueue { port := p, recorder := r, seq := leAt body 2 2, body := body } s) := by
  obtain ⟨hl, h1, h6, h0, hon⟩ := h
  unfold loadSegment
  rw [if_neg (not_not.2 hp), (segmentHeaderOf_eq_some body _).2 ⟨hl, h1, h6, rfl⟩]
  dsimp only
  rw [(enabledRecorder_eq_some s.tables _ r).2 ⟨h0, hon⟩]
  rfl

theorem loadSegment_unnamed (p : PortId) {body : List Byte} {s : State} (hp : s.history.phase = .collecting)
    (h : ∀ r, ¬HeaderNames s.tables body r) : loadSegment p body s = (Response.plain .badArgument, s) := by
  unfold loadSegment
  rw [if_neg (not_not.2 hp)]
  cases hh : segmentHeaderOf body with
  | none => rfl
  | some x =>
    obtain ⟨hl, h1, h6, rfl⟩ := (segmentHeaderOf_eq_some body x).1 hh
    cases he : enabledRecorder s.tables (byteAt body 0) with
    | none => simp only [he]
    | some r =>
      obtain ⟨h0, hon⟩ := (enabledRecorder_eq_some s.tables _ r).1 he
      exact absurd ⟨hl, h1, h6, h0, hon⟩ (h r)

/-- Settles O22: LOAD_SEGMENT by its checks: the phase, then what the header names, then the room in the queue. -/
theorem loadSegmentQueuesOrRefuses : Obligations.LoadSegmentQueuesOrRefuses := by
  unfold Obligations.LoadSegmentQueuesOrRefuses
  refine ⟨fun s p tag body r h hp hl h0 h1 h6 hon hroom => ?_,
    fun s p tag body h => ⟨fun hp => ?_, fun hp hbad => ?_, fun hp hnamed hfull => ?_⟩⟩
  · have names : HeaderNames (s.popRequest p).tables body r := ⟨hl, h1, h6, h0, hon⟩
    have joins := (loadSegment_named p (s := s.popRequest p) hp names).trans (if_neg (not_le.2 hroom))
    rw [joinQueue_eq] at joins
    exact congrArg _ (takeRequest_gives h joins)
  · exact congrArg _ (takeRequest_gives h (loadSegment_wrongPhase p body (s := s.popRequest p) hp))
  · have unnamed : ∀ r, ¬HeaderNames (s.popRequest p).tables body r := fun r ⟨hl, h1, h6, h0, hon⟩ =>
      hbad ⟨hl, h1, h6, r, h0.symm, hon⟩
    exact congrArg _ (takeRequest_gives h (loadSegment_unnamed p (s := s.popRequest p) hp unnamed))
  · obtain ⟨hl, h1, h6, r, h0, hon⟩ := hnamed
    have names : HeaderNames (s.popRequest p).tables body r := ⟨hl, h1, h6, h0.symm, hon⟩
    exact congrArg _
      (takeRequest_gives h ((loadSegment_named p (s := s.popRequest p) hp names).trans (if_pos hfull)))

/-! ### The segment that CANCEL_SEGMENT names (R73) -/

theorem named_iff (r : RecId) (seq : Nat) (g : QueuedSegment) : g.named r seq = true ↔ g.recorder = r ∧ g.seq = seq := by
  simp [QueuedSegment.named]

/-- R73 step 1: the port submitted the segment under the name. -/
theorem named_own_iff (p : PortId) (r : RecId) (seq : Nat) (g : QueuedSegment) :
    (g.named r seq && g.port == p) = true ↔ g.recorder = r ∧ g.seq = seq ∧ g.port = p := by
  rw [Bool.and_eq_true, named_iff, beq_iff_eq, and_assoc]

theorem cancelIndex_none {p : PortId} {r : RecId} {seq : Nat} {q : List QueuedSegment}
    (h : ∀ g ∈ q, ¬(g.recorder = r ∧ g.seq = seq ∧ g.port = p)) : cancelIndex p r seq q = none :=
  List.findIdx?_eq_none_iff.2 fun g hg => Bool.not_eq_true _ ▸ fun e => h g hg ((named_own_iff p r seq g).1 e)

theorem cancelIndex_oldest {p : PortId} {r : RecId} {seq : Nat} {before after : List QueuedSegment} {g : QueuedSegment}
    (hg : g.recorder = r ∧ g.seq = seq ∧ g.port = p)
    (hb : ∀ h ∈ before, ¬(h.recorder = r ∧ h.seq = seq ∧ h.port = p)) :
    cancelIndex p r seq (before ++ g :: after) = some before.length := by
  unfold cancelIndex
  have skipped : before.findIdx? (fun h => h.named r seq && h.port == p) = none := cancelIndex_none hb
  rw [List.findIdx?_append, skipped, List.findIdx?_cons, if_pos ((named_own_iff p r seq g).2 hg)]
  simp

theorem cancelSegment_cancels {p : PortId} {r : RecId} {seq : Nat} {before after : List QueuedSegment}
    {g : QueuedSegment} {s : State} (hq : s.merge.queue = before ++ g :: after)
    (hg : g.recorder = r ∧ g.seq = seq ∧ g.port = p)
    (hb : ∀ h ∈ before, ¬(h.recorder = r ∧ h.seq = seq ∧ h.port = p)) (b : List Byte) :
    cancelSegment p r.val seq b s = (Response.done, cancelAt before.length g s) := by
  unfold cancelSegment
  rw [asIndex_val, hq]
  simp [cancelIndex_oldest hg hb]

theorem cancelSegment_refused {p : PortId} {r : RecId} {seq : Nat} {s : State}
    (h : ∀ g ∈ s.merge.queue, ¬(g.recorder = r ∧ g.seq = seq ∧ g.port = p)) (b : List Byte) :
    cancelSegment p r.val seq b s = (cancelRefusal p r seq s, s) := by
  unfold cancelSegment
  simp only [asIndex_val, cancelIndex_none h]

theorem cancelSegment_beyond (p : PortId) {n : Nat} (h : 64 ≤ n) (seq : Nat) (b : List Byte) (s : State) :
    cancelSegment p n seq b s = (Response.plain .badArgument, s) := by
  unfold cancelSegment
  rw [asIndex_none.2 h]

/-! ### The segment cancelled (R70 to R72) -/

/-- A cancellation changes the Merge Engine and the ports alone. -/
theorem cancelAt_frame (i : Nat) (g : QueuedSegment) (s : State) :
    let t := cancelAt i g s
    t.history = s.history ∧ t.contexts = s.contexts ∧ t.gaps = s.gaps ∧ t.tables = s.tables ∧ t.clock = s.clock ∧
      t.live.cursors = s.live.cursors ∧ t.live.checkpoints = s.live.checkpoints ∧ t.resetLow = s.resetLow ∧
      t.pending = s.pending := by
  unfold cancelAt
  dsimp only
  split_ifs <;> exact ⟨rfl, rfl, rfl, rfl, rfl, rfl, rfl, rfl, rfl⟩

/-- R73: the segment leaves the queue. -/
theorem cancelAt_queue (i : Nat) (g : QueuedSegment) (s : State) :
    (cancelAt i g s).merge.queue = s.merge.queue.eraseIdx i := by
  unfold cancelAt
  dsimp only
  split_ifs <;> rfl

/-- R66, R70: the next segment is taken into processing when the one in progress was cancelled. -/
theorem cancelAt_work (i : Nat) (g : QueuedSegment) (s : State) :
    (cancelAt i g s).merge.work =
      if i = 0 then (s.merge.queue.eraseIdx i).head?.map fun h => workOf (s.contexts.get h.recorder)
      else s.merge.work := by
  unfold cancelAt
  dsimp only
  split_ifs <;> rfl

/-- R72: the cancelled segment joins the finished list of its port. -/
theorem cancelAt_finished (i : Nat) (g : QueuedSegment) (s : State) (q : PortId) :
    (cancelAt i g s).merge.finished.get q =
      if g.port = q then
        pushFinished { recorder := g.recorder, seq := g.seq, outcome := .cancelled } (s.merge.finished.get g.port)
      else s.merge.finished.get q := by
  rw [← vput_get]
  unfold cancelAt
  dsimp only
  split_ifs <;> rfl

/-- R71: SEGMENT_DONE, outcome CANCELLED with counts of 0, and no other notice. -/
theorem cancelAt_port (i : Nat) (g : QueuedSegment) (s : State) (q : PortId) :
    (cancelAt i g s).live.port q =
      (s.live.port q).takes (segmentTold g .cancelled 0 0 none q (s.live.port q).subs) := by
  rw [← show (recordFinished g .cancelled s).live.port q = s.live.port q from rfl, ← notifySegmentDone_port]
  unfold cancelAt
  dsimp only
  split_ifs <;> rfl

/-! ### The refusals (R73 steps 2 to 4) -/

theorem cancelRefusal_notOwner (p : PortId) {r : RecId} {seq : Nat} {s : State}
    (h : ∃ g ∈ s.merge.queue, g.recorder = r ∧ g.seq = seq) : cancelRefusal p r seq s = Response.plain .notOwner := by
  obtain ⟨g, hg, hn⟩ := h
  exact if_pos (List.any_eq_true.2 ⟨g, hg, (named_iff r seq g).2 hn⟩)

/-- R73 step 3: past the queue the port's finished list decides. -/
theorem cancelRefusal_finished (p : PortId) {r : RecId} {seq : Nat} {s : State}
    (h : ∀ g ∈ s.merge.queue, ¬(g.recorder = r ∧ g.seq = seq)) :
    cancelRefusal p r seq s =
      match finishedOutcome r seq (s.merge.finished.get p) with
      | some o => { code := .tooLate, body := .outcome o }
      | none => Response.plain .notFound := by
  refine if_neg fun e => ?_
  obtain ⟨g, hg, hn⟩ := List.any_eq_true.1 e
  exact h g hg ((named_iff r seq g).1 hn)

theorem finishedOutcome_newest {r : RecId} {seq : Nat} {older newer : List FinishedSegment} {x : FinishedSegment}
    (hr : x.recorder = r) (hs : x.seq = seq) (hn : ∀ y ∈ newer, ¬(y.recorder = r ∧ y.seq = seq)) :
    finishedOutcome r seq (older ++ x :: newer) = some x.outcome := by
  have skipped : newer.reverse.find? (fun y => y.recorder == r && y.seq == seq) = none :=
    List.find?_eq_none.2 fun y hy => by simpa using hn y (List.mem_reverse.1 hy)
  have found : (x.recorder == r && x.seq == seq) = true := by simp [hr, hs]
  simp [finishedOutcome, List.find?_append, skipped, found]

theorem finishedOutcome_none {r : RecId} {seq : Nat} {l : List FinishedSegment}
    (h : ∀ y ∈ l, ¬(y.recorder = r ∧ y.seq = seq)) : finishedOutcome r seq l = none := by
  have skipped : l.reverse.find? (fun y => y.recorder == r && y.seq == seq) = none :=
    List.find?_eq_none.2 fun y hy => by simpa using h y (List.mem_reverse.1 hy)
  rw [finishedOutcome, skipped]
  rfl

/-! ### CANCEL_SEGMENT (R73) -/

/-- R73: a refused CANCEL_SEGMENT changes nothing but its port. -/
theorem exec_cancelSegment_refused {s : State} {p : PortId} {tag : Nat} {body : List Byte} {r : RecId} {seq : Nat}
    {a : Response} (h : Taken s p 14 tag body)
    (hnone : ∀ g ∈ s.merge.queue, ¬(g.recorder = r ∧ g.seq = seq ∧ g.port = p)) (ha : cancelRefusal p r seq s = a) :
    exec (.cancelSegment p r.val seq) s = .next (answeredOnly s p tag a) := by
  refine congrArg _ (takeRequest_gives h ((cancelSegment_refused (s := s.popRequest p) hnone body).trans ?_))
  rw [← ha]
  rfl

/-- R73: the oldest own segment of the name is cancelled. -/
theorem exec_cancelSegment_cancels {s : State} {tag : Nat} {body : List Byte} {before after : List QueuedSegment}
    {g : QueuedSegment} (h : Taken s g.port 14 tag body) (hq : s.merge.queue = before ++ g :: after)
    (hb : ∀ x ∈ before, ¬(x.recorder = g.recorder ∧ x.seq = g.seq ∧ x.port = g.port)) :
    exec (.cancelSegment g.port g.recorder.val g.seq) s =
      .next (answered s g.port tag Response.done (cancelAt before.length g (s.popRequest g.port))) :=
  congrArg _ (takeRequest_gives h (cancelSegment_cancels (s := s.popRequest g.port) hq ⟨rfl, rfl, rfl⟩ hb body))

/-- R66, R70, R72, R73: what the cancellation of one queued segment leaves of the Merge Engine. -/
theorem cancelAt_merge {s : State} {before after : List QueuedSegment} {g : QueuedSegment}
    (hq : s.merge.queue = before ++ g :: after) :
    let m := (cancelAt before.length g s).merge
    m.queue = before ++ after ∧ (before ≠ [] → m.work = s.merge.work) ∧
      (before = [] → m.work = after.head?.map fun h => workOf (s.contexts.get h.recorder)) ∧
      (m.finished.get g.port).getLast? = some { recorder := g.recorder, seq := g.seq, outcome := .cancelled } ∧
      ∀ q : PortId, q ≠ g.port → m.finished.get q = s.merge.finished.get q := by
  have left : s.merge.queue.eraseIdx before.length = before ++ after := by
    rw [hq, List.eraseIdx_append_of_length_le le_rfl, Nat.sub_self]
    rfl
  have hwork := cancelAt_work before.length g s
  rw [left] at hwork
  refine ⟨(cancelAt_queue _ g s).trans left, fun hne => ?_, fun he => ?_, ?_, fun q hne => ?_⟩
  · exact hwork.trans (if_neg fun e => hne (List.length_eq_zero_iff.1 e))
  · subst he
    exact hwork
  · rw [cancelAt_finished, if_pos rfl]
    exact pushFinished_getLast _ _
  · rw [cancelAt_finished, if_neg hne.symm]

/-- Settles O23: the cancellation is that of the oldest own segment of the name; with none, the refusals follow in order. -/
theorem cancelSegmentRules : Obligations.CancelSegmentRules := by
  unfold Obligations.CancelSegmentRules
  intro s p tag body r seq h mine
  refine ⟨fun before after g hq hg hb => ?_, fun hnone => ⟨fun hother => ?_, fun hfree =>
    ⟨fun older newer x hf hr hs hn => ?_, fun hf => ?_⟩⟩, fun n hn => ?_⟩
  · obtain ⟨rfl, rfl, rfl⟩ := hg
    obtain ⟨hqueue, hkept, hnext, hlast, hothers⟩ := cancelAt_merge (s := s.popRequest g.port) hq
    refine ⟨_, exec_cancelSegment_cancels h hq hb, responded_answered .., hqueue, hkept, hnext, hlast, hothers,
      fun q => ⟨?_, fun hne => ?_⟩, cancelAt_frame before.length g (s.popRequest g.port)⟩
    · rw [← subs_popRequest s g.port q, ← cancelAt_port before.length]
      exact port_answered_response ..
    · rw [port_answered, if_neg hne.symm, cancelAt_port, takes_response, port_popRequest, if_neg hne.symm]
  · exact exec_cancelSegment_refused h hnone (cancelRefusal_notOwner p hother)
  · refine exec_cancelSegment_refused h hnone ((cancelRefusal_finished p hfree).trans ?_)
    rw [hf, finishedOutcome_newest hr hs hn]
  · refine exec_cancelSegment_refused h hnone ((cancelRefusal_finished p hfree).trans ?_)
    rw [finishedOutcome_none hf]
    rfl
  · exact congrArg _ (takeRequest_gives h (cancelSegment_beyond p hn seq body _))

end Sys2Proof.Machine
end

section
/-!
PROOF. The moves of which every cursor operation is made: what each does to one cursor, and that the operations of
Delivery and CursorOps are sequences of them.
-/

namespace Sys2Proof.Machine

open Sys2Proof

/-! ### Moves of one cursor -/

/-- What `Cursor.lawful` asks of a cursor's state against its armed-from, its snapshot and its operation. -/
def Cursor.Settled (c : Cursor) : Prop :=
  (c.armedFrom.isSome ↔ c.state = .armed) ∧ (c.snap.isSome → c.state = .held ∨ c.state = .ended) ∧
    opFits c.snap.isSome c.state c.op = true

/-- Two buffers that hold the same items in the same places. -/
def Buffer.SamePlaces (a b : Buffer) : Prop :=
  b.writing = a.writing ∧ b.completed = a.completed ∧ b.half = a.half ∧ b.outgoing = a.outgoing

theorem Buffer.SamePlaces.refl (b : Buffer) : b.SamePlaces b := ⟨rfl, rfl, rfl, rfl⟩

/-- From `c` to `d` the options and the buffered items are the same, and the queues have not grown. -/
structure Carries (c d : Cursor) : Prop where
  options : d.options = c.options
  stepsLeft : c.stepsLeft ≤ 4096 → d.stepsLeft ≤ 4096
  probes : d.probes.length ≤ c.probes.length
  places : c.buffer.SamePlaces d.buffer

/-- From `c` to `d` the image stands, and no step or rebuild begins. -/
structure Keeps (c d : Cursor) : Prop extends Carries c d where
  image : d.image = c.image
  position : d.position = c.position
  overtaken : d.overtaken = c.overtaken
  trail : d.trail = c.trail
  settled : c.Settled → d.Settled
  step : ∀ f, d.op = .step f → ∃ g, c.op = .step g ∧ g.undo = f.undo
  rebuild : ∀ r, d.op = .rebuild r → c.op = .rebuild r

/-- The options of a cursor and the items in its buffer. -/
def Cursor.carried (c : Cursor) : Options × List Item × List Batch × Option Half × List Item :=
  (c.options, c.buffer.writing, c.buffer.completed, c.buffer.half, c.buffer.outgoing)

/-- Where a cursor stands: what a rebuild or a read makes new. -/
def Cursor.stand (c : Cursor) : Option Image × Option Key × Option Overtake × List TrailEntry :=
  (c.image, c.position, c.overtaken, c.trail)

/-- What a cursor is doing. -/
def Cursor.doing (c : Cursor) : CursorState × Option ArmedFrom × Option SnapWork × Op :=
  (c.state, c.armedFrom, c.snap, c.op)

theorem Carries.of {c d : Cursor} (h : d.carried = c.carried) (hn : c.stepsLeft ≤ 4096 → d.stepsLeft ≤ 4096)
    (hp : d.probes.length ≤ c.probes.length) : Carries c d := by
  simp only [Cursor.carried, Prod.mk.injEq] at h
  exact ⟨h.1, hn, hp, h.2⟩

theorem Carries.same {c d : Cursor} (h : d.carried = c.carried) (hn : d.stepsLeft = c.stepsLeft)
    (hp : d.probes = c.probes) : Carries c d := .of h (hn ▸ id) (hp ▸ le_rfl)

theorem Carries.stopped {c d : Cursor} (h : d.carried = c.carried) (hn : d.stepsLeft = 0)
    (hp : d.probes = c.probes) : Carries c d := .of h (fun _ => hn ▸ Nat.zero_le _) (hp ▸ le_rfl)

theorem Keeps.of {c d : Cursor} (hc : Carries c d) (h : d.stand = c.stand) (hs : c.Settled → d.Settled)
    (hstep : ∀ f, d.op = .step f → ∃ g, c.op = .step g ∧ g.undo = f.undo)
    (hreb : ∀ r, d.op = .rebuild r → c.op = .rebuild r) : Keeps c d := by
  simp only [Cursor.stand, Prod.mk.injEq] at h
  obtain ⟨h1, h2, h3, h4⟩ := h
  exact ⟨hc, h1, h2, h3, h4, hs, hstep, hreb⟩

/-- The operation in flight goes on. -/
theorem Keeps.goesOn {c d : Cursor} (hc : Carries c d) (h : d.stand = c.stand) (ho : d.op = c.op)
    (hs : c.Settled → d.Settled) : Keeps c d := .of hc h hs (fun f hf => ⟨f, ho ▸ hf, rfl⟩) fun _ hr => ho ▸ hr

/-- An operation that is neither a step nor a rebuild takes the place of the one in flight. -/
theorem Keeps.turns {c d : Cursor} (hc : Carries c d) (h : d.stand = c.stand) (hs : c.Settled → d.Settled)
    (hstep : ∀ f, d.op ≠ .step f) (hreb : ∀ r, d.op ≠ .rebuild r) : Keeps c d :=
  .of hc h hs (fun f hf => absurd hf (hstep f)) fun r hr => absurd hr (hreb r)

/-- The cursor does what it did. -/
theorem Keeps.same {c d : Cursor} (hc : Carries c d) (h : d.stand = c.stand) (hd : d.doing = c.doing) : Keeps c d := by
  simp only [Cursor.doing, Prod.mk.injEq] at hd
  obtain ⟨h1, h2, h3, h4⟩ := hd
  refine .goesOn hc h h4 fun hs => ?_
  unfold Cursor.Settled
  rw [h1, h2, h3, h4]
  exact hs

/-- From `c` to `d` a rebuild has begun, with its choice on the table `t` (R89, R91). -/
structure Rebuilds (t : CheckpointTable) (c d : Cursor) : Prop extends Carries c d where
  begun : ∃ kind target kept, RebuildBegun t kind target kept d
  settled : c.Settled → d.Settled

/-- One move of an open cursor, choices on the table `t`. -/
inductive CursorMove (t : CheckpointTable) : Cursor → Cursor → Prop
  | keeps {c d : Cursor} (h : Keeps c d) : CursorMove t c d
  | rebuilds {c d : Cursor} (h : Rebuilds t c d) : CursorMove t c d
  | flushes (c : Cursor) : CursorMove t c { c with buffer := c.buffer.flushed c.options }
  | writes {c : Cursor} (flush : Bool) (body : ItemBody) (ref : Option Nat) (h : c.buffer.hasRoom c.options = true) :
      CursorMove t c
        { c with op := c.op.wrote, buffer := { c.buffer.delivered c.options flush body with refTime := ref } }
  | aborts {c : Cursor} {f : StepFlight} (h : c.op = .step f) : CursorMove t c (c.abortStep f)
  | joins {c : Cursor} (q : Probe) (h : c.probes.length < Config.probeCapacity) :
      CursorMove t c { c with probes := c.probes ++ [q] }
  | fetches {c : Cursor} {b : Batch} {rest : List Batch} (hm : c.options.mode = .notice)
      (h : c.buffer.completed = b :: rest) : CursorMove t c { c with buffer := c.buffer.takeBatch b rest }
  | sends {c : Cursor} {it : Item} {rest : List Item} (h : c.buffer.outgoing = it :: rest) :
      CursorMove t c { c with buffer := { c.buffer with outgoing := rest } }
  | sets {c : Cursor} {own : Slot} {o : Options} (h : optionsOk own o = true) : CursorMove t c (c.setOptions o)

theorem Keeps.refl (c : Cursor) : Keeps c c := .same (.same rfl rfl rfl) rfl rfl

theorem CursorMove.refl (t : CheckpointTable) (c : Cursor) : CursorMove t c c := .keeps (Keeps.refl c)

/-- One move of the live part: each open cursor is newly opened or has made one move, and choices alone change the
Checkpoint Table. -/
def LiveMove (l m : Live) : Prop :=
  SameButStamps l.checkpoints m.checkpoints ∧
    ∀ k d, m.cursor k = some d →
      (∃ c, l.cursor k = some c ∧ CursorMove l.checkpoints c d) ∨ ∃ p, d = Cursor.opened p

/-- From `l` to `m` by moves. -/
def Moves : Live → Live → Prop := Relation.ReflTransGen LiveMove

theorem Moves.refl (l : Live) : Moves l l := Relation.ReflTransGen.refl

theorem Moves.trans {a b c : Live} (h : Moves a b) (g : Moves b c) : Moves a c := Relation.ReflTransGen.trans h g

/-- What every move keeps, moves keep. -/
theorem Moves.preserves {P : Live → Prop} (h : ∀ l m, LiveMove l m → P l → P m) {l m : Live} (hm : Moves l m)
    (hl : P l) : P m := by
  induction hm with
  | refl => exact hl
  | tail _ hs ih => exact h _ _ hs ih

/-- The moves of the cursor of one slot. -/
theorem Moves.at {l m : Live} {k : Slot} {c d : Cursor} (h : l.cursor k = some c) (hd : m.cursor k = some d)
    (hm : CursorMove l.checkpoints c d) (ho : ∀ j : Slot, j ≠ k → m.cursor j = l.cursor j)
    (ht : SameButStamps l.checkpoints m.checkpoints) : Moves l m := by
  refine Relation.ReflTransGen.single ⟨ht, fun j x hx => .inl ?_⟩
  by_cases hj : j = k
  · subst hj
    rw [hd] at hx
    exact ⟨c, h, Option.some.inj hx ▸ hm⟩
  · exact ⟨x, (ho j hj) ▸ hx, CursorMove.refl _ x⟩

theorem Moves.setCursor {l : Live} {k : Slot} {c d : Cursor} (h : l.cursor k = some c)
    (hm : CursorMove l.checkpoints c d) : Moves l (l.setCursor k d) :=
  Moves.at h (cursor_setCursor_same l k d) hm (fun _ hj => cursor_setCursor_ne l d (Ne.symm hj)) (SameButStamps.refl _)

theorem Moves.keeps {l : Live} {k : Slot} {c d : Cursor} (h : l.cursor k = some c) (hk : Keeps c d) :
    Moves l (l.setCursor k d) := Moves.setCursor h (.keeps hk)

/-- A cursor is set, and what follows moves on. -/
theorem Moves.after {l m : Live} {k : Slot} {c d : Cursor} (h : l.cursor k = some c) (hm : Moves (l.setCursor k d) m)
    (hk : Keeps c d) : Moves l m := (Moves.keeps h hk).trans hm

/-- What changes neither a cursor nor the Checkpoint Table, but that cursors may be closed. -/
theorem Moves.frees {l m : Live} (h : ∀ k d, m.cursor k = some d → l.cursor k = some d)
    (ht : m.checkpoints = l.checkpoints) : Moves l m :=
  Relation.ReflTransGen.single
    ⟨ht ▸ SameButStamps.refl _, fun k d hd => .inl ⟨d, h k d hd, CursorMove.refl _ d⟩⟩

theorem Moves.others {l m : Live} (h : m.cursors = l.cursors) (ht : m.checkpoints = l.checkpoints) : Moves l m :=
  Moves.frees (fun k d hd => by unfold Live.cursor at hd ⊢; rw [← h]; exact hd) ht

theorem Moves.notify (l : Live) (p : PortId) (n : Notice) : Moves l (l.notify p n) := Moves.others rfl rfl

/-- Each open cursor makes one move. -/
theorem Moves.map {l m : Live} {f : Cursor → Cursor} (hf : ∀ c, Keeps c (f c))
    (h : ∀ k, m.cursor k = (l.cursor k).map f) (ht : m.checkpoints = l.checkpoints) : Moves l m := by
  refine Relation.ReflTransGen.single ⟨ht ▸ SameButStamps.refl _, fun k d hd => .inl ?_⟩
  rw [h k, Option.map_eq_some_iff] at hd
  obtain ⟨c, hc, rfl⟩ := hd
  exact ⟨c, hc, .keeps (hf c)⟩

theorem Moves.withCursor {l : Live} {k : Slot} {f : Cursor → Live} (h : ∀ c, l.cursor k = some c → Moves l (f c)) :
    Moves l (l.withCursor k f) := by
  cases hc : l.cursor k with
  | none => rw [withCursor_none f hc]; exact Moves.refl l
  | some c => rw [withCursor_some f hc]; exact h c hc

theorem Moves.modify {l : Live} {k : Slot} {f : Cursor → Cursor} (h : ∀ c, Keeps c (f c)) : Moves l (l.modify k f) :=
  Moves.withCursor fun c hc => Moves.keeps hc (h c)

theorem Moves.foldl {α : Type} {f : α → Live → Live} (h : ∀ x l, Moves l (f x l)) (xs : List α) (l : Live) :
    Moves l (xs.foldl (fun m x => f x m) l) := by
  induction xs generalizing l with
  | nil => exact Moves.refl l
  | cons x xs ih => exact (h x l).trans (ih _)

theorem Moves.inFreeOrder {f : Slot → Live → Live} (h : ∀ k l, Moves l (f k l)) (ks : List Slot) (l : Live) :
    Moves l (inFreeOrder ks f l) := by
  obtain ⟨order, n, -, e⟩ := inFreeOrder_eq ks f l
  rw [e]
  exact Moves.trans (Moves.others (m := { l with draws := n }) rfl rfl) (Moves.foldl h order _)

/-! ### What a settled cursor's state says -/

theorem Cursor.Settled.armedFrom_none {c : Cursor} (h : c.Settled) (hs : c.state ≠ .armed) : c.armedFrom = none := by
  cases ha : c.armedFrom with
  | none => rfl
  | some x => exact absurd (h.1.1 (by rw [ha]; rfl)) hs

theorem Cursor.Settled.snap_none {c : Cursor} (h : c.Settled) (hh : c.state ≠ .held) (he : c.state ≠ .ended) :
    c.snap = none := by
  cases hs : c.snap with
  | none => rfl
  | some x => exact absurd (h.2.1 (by rw [hs]; rfl)) (not_or.2 ⟨hh, he⟩)

/-- A cursor with a seek whose marker waits, or whose probes are served, is SEEKING. -/
theorem Cursor.Settled.seeking {c : Cursor} (h : c.Settled) (ho : c.op = .serving ∨ c.op = .seekDone) :
    c.state = .seeking := by
  rcases ho with ho | ho <;> simpa [opFits, ho] using h.2.2

/-- A cursor with a step, a window end, a wrap or a head in flight is RUNNING. -/
theorem Cursor.Settled.running {c : Cursor} (h : c.Settled)
    (ho : (∃ f, c.op = .step f) ∨ (∃ x, c.op = .ending x) ∨ c.op = .wrapping ∨ c.op = .heading) :
    c.state = .running := by
  rcases ho with ⟨f, ho⟩ | ⟨x, ho⟩ | ho | ho <;> simpa [opFits, ho] using h.2.2

/-- Outside SEEKING and RUNNING a cursor without a snapshot has nothing in flight. -/
theorem Cursor.Settled.op_none {c : Cursor} (h : c.Settled) (hn : c.snap = none) (hs : c.state ≠ .seeking)
    (hr : c.state ≠ .running) : c.op = .none := by
  have hf := h.2.2
  rw [hn] at hf
  cases ho : c.op with
  | none => rfl
  | rebuild r => cases hk : r.kind <;> simp [opFits, ho, hk, hs, hr] at hf
  | _ => simp [opFits, ho, hs, hr] at hf

/-- A cursor with nothing in flight. -/
theorem settled_quiet {c : Cursor} (ho : c.op = .none) (hn : c.snap = none)
    (ha : c.armedFrom.isSome ↔ c.state = .armed) : c.Settled :=
  ⟨ha, by simp [hn], by simp [opFits, ho]⟩

/-- A cursor with nothing in flight that is not ARMED. -/
theorem settled_resting {c : Cursor} (ho : c.op = .none) (hn : c.snap = none) (ha : c.armedFrom = none)
    (hs : c.state ≠ .armed) : c.Settled := settled_quiet ho hn (by simp [ha, hs])

/-- An operation that fits a RUNNING cursor. -/
theorem Cursor.Settled.with_op {c d : Cursor} (h : c.Settled) (hs : d.state = c.state) (ha : d.armedFrom = c.armedFrom)
    (hn : d.snap = c.snap) (ho : opFits c.snap.isSome c.state d.op = true) : d.Settled := by
  unfold Cursor.Settled
  rw [hs, ha, hn]
  exact ⟨h.1, h.2.1, ho⟩

/-! ### Delivery and flags -/

theorem lagTest_keeps (e : Env) (c : Cursor) : Keeps c (c.lagTest e) := by
  obtain ⟨b, hb⟩ := lagTest_eq e c
  rw [hb]
  exact .same (.same rfl rfl rfl) rfl rfl

theorem lagTest_moves (e : Env) (k : Slot) (l : Live) : Moves l (lagTest e k l) :=
  Moves.withCursor fun c hc => Moves.keeps hc (lagTest_keeps e c)

theorem flush_moves (k : Slot) (l : Live) : Moves l (flush k l) := by
  cases h : l.cursor k with
  | none => unfold flush; rw [withCursor_none _ h]; exact Moves.refl l
  | some c =>
    obtain ⟨_, _, _, _, _, _, ht, hl⟩ := flush_cursor h
    exact Moves.at h (flush_flushed h).1 (.flushes c) hl.1 (ht ▸ SameButStamps.refl _)

theorem writeWaiting_moves (e : Env) {l : Live} {k : Slot} {c : Cursor} (h : l.cursor k = some c)
    (hr : c.buffer.hasRoom c.options = true) : Moves l (writeWaiting e k l) := by
  cases hw : c.buffer.waiting with
  | none =>
    unfold writeWaiting
    rw [withCursor_some _ h]
    simp only [hw]
    exact Moves.refl l
  | some plan =>
    obtain ⟨_, _, _, _, _, ht, hl⟩ := writeWaiting_cursor e h hw
    exact Moves.at h (writeWaiting_delivers e h hw).1 (.writes _ _ _ hr) hl.1 (ht ▸ SameButStamps.refl _)

/-- An operation writes an item: `done` goes on where the item is written. -/
theorem emit_moves (e : Env) {l : Live} {k : Slot} {c : Cursor} (h : l.cursor k = some c) {op : Op} {plan : ItemPlan}
    (hk : Keeps c { c with op := op, buffer := { c.buffer with waiting := some plan } }) {done : Live → Live}
    (hd : ∀ m d, m.cursor k = some d → d.op = op.wrote → d.snap = c.snap → d.state = c.state → Moves m (done m)) :
    Moves l (emit e k op plan done l) := by
  have hm := Moves.keeps h hk
  cases hr : c.buffer.hasRoom c.options with
  | false =>
    rw [emit_waits e h op plan done hr]
    exact hm.trans (lagTest_moves e k _)
  | true =>
    rw [emit_room e h op plan done hr]
    have hx := cursor_setCursor_same l k { c with op := op, buffer := { c.buffer with waiting := some plan } }
    exact (hm.trans (writeWaiting_moves e hx hr)).trans (hd _ _ (writeWaiting_delivers e hx rfl).1 rfl rfl rfl)

/-! ### Rebuilds -/

/-- A setting of the cursor that is there. -/
theorem setCursor_self {l : Live} {k : Slot} {c : Cursor} (h : l.cursor k = some c) : l.setCursor k c = l := by
  have : vput l.cursors k (some c) = l.cursors := by
    rw [← h]
    exact Vector.set_getElem_self _
  unfold Live.setCursor
  rw [this]

/-- R89: a rebuild starts in a cursor just made of `c`. -/
theorem startRebuild_moves (e : Env) {l : Live} {k : Slot} {c u : Cursor} (h : l.cursor k = some c) (hu : Carries c u)
    {kind : RebuildKind} (target : Nat)
    (hs : ∀ r, r.kind = kind → c.Settled → Cursor.Settled { u with op := .rebuild r }) :
    Moves l (startRebuild e k kind target (l.setCursor k u)) := by
  let d : Cursor := u.startRebuild kind target (l.checkpoints.choose target).1
  have hd : Rebuilds l.checkpoints c d :=
    { options := hu.options, stepsLeft := hu.stepsLeft, probes := hu.probes, places := hu.places
      begun := ⟨_, _, _, rebuildBegun_start l.checkpoints u kind target u.lagging⟩
      settled := hs _ rfl }
  have hl : startRebuild e k kind target (l.setCursor k u) =
      { (l.setCursor k d).setCursor k (d.lagTest e) with checkpoints := (l.checkpoints.choose target).2 } := by
    rw [startRebuild_eq e (cursor_setCursor_same l k u), setCursor_setCursor]
    simp only [Live.setCursor, vput, Vector.set_set]
    rfl
  have hx := cursor_setCursor_same l k d
  rw [hl]
  refine ((Moves.setCursor h (.rebuilds hd)).trans (Moves.keeps hx (lagTest_keeps e d))).trans ?_
  exact Relation.ReflTransGen.single
    ⟨choose_sameButStamps _ _, fun j x hj => .inl ⟨x, hj, CursorMove.refl _ x⟩⟩

/-- R122: a rebase starts in a RUNNING cursor, or in one with a snapshot. -/
theorem startRebase_moves (e : Env) {l : Live} {k : Slot} {c : Cursor} (h : l.cursor k = some c)
    (hs : c.state = .running ∨ c.snap.isSome = true) : Moves l (startRebase e k l) := by
  unfold startRebase
  rw [withCursor_some _ h]
  have := startRebuild_moves e h (u := c) (.same rfl rfl rfl) (kind := .rebase) (c.instant.getD 0) fun r hr hc =>
    hc.with_op rfl rfl rfl (by
      rcases hs with hs | hs
      · simp [opFits, hr, hs]
      · rcases hc.2.1 hs with g | g <;> simp [opFits, hr, hs, g])
  rwa [setCursor_self h] at this

/-- R107: a seek starts in a cursor just made of `c`, without a snapshot. -/
theorem startSeek_moves (e : Env) {l : Live} {k : Slot} {c u : Cursor} (h : l.cursor k = some c) (hu : Carries c u)
    (hs : c.Settled → u.snap = none) (target : Nat) (chain : Bool) :
    Moves l (startSeek e k target chain (l.setCursor k u)) := by
  have hm := startRebuild_moves e h
    (u := { u.leaveRunning with state := .seeking, chain := chain, armedFrom := none })
    ⟨hu.options, fun _ => Nat.zero_le _, hu.probes, hu.places⟩
    (kind := .seek) target fun r hr hc => ⟨by simp, by simp [Cursor.leaveRunning, hs hc], by simp [opFits, hr]⟩
  unfold startSeek
  rw [withCursor_some _ (cursor_setCursor_same l k u), setCursor_setCursor]
  dsimp only
  split_ifs
  · exact hm
  · exact hm.trans (flush_moves k _)

/-! ### Playing and triggers -/

/-- R109, R110: a cursor without a snapshot begins to run. -/
theorem beginPlay_moves (e : Env) {l : Live} {k : Slot} {c : Cursor} (h : l.cursor k = some c)
    (hs : c.Settled → c.snap = none) (under : Bool) {steps : Nat} (hn : steps ≤ 4096) :
    Moves l (beginPlay e k under steps l) := by
  unfold beginPlay
  rw [withCursor_some _ h]
  dsimp only
  have hk : Keeps c
      { c with
        trailFrozen := false, armedFrom := none, state := .running, op := .none, stepsLeft := steps, underStep := under
        parked := false, redo := false } :=
    .turns (.of rfl (fun _ => hn) le_rfl) rfl (fun hc => settled_resting rfl (hs hc) rfl (by simp)) (by simp) (by simp)
  split_ifs
  · exact startSeek_moves e h (u := { c with trailFrozen := false, armedFrom := none }) (.same rfl rfl rfl) hs _ _
  · exact (Moves.keeps h hk).trans (startRebase_moves e (cursor_setCursor_same l k _) (.inl rfl))
  · exact Moves.keeps h hk

theorem notifyState_moves (k : Slot) (cause : StateCause) (l : Live) : Moves l (notifyState k cause l) :=
  Moves.withCursor fun _ _ => Moves.notify _ _ _

/-- R119: a trigger starts an ARMED cursor. -/
theorem trigger_moves (e : Env) (k : Slot) (l : Live) : Moves l (trigger e k l) := by
  refine Moves.withCursor fun c hc => ?_
  split_ifs with hs
  · have hn : c.Settled → c.snap = none := fun g => g.snap_none (by simp [hs]) (by simp [hs])
    refine Moves.trans ?_ (notifyState_moves k _ _)
    unfold triggerAction
    split_ifs
    · exact beginPlay_moves e hc hn _ (Nat.zero_le _)
    · exact startSeek_moves e hc (u := { c with trailFrozen := false }) (.same rfl rfl rfl) hn _ _
    · have := startSeek_moves e hc (u := c) (.same rfl rfl rfl) hn c.options.windowStart true
      rwa [setCursor_self hc] at this
  · exact Moves.refl l

theorem triggerEvent_moves (e : Env) (src : TriggerSource) (l : Live) : Moves l (triggerEvent e src l) :=
  Moves.inFreeOrder (trigger_moves e) _ l

theorem signalFrom_moves (e : Env) (k : Slot) (l : Live) : Moves l (signalFrom e k l) := triggerEvent_moves e _ l

/-! ### Probes begin, boundaries -/

theorem beginProbe_moves (e : Env) (k : Slot) (l : Live) : Moves l (beginProbe e k l) := by
  refine Moves.withCursor fun c hc => ?_
  split
  · exact Moves.refl l
  · rename_i q rest hq
    exact Moves.at hc (cursor_setCursor_same _ k _) (.keeps (.same (.of rfl id (by simp [hq])) rfl rfl))
      (fun j hj => cursor_setCursor_ne _ _ (Ne.symm hj)) (choose_sameButStamps _ _)

theorem kickProbe_moves (e : Env) (k : Slot) (l : Live) : Moves l (kickProbe e k l) := by
  refine Moves.withCursor fun c hc => ?_
  split
  · exact Moves.refl l
  · split_ifs
    · exact beginProbe_moves e k l
    · exact Moves.refl l

/-- R96, R108, R111: a RUNNING cursor, or one whose seek is served, becomes HELD. -/
theorem becomeHeld_moves {l : Live} {k : Slot} {c : Cursor} (h : l.cursor k = some c)
    (hs : c.state = .running ∨ c.op = .serving) : Moves l (becomeHeld k l) := by
  unfold becomeHeld
  rw [modify_some _ h]
  refine (Moves.keeps h ?_).trans (flush_moves k _)
  have hst : c.Settled → c.state = .running ∨ c.state = .seeking := fun hc => hs.imp_right fun g => hc.seeking (.inl g)
  refine .turns (.stopped rfl rfl rfl) rfl (fun hc => ?_) (by simp) (by simp)
  have hst := hst hc
  have hne : ∀ x : CursorState, x ≠ .running → x ≠ .seeking → c.state ≠ x := fun x h1 h2 e =>
    hst.elim (fun g => h1 (e ▸ g)) fun g => h2 (e ▸ g)
  exact settled_resting rfl (hc.snap_none (hne _ (by simp) (by simp)) (hne _ (by simp) (by simp)))
    (hc.armedFrom_none (hne _ (by simp) (by simp))) (by simp)

theorem atBoundary_moves (e : Env) (k : Slot) (l : Live) : Moves l (atBoundary e k l) := by
  refine Moves.withCursor fun c hc => ?_
  split_ifs with h1
  · exact Moves.refl l
  · exact kickProbe_moves e k l
  · exact Moves.refl l
  · exact becomeHeld_moves hc (.inl (not_not.1 (not_or.1 h1).1))
  · exact startRebase_moves e hc (.inl (not_not.1 (not_or.1 h1).1))
  · exact Moves.refl l

/-- A RUNNING cursor comes to rest in another state, its operation ended. -/
theorem keeps_of_running {c d : Cursor} (hr : c.Settled → c.state = .running) (hd : Carries c d) (himg : d.stand = c.stand)
    (hk : d.armedFrom = c.armedFrom ∧ d.snap = c.snap) (ho : d.op = .none) (hs : d.state ≠ .armed) : Keeps c d :=
  .turns hd himg (fun hc => by
    have := hr hc
    exact settled_resting ho (hk.2.trans (hc.snap_none (by simp [this]) (by simp [this])))
      (hk.1.trans (hc.armedFrom_none (by simp [this]))) hs) (by simp [ho]) (by simp [ho])

/-! ### Window end, wrap and head -/

/-- R115: a cursor whose END is written becomes ENDED. -/
theorem becomeEnded_moves (e : Env) {l : Live} {k : Slot} {c : Cursor} (h : l.cursor k = some c) {x : StateCause}
    (hs : c.op = .ending x) (cause : StateCause) : Moves l (becomeEnded e k cause l) := by
  unfold becomeEnded
  rw [modify_some _ h]
  refine (Moves.keeps h ?_).trans ((((flush_moves k _).trans (notifyState_moves k cause _)).trans
    (signalFrom_moves e k _)).trans (kickProbe_moves e k _))
  exact keeps_of_running (fun hc => hc.running (.inr (.inl ⟨x, hs⟩))) (.stopped rfl rfl rfl)
    rfl ⟨rfl, rfl⟩ rfl (by simp)

/-- A RUNNING cursor takes an operation that fits it. -/
theorem keeps_running_op {c d : Cursor} (hr : c.state = .running) (hd : Carries c d) (himg : d.stand = c.stand)
    (hk : d.armedFrom = c.armedFrom ∧ d.snap = c.snap) (hs : d.state = c.state)
    (ho : d.op = .none ∨ d.op = .wrapping ∨ d.op = .heading ∨ ∃ x, d.op = .ending x) : Keeps c d :=
  .turns hd himg (fun hc => hc.with_op hs hk.1 hk.2 (by rcases ho with g | g | g | ⟨x, g⟩ <;> simp [opFits, g, hr]))
    (by rcases ho with g | g | g | ⟨x, g⟩ <;> simp [g]) (by rcases ho with g | g | g | ⟨x, g⟩ <;> simp [g])

theorem endPass_moves (e : Env) {l : Live} {k : Slot} {c : Cursor} (h : l.cursor k = some c)
    (hr : c.state = .running) (cause : StateCause) : Moves l (endPass e k cause l) := by
  unfold endPass
  rw [withCursor_some _ h]
  have hx := cursor_setCursor_same l k { c with instant := some (endInstant e c), atHead := false, parked := false }
  refine Moves.after h (emit_moves e hx ?_ fun m d hd ho _ _ => becomeEnded_moves e hd ho cause)
    (.same (.same rfl rfl rfl) rfl rfl)
  exact keeps_running_op hr (.same rfl rfl rfl) rfl ⟨rfl, rfl⟩ rfl (.inr (.inr (.inr ⟨cause, rfl⟩)))

/-- R116: a cursor whose WRAP is written starts its wrap rebuild. -/
theorem startWrap_moves (e : Env) {l : Live} {k : Slot} {c : Cursor} (h : l.cursor k = some c)
    (hs : c.op = .wrapping) : Moves l (startWrap e k l) := by
  unfold startWrap
  rw [withCursor_some _ h]
  have := startRebuild_moves e h (u := c) (.same rfl rfl rfl) (kind := .wrap) c.options.windowStart fun r hr hc =>
    hc.with_op rfl rfl rfl (by simp [opFits, hr, hc.running (.inr (.inr (.inl hs)))])
  rwa [setCursor_self h] at this

theorem wrapPass_moves (e : Env) {l : Live} {k : Slot} {c : Cursor} (h : l.cursor k = some c)
    (hr : c.state = .running) : Moves l (wrapPass e k l) := by
  unfold wrapPass
  rw [withCursor_some _ h]
  have hx := cursor_setCursor_same l k { c with atHead := false, parked := false }
  refine Moves.after h (emit_moves e hx ?_ fun m d hd ho _ _ => startWrap_moves e hd ho) (.same (.same rfl rfl rfl) rfl rfl)
  exact keeps_running_op hr (.same rfl rfl rfl) rfl ⟨rfl, rfl⟩ rfl (.inr (.inl rfl))

theorem reachEnd_moves (e : Env) {l : Live} {k : Slot} {c : Cursor} (h : l.cursor k = some c)
    (hr : c.state = .running) (cause : StateCause) : Moves l (reachEnd e k cause l) := by
  unfold reachEnd
  rw [withCursor_some _ h]
  split_ifs
  · exact wrapPass_moves e h hr
  · exact endPass_moves e h hr _
  · exact endPass_moves e h hr _

theorem takeSeal_moves (e : Env) (k : Slot) (l : Live) : Moves l (takeSeal e k l) := by
  refine Moves.withCursor fun c hc => ?_
  split_ifs with h1
  · exact Moves.refl l
  · exact Moves.after hc (atBoundary_moves e k _) (.same (.same rfl rfl rfl) rfl rfl)
  · refine Moves.after hc (reachEnd_moves e (cursor_setCursor_same l k _) ?_ _) (.same (.same rfl rfl rfl) rfl rfl)
    exact not_not.1 (not_or.1 h1).1

/-- An operation ends, and the cursor stays in its state. -/
theorem keeps_op_none {c d : Cursor} (hd : Carries c d) (himg : d.stand = c.stand)
    (hk : d.armedFrom = c.armedFrom ∧ d.snap = c.snap ∧ d.state = c.state) (ho : d.op = .none) : Keeps c d :=
  .turns hd himg (fun hc => hc.with_op hk.2.2 hk.1 hk.2.1 (by simp [opFits, ho])) (by simp [ho]) (by simp [ho])

/-- R117: a cursor whose HEAD is written, or that reads again at the head, settles there. -/
theorem settleHead_moves (e : Env) {l : Live} {k : Slot} {c : Cursor} (h : l.cursor k = some c) : Moves l (settleHead e k l) := by
  unfold settleHead
  rw [withCursor_some _ h]
  dsimp only
  split
  · exact Moves.after h (atBoundary_moves e k _) (keeps_op_none (.same rfl rfl rfl) rfl ⟨rfl, rfl, rfl⟩ rfl)
  · split
    · exact Moves.after h (takeSeal_moves e k _) (keeps_op_none (.same rfl rfl rfl) rfl ⟨rfl, rfl, rfl⟩ rfl)
    · exact Moves.after h (atBoundary_moves e k _) (keeps_op_none (.same rfl rfl rfl) rfl ⟨rfl, rfl, rfl⟩ rfl)

theorem meetHead_moves (e : Env) {l : Live} {k : Slot} {c : Cursor} (h : l.cursor k = some c)
    (hr : c.state = .running) : Moves l (meetHead e k l) := by
  unfold meetHead
  rw [withCursor_some _ h]
  split_ifs
  · exact settleHead_moves e h
  · refine emit_moves e h ?_ fun m d hd _ _ _ => settleHead_moves e hd
    exact keeps_running_op hr (.same rfl rfl rfl) rfl ⟨rfl, rfl⟩ rfl (.inr (.inr (.inl rfl)))

theorem waitForClock_moves (e : Env) (k : Slot) (l : Live) : Moves l (waitForClock e k l) := by
  refine Moves.trans (Moves.trans ?_ (flush_moves k _)) (atBoundary_moves e k _)
  exact Moves.modify fun c => .same (.same rfl rfl rfl) rfl rfl

/-! ### The end of a step, and of a rebuild -/

/-- R147: a HOLD watch holds the cursor whose step has ended. -/
theorem holdByWatch_moves (e : Env) {l : Live} {k : Slot} {c : Cursor} (h : l.cursor k = some c) {f : StepFlight}
    (hs : c.op = .step f) (ws : Vector (Option Watch) 8) :
    Moves l (holdByWatch e k f (l.setCursor k { c with watches := ws, op := .none })) := by
  unfold holdByWatch
  rw [modify_some _ (cursor_setCursor_same l k _), setCursor_setCursor]
  refine Moves.after h (((flush_moves k _).trans (Moves.withCursor fun _ _ => Moves.notify _ _ _)).trans
    (kickProbe_moves e k _)) ?_
  exact keeps_of_running (fun hc => hc.running (.inl ⟨f, hs⟩)) (.stopped rfl rfl rfl)
    rfl ⟨rfl, rfl⟩ rfl (by simp)

/-- R144 to R147: a step whose items are written ends. -/
theorem stepEnd_moves (e : Env) {l : Live} {k : Slot} {c : Cursor} (h : l.cursor k = some c) {f : StepFlight}
    (hs : c.op = .step f) : Moves l (stepEnd e k f l) := by
  unfold stepEnd
  rw [withCursor_some _ h]
  dsimp only
  have held := holdByWatch_moves e h hs (hitWatches f.fired c.watches)
  have stands : Moves l (atBoundary e k
      (l.setCursor k { c with watches := hitWatches f.fired c.watches, op := .none })) :=
    Moves.after h (atBoundary_moves e k _) (keeps_op_none (.same rfl rfl rfl) rfl ⟨rfl, rfl, rfl⟩ rfl)
  split_ifs
  · exact held.trans (signalFrom_moves e k _)
  · exact stands.trans (signalFrom_moves e k _)
  · exact held
  · exact stands

/-- R108: a seek whose probes are served ends. -/
theorem finishSeek_moves (e : Env) {l : Live} {k : Slot} {c : Cursor} (h : l.cursor k = some c)
    (hs : c.op = .serving) : Moves l (finishSeek e k l) := by
  unfold finishSeek
  rw [withCursor_some _ h]
  split_ifs
  · refine Moves.after h (atBoundary_moves e k _)
      (.turns (.same rfl rfl rfl) rfl (fun hc => ?_) (by simp) (by simp))
    have hst := hc.seeking (.inl hs)
    exact settled_resting rfl (hc.snap_none (by simp [hst]) (by simp [hst])) (hc.armedFrom_none (by simp [hst]))
      (by simp)
  · exact becomeHeld_moves h (.inr hs)

/-- R108: a seek whose SEEK_DONE is written serves its probes, then ends. -/
theorem seekWritten_moves (e : Env) {l : Live} {k : Slot} {c : Cursor} (h : l.cursor k = some c)
    (hs : c.op = .seekDone) : Moves l (seekWritten e k l) := by
  have hk : Keeps c { c with op := .serving } :=
    .turns (.same rfl rfl rfl) rfl (fun hc => hc.with_op rfl rfl rfl (by simp [opFits, hc.seeking (.inr hs)]))
      (by simp) (by simp)
  unfold seekWritten
  rw [withCursor_some _ h]
  dsimp only
  split_ifs
  · exact Moves.after h (finishSeek_moves e (cursor_setCursor_same l k _) rfl) hk
  · exact Moves.after h (kickProbe_moves e k _) hk

theorem rebaseWritten_moves (e : Env) (k : Slot) (l : Live) : Moves l (rebaseWritten e k l) := by
  refine Moves.trans (Moves.withCursor fun c hc => ?_) (atBoundary_moves e k _)
  exact Moves.keeps hc (keeps_op_none (.same rfl rfl rfl) rfl ⟨rfl, rfl, rfl⟩ rfl)

/-- R93: a rebuild in flight completes. -/
theorem completeRebuild_moves (e : Env) {l : Live} {k : Slot} {c : Cursor} (h : l.cursor k = some c) {r : Rebuild}
    (hs : c.op = .rebuild r) : Moves l (completeRebuild e k r l) := by
  have hm := Moves.keeps h (d := c.completeRebuild r) (.same (.same rfl rfl rfl) rfl rfl)
  have hx := cursor_setCursor_same l k (c.completeRebuild r)
  unfold completeRebuild
  rw [withCursor_some _ h]
  dsimp only
  split
  · rename_i hk
    refine hm.trans (emit_moves e hx ?_ fun m d hd ho _ _ => seekWritten_moves e hd ho)
    exact .turns (.same rfl rfl rfl) rfl
      (fun hc => hc.with_op rfl rfl rfl (by simpa [opFits, Cursor.completeRebuild, hs, hk] using hc.2.2))
      (by simp) (by simp)
  · rename_i hk
    refine hm.trans (emit_moves e hx ?_ fun m _ _ _ _ _ => rebaseWritten_moves e k m)
    exact .turns (.same rfl rfl rfl) rfl
      (fun hc => hc.with_op rfl rfl rfl (by simpa [opFits, Cursor.completeRebuild, hs, hk] using hc.2.2))
      (by simp) (by simp)
  · rw [modify_some _ hx]
    exact hm.trans (Moves.after hx (atBoundary_moves e k _)
      (keeps_op_none (.same rfl rfl rfl) rfl ⟨rfl, rfl, rfl⟩ rfl))

/-! ### After an item is written -/

theorem endSnapshot_moves {l : Live} {k : Slot} {c : Cursor} (h : l.cursor k = some c) (ho : c.op = .none) :
    Moves l (endSnapshot k l) := by
  unfold endSnapshot
  rw [modify_some _ h]
  exact Moves.after h (flush_moves k _)
    (.goesOn (.same rfl rfl rfl) rfl rfl fun hc => settled_quiet ho rfl hc.1)

theorem afterItem_moves (e : Env) (k : Slot) (l : Live) : Moves l (afterItem e k l) := by
  refine Moves.withCursor fun c hc => ?_
  split
  · split_ifs
    · exact stepEnd_moves e hc ‹_›
    · exact Moves.refl l
  · exact becomeEnded_moves e hc ‹_› _
  · exact startWrap_moves e hc ‹_›
  · exact settleHead_moves e hc
  · exact seekWritten_moves e hc ‹_›
  · exact rebaseWritten_moves e k l
  · split
    · split_ifs
      · exact endSnapshot_moves hc ‹_›
      · exact Moves.refl l
    · exact Moves.refl l
  · exact Moves.refl l
  · exact Moves.refl l

theorem resumeWaiting_moves (e : Env) (k : Slot) (l : Live) : Moves l (resumeWaiting e k l) := by
  refine Moves.withCursor fun c hc => ?_
  split_ifs with hr
  · exact (writeWaiting_moves e hc (by simp at hr; exact hr.2)).trans (afterItem_moves e k _)
  · exact Moves.refl l

theorem writeNext_moves (e : Env) (k : Slot) (l : Live) : Moves l (writeNext e k l) := by
  refine Moves.withCursor fun c hc => ?_
  split
  · rename_i f hf
    split
    · exact Moves.refl l
    · refine emit_moves e hc ?_ fun m _ _ _ _ _ => afterItem_moves e k m
      exact .of (.same rfl rfl rfl) rfl (fun h => h.with_op rfl rfl rfl (by simpa [opFits, hf] using h.2.2))
        (fun g hg => ⟨f, hf, by cases hg; rfl⟩) (by simp)
  · rename_i ho
    split
    · rename_i w hw
      split
      · exact Moves.refl l
      · refine Moves.after hc (emit_moves e (cursor_setCursor_same l k _) ?_ fun m _ _ _ _ _ => afterItem_moves e k m)
          (.goesOn (.same rfl rfl rfl) rfl rfl fun h =>
            ⟨h.1, fun _ => h.2.1 (by rw [hw]; rfl), by simp [opFits, ho]⟩)
        exact keeps_op_none (.same rfl rfl rfl) rfl ⟨rfl, rfl, rfl⟩ rfl
    · exact Moves.refl l
  · exact Moves.refl l

theorem itemWritten_moves (e : Env) (k : Slot) (l : Live) : Moves l (itemWritten e k l) := by
  refine Moves.withCursor fun c _ => ?_
  split_ifs
  · exact writeNext_moves e k l
  · exact Moves.refl l

/-! ### Probes, abandonment, the clock -/

theorem afterProbes_moves (e : Env) (k : Slot) (l : Live) : Moves l (afterProbes e k l) := by
  refine Moves.withCursor fun c hc => ?_
  split
  · exact finishSeek_moves e hc ‹_›
  · exact atBoundary_moves e k l
  · exact Moves.refl l

theorem probeRead_moves (e : Env) (k : Slot) (l : Live) : Moves l (probeRead e k l) := by
  refine Moves.withCursor fun c hc => ?_
  split
  · exact Moves.refl l
  · rename_i q rest hq
    split
    · exact Moves.refl l
    · split
      · exact Moves.keeps hc (.same (.of rfl id (by simp [hq])) rfl rfl)
      · have hk : Keeps c { c with probes := rest } := .same (.of rfl id (by simp [hq])) rfl rfl
        dsimp only
        split_ifs
        · exact Moves.after hc ((Moves.notify _ _ _).trans (afterProbes_moves e k _)) hk
        · exact Moves.after hc ((Moves.notify _ _ _).trans (kickProbe_moves e k _)) hk

/-- R96, R112: a rebuild is abandoned in SEEKING or RUNNING. -/
theorem abandon_moves (e : Env) {l : Live} {k : Slot} {c : Cursor} (h : l.cursor k = some c)
    (hs : c.state = .seeking ∨ c.state = .running) : Moves l (abandon e k l) := by
  have hne : c.state ≠ .held ∧ c.state ≠ .ended ∧ c.state ≠ .armed := by rcases hs with g | g <;> simp [g]
  unfold abandon
  rw [modify_some _ h]
  refine Moves.after h ((flush_moves k _).trans (kickProbe_moves e k _)) ?_
  unfold Cursor.abandonRebuild
  split <;> exact .turns (.stopped rfl rfl rfl) rfl
    (fun hc => settled_resting rfl (hc.snap_none hne.1 hne.2.1) (hc.armedFrom_none hne.2.2) (by simp)) (by simp) (by simp)

theorem followClock_keeps (e : Env) (c : Cursor) : Keeps c (c.followClock e) := by
  unfold Cursor.followClock
  split_ifs
  · obtain ⟨b, hb⟩ := lagTest_eq e { c with instant := some e.clock.instant, parked := false }
    rw [hb]
    exact .same (.same rfl rfl rfl) rfl rfl
  · exact lagTest_keeps e c
  · exact Keeps.refl c

theorem followClockAll_moves (e : Env) (l : Live) : Moves l (followClockAll e l) :=
  Moves.map (followClock_keeps e) (fun k => by simp [followClockAll, Live.cursor]) rfl

theorem clockSetReaches_moves (e : Env) (k : Slot) (l : Live) : Moves l (clockSetReaches e k l) := by
  refine Moves.withCursor fun c hc => ?_
  split_ifs with hr
  · have hs : c.state ≠ .held ∧ c.state ≠ .ended := by
      constructor <;> intro g <;> simp [reseeks, g] at hr
    have hm := startSeek_moves e hc (u := { c with pendingHold := none }) (.same rfl rfl rfl) (fun h => h.snap_none hs.1 hs.2)
      e.clock.instant c.pendingHold.isNone
    unfold reseek
    rw [withCursor_some _ hc]
    dsimp only
    split_ifs
    · exact hm.trans (notifyState_moves k _ _)
    · exact hm
  · exact trigger_moves e k l

end Sys2Proof.Machine
end

section
/-!
PROOF. Every move keeps a cursor lawful (R99, R104, R118, R123, R130 to R133, R137, R139, R151, R154, R157).
-/

namespace Sys2Proof.Machine

open Sys2Proof

/-! ### Buffers (R130 to R139) -/

/-- The law of a buffer speaks of its places alone. -/
theorem Buffer.lawful.of_places {o : Options} {a b : Buffer} (h : a.lawful o) (hp : a.SamePlaces b) : b.lawful o := by
  obtain ⟨h1, h2, h3, h4⟩ := hp
  unfold Buffer.lawful
  rw [h1, h2, h3, h4]
  exact h

/-- The law of a buffer turns on mode, split and batch size alone. -/
theorem Buffer.lawful.of_options {o p : Options} {b : Buffer} (h : b.lawful o)
    (he : p.mode = o.mode ∧ p.split = o.split ∧ p.batchSize = o.batchSize) : b.lawful p := by
  obtain ⟨h1, h2, h3⟩ := he
  unfold Buffer.lawful
  rw [h1, h2, h3]
  exact h

/-- R133: batches of different halves, none of the writing half. -/
theorem split_batches_length {cs : List Batch} {h : Option Half} (hn : (cs.map Batch.half).Nodup)
    (hh : ∀ x ∈ cs, x.half ≠ none ∧ x.half ≠ h) : cs.length ≤ if h = none then 2 else 1 := by
  have hsub : ∀ x ∈ cs.map Batch.half, x ∈ ([some .a, some .b].filter fun y => decide (y ≠ h)) := by
    intro x hx
    obtain ⟨y, hy, rfl⟩ := List.mem_map.1 hx
    obtain ⟨h1, h2⟩ := hh y hy
    cases hy : y.half with
    | none => exact absurd hy h1
    | some z => rw [hy] at h2; cases z <;> simp [h2]
  have hl := (hn.subperm hsub).length_le
  rw [List.length_map] at hl
  refine hl.trans ?_
  rcases h with _ | _ | _ <;> decide

/-- R132, R133: batches of at most `n` items each. -/
theorem sum_batches_le {cs : List Batch} {n : Nat} (h : ∀ x ∈ cs, x.items.length ≤ n) :
    (cs.map fun x => x.items.length).sum ≤ cs.length * n := by
  have := List.sum_le_card_nsmul (cs.map fun x => x.items.length) n (by simpa using h)
  simpa using this

/-- R133: the half chosen after a batch completes holds no completed batch. -/
theorem nextHalf_free {cs : List Batch} {b : Batch} {h : Option Half} (hb : b.half = h) :
    ∀ x ∈ cs ++ [b], nextHalf cs h ≠ none → x.half ≠ nextHalf cs h := by
  intro x hx hne
  unfold nextHalf at hne ⊢
  cases h with
  | none => simp at hne
  | some y =>
    dsimp only at hne ⊢
    split_ifs at hne ⊢ with hany
    · simp at hne
    · rcases List.mem_append.1 hx with hx | hx
      · intro e
        exact hany (List.any_eq_true.2 ⟨x, hx, by simp [e]⟩)
      · rw [List.mem_singleton.1 hx, hb]
        cases y <;> simp [Half.other]

/-- R130, R132, R133: in NOTICE mode a batch that completes in the room it had leaves a lawful buffer. -/
theorem completed_lawful {o : Options} {b : Buffer} (h : b.lawful o) (hm : o.mode = .notice) {t : Batch} {a : Buffer}
    (hroom : b.hasRoom o = true ∨ b.writing ≠ []) (ht : t.half = if o.split then b.half else none)
    (hl : t.items.length ≤ o.batchSize) (hw : a.writing = []) (hc : a.completed = b.completed ++ [t])
    (ho : a.outgoing = b.outgoing) (hh : o.split = true → a.half = nextHalf b.completed b.half) : a.lawful o := by
  obtain ⟨h1, h2, h3, -, h5⟩ := h
  obtain ⟨hout, -, hitems, hun, hsp⟩ := h5 hm
  have hall : ∀ x ∈ b.completed ++ [t], x.items.length ≤ o.batchSize := fun x hx =>
    (List.mem_append.1 hx).elim (hitems x) fun g => List.mem_singleton.1 g ▸ hl
  have hsum := sum_batches_le hall
  cases hs : o.split with
  | false =>
    have hnil : b.completed = [] := by
      rcases hroom with g | g
      · simpa [Buffer.hasRoom, hm, hs] using g
      · by_contra hne
        exact g ((hun hs).2 hne)
    refine ⟨h1, h2, ?_, by simp [hm], fun _ => ⟨ho.trans hout, by rw [hw]; exact h1, by rw [hc]; exact hall,
      fun _ => ⟨by simp [hc, hnil], fun _ => hw⟩, by simp [hs]⟩⟩
    rw [hs, if_neg (by simp)] at h2
    rw [hw, hc, ho, hout]
    simp only [hnil, List.nil_append, List.length_singleton, List.length_nil, one_mul, zero_add, add_zero] at hsum ⊢
    omega
  | true =>
    obtain ⟨hnd, hhalf, hnone⟩ := hsp hs
    rw [hs, if_pos rfl] at ht h2
    have hb : b.half ≠ none := by
      rcases hroom with g | g
      · intro e
        simp [Buffer.hasRoom, hm, hs, e] at g
      · exact fun e => g (hnone e)
    have hcount := split_batches_length hnd hhalf
    rw [if_neg hb] at hcount
    have hnew : ((b.completed ++ [t]).map Batch.half).Nodup := by
      rw [List.map_append, List.nodup_append]
      refine ⟨hnd, List.nodup_singleton _, ?_⟩
      intro x hx y hy e
      obtain ⟨z, hz, rfl⟩ := List.mem_map.1 hx
      rw [List.map_singleton, List.mem_singleton] at hy
      exact (hhalf z hz).2 (e.trans (hy.trans ht))
    have hfree := nextHalf_free (cs := b.completed) ht
    have hsome : ∀ x ∈ b.completed ++ [t], x.half ≠ none := fun x hx =>
      (List.mem_append.1 hx).elim (fun g => (hhalf x g).1) fun g => by rw [List.mem_singleton.1 g, ht]; exact hb
    refine ⟨h1, by rw [hs]; exact h2, ?_, by simp [hm], fun _ => ⟨ho.trans hout, by rw [hw]; exact h1,
      by rw [hc]; exact hall, by simp [hs], fun _ => ⟨hc ▸ hnew, ?_, fun _ => hw⟩⟩⟩
    · rw [hw, hc, ho, hout, List.length_nil, zero_add, add_zero]
      refine hsum.trans ?_
      rw [List.length_append, List.length_singleton]
      exact (Nat.mul_le_mul (Nat.succ_le_succ hcount) h2)
    · rw [hc, hh hs]
      intro x hx
      refine ⟨hsome x hx, fun e => ?_⟩
      exact hfree x hx (e ▸ hsome x hx) e

/-- R134: a flush leaves a lawful buffer. -/
theorem flushed_lawful {o : Options} {b : Buffer} (h : b.lawful o) : (b.flushed o).lawful o := by
  unfold Buffer.flushed
  by_cases hf : o.mode = .notice ∧ b.writing ≠ []
  · rw [if_pos hf]
    exact completed_lawful h hf.1 (.inr hf.2) rfl (le_of_lt (h.2.2.2.2 hf.1).2.1) rfl rfl rfl fun hs => if_pos hs
  · rw [if_neg hf]
    exact h

/-- R126, R131 to R134, R137: an item delivered where there is room leaves a lawful buffer. -/
theorem delivered_lawful {o : Options} {b : Buffer} (h : b.lawful o) (hr : b.hasRoom o = true) (f : Bool)
    (x : ItemBody) : (b.delivered o f x).lawful o := by
  obtain ⟨h1, h2, h3, h4, h5⟩ := h
  unfold Buffer.delivered
  dsimp only
  cases hm : o.mode with
  | push =>
    obtain ⟨hw, hcs⟩ := h4 hm
    rw [if_pos rfl]
    refine ⟨h1, h2, ?_, fun _ => ⟨hw, hcs⟩, by simp [hm]⟩
    have : b.outgoing.length < 16 := by
      simp only [Buffer.hasRoom, hm, Config.bufferSlots] at hr
      exact of_decide_eq_true hr
    simp only [hw, hcs, List.length_append, List.length_singleton, List.length_nil, List.map_nil, List.sum_nil]
    omega
  | notice =>
    obtain ⟨hout, hlt, hitems, hun, hsp⟩ := h5 hm
    rw [if_neg (by simp)]
    by_cases hc : b.completes o f = true
    · rw [if_pos hc]
      exact completed_lawful ⟨h1, h2, h3, h4, h5⟩ hm (.inl hr) rfl (by simpa [Buffer.batchWith] using hlt) rfl rfl rfl
        fun hs => if_pos hs
    · rw [if_neg hc]
      have hlt' : b.writing.length + 1 < o.batchSize := by
        by_contra hge
        exact hc (by simp [Buffer.completes, hm, not_lt.1 hge])
      have hsum := sum_batches_le hitems
      refine ⟨h1, h2, ?_, by simp [hm], fun _ => ⟨hout, by simpa using hlt', hitems, fun hs => ?_, fun hs => ?_⟩⟩
      · rw [hout, List.length_append, List.length_singleton, List.length_nil, add_zero]
        cases hs : o.split with
        | false =>
          have hnil : b.completed = [] := by simpa [Buffer.hasRoom, hm, hs] using hr
          rw [hs, if_neg (by simp)] at h2
          simp only [hnil, List.map_nil, List.sum_nil]
          omega
        | true =>
          obtain ⟨hnd, hhalf, -⟩ := hsp hs
          have hb : b.half ≠ none := by
            intro e
            simp [Buffer.hasRoom, hm, hs, e] at hr
          have hcount := split_batches_length hnd hhalf
          rw [if_neg hb] at hcount
          rw [hs, if_pos rfl] at h2
          have := Nat.mul_le_mul hcount h2
          show b.writing.length + 1 + (b.completed.map fun x => x.items.length).sum ≤ 16
          omega
      · have hnil : b.completed = [] := by simpa [Buffer.hasRoom, hm, hs] using hr
        exact ⟨(hun hs).1, fun g => absurd hnil g⟩
      · obtain ⟨hnd, hhalf, -⟩ := hsp hs
        refine ⟨hnd, hhalf, fun e => ?_⟩
        have e : b.half = none := e
        simp [Buffer.hasRoom, hm, hs, e] at hr

/-- R136: the oldest batch taken leaves a lawful buffer. -/
theorem takeBatch_lawful {o : Options} {b : Buffer} (h : b.lawful o) (hm : o.mode = .notice) {t : Batch}
    {rest : List Batch} (hc : b.completed = t :: rest) : (b.takeBatch t rest).lawful o := by
  obtain ⟨h1, h2, h3, -, h5⟩ := h
  obtain ⟨hout, hlt, hitems, hun, hsp⟩ := h5 hm
  rw [hc] at h3 hitems hun hsp
  have hun := fun hs => hun hs
  refine ⟨h1, h2, ?_, by simp [hm], fun _ => ⟨hout, hlt, fun x hx => hitems x (List.mem_cons_of_mem _ hx),
    fun hs => ⟨?_, fun _ => (hun hs).2 (by simp)⟩, fun hs => ?_⟩⟩
  · simp only [List.map_cons, List.sum_cons] at h3
    simp only [Buffer.takeBatch]
    omega
  · have := (hun hs).1
    rw [List.length_cons] at this
    simp only [Buffer.takeBatch]
    omega
  · obtain ⟨hnd, hhalf, hnone⟩ := hsp hs
    rw [List.map_cons, List.nodup_cons] at hnd
    have ht := (hhalf t List.mem_cons_self).1
    refine ⟨hnd.2, fun x hx => ⟨(hhalf x (List.mem_cons_of_mem _ hx)).1, ?_⟩, fun e => ?_⟩
    · unfold Buffer.takeBatch
      dsimp only
      split_ifs
      · exact (hhalf x (List.mem_cons_of_mem _ hx)).2
      · exact fun e => hnd.1 (List.mem_map.2 ⟨x, hx, e⟩)
    · unfold Buffer.takeBatch at e
      dsimp only at e
      split_ifs at e with hsome
      · exact hnone e
      · exact absurd e ht

/-- R139: an empty buffer is lawful under options that SET_CURSOR accepts. -/
theorem emptied_lawful {own : Slot} {o : Options} (h : optionsOk own o = true) (b : Buffer) : b.emptied.lawful o := by
  simp only [optionsOk, Bool.and_eq_true, decide_eq_true_eq] at h
  obtain ⟨⟨⟨-, h1⟩, h2⟩, -⟩ := h
  exact ⟨h1, h2, Nat.zero_le _, fun _ => ⟨rfl, rfl⟩, fun _ => ⟨rfl, h1, by simp [Buffer.emptied],
    fun _ => ⟨Nat.zero_le _, fun _ => rfl⟩, fun _ => ⟨List.nodup_nil, by simp [Buffer.emptied], fun _ => rfl⟩⟩⟩

/-- A buffer that holds fewer items of the same batches is lawful. -/
theorem fewer_lawful {o : Options} {a b : Buffer} (h : a.lawful o) (hw : b.writing.length ≤ a.writing.length)
    (ho : b.outgoing.length ≤ a.outgoing.length) (hc : b.completed = a.completed) (hh : b.half = a.half) :
    b.lawful o := by
  obtain ⟨h1, h2, h3, h4, h5⟩ := h
  have none_of : a.writing = [] → b.writing = [] := fun e => by
    rw [e] at hw
    exact List.length_eq_zero_iff.1 (Nat.le_zero.1 hw)
  refine ⟨h1, h2, by rw [hc]; omega, fun hm => ⟨none_of (h4 hm).1, hc.trans (h4 hm).2⟩, fun hm => ?_⟩
  obtain ⟨hout, hlt, hitems, hun, hsp⟩ := h5 hm
  rw [hout] at ho
  rw [hc, hh]
  exact ⟨List.length_eq_zero_iff.1 (Nat.le_zero.1 ho), lt_of_le_of_lt hw hlt, hitems,
    fun hs => ⟨(hun hs).1, fun g => none_of ((hun hs).2 g)⟩,
    fun hs => ⟨(hsp hs).1, (hsp hs).2.1, fun g => none_of ((hsp hs).2.2 g)⟩⟩

/-! ### Every move -/

theorem lawful_iff (c : Cursor) :
    c.lawful ↔
      c.Settled ∧ c.buffer.lawful c.options ∧ c.probes.length ≤ Config.probeCapacity ∧
        c.trail.length ≤ Config.trailCapacity ∧ c.stepsLeft ≤ 4096 ∧
        ∀ f, c.op = .step f → f.undo.trail.length ≤ Config.trailCapacity ∧ f.undo.stepsLeft ≤ 4096 := by
  unfold Cursor.lawful Cursor.Settled
  tauto

/-- R103: a cursor just opened is lawful. -/
theorem opened_lawful (p : PortId) : (Cursor.opened p).lawful :=
  (lawful_iff _).2 ⟨settled_resting rfl rfl rfl (by simp [Cursor.opened]),
    by simp [Cursor.opened, Buffer.opened, Options.opened, Buffer.lawful], Nat.zero_le _, Nat.zero_le _, Nat.zero_le _,
    by simp [Cursor.opened]⟩

/-- R131: an item written counts in its step and changes no operation else. -/
theorem opFits_wrote (snap : Bool) (st : CursorState) (op : Op) : opFits snap st op.wrote = opFits snap st op := by
  cases op <;> rfl

theorem wrote_eq_step {op : Op} {f : StepFlight} (h : op.wrote = .step f) : ∃ g, op = .step g ∧ g.undo = f.undo := by
  cases op <;> simp [Op.wrote] at h
  exact ⟨_, rfl, by rw [← h]⟩

theorem wrote_eq_rebuild {op : Op} {r : Rebuild} (h : op.wrote = .rebuild r) : op = .rebuild r := by
  cases op <;> simp [Op.wrote] at h
  rw [h]

theorem withdraw_lawful {o : Options} {b : Buffer} (h : b.lawful o) (n : Nat) : (b.withdraw o n).lawful o := by
  unfold Buffer.withdraw
  cases o.mode
  · exact fewer_lawful h (by simp) le_rfl rfl rfl
  · exact fewer_lawful h le_rfl (by simp) rfl rfl

theorem CursorMove.lawful {t : CheckpointTable} {c d : Cursor} (hm : CursorMove t c d) (h : c.lawful) : d.lawful := by
  obtain ⟨hset, hbuf, hprobes, htrail, hsteps, hundo⟩ := (lawful_iff c).1 h
  rw [lawful_iff]
  cases hm with
  | keeps hk =>
    refine ⟨hk.settled hset, hk.options ▸ hbuf.of_places hk.places, hk.probes.trans hprobes, hk.trail ▸ htrail,
      hk.stepsLeft hsteps, fun f hf => ?_⟩
    obtain ⟨g, hg, e⟩ := hk.step f hf
    exact e ▸ hundo g hg
  | rebuilds hr =>
    obtain ⟨kind, target, kept, -, -, -, htr, hop, -⟩ := hr.begun
    exact ⟨hr.settled hset, hr.options ▸ hbuf.of_places hr.places, hr.probes.trans hprobes, by rw [htr]; simp,
      hr.stepsLeft hsteps, fun f hf => by rw [hop] at hf; cases hf⟩
  | flushes => exact ⟨hset, flushed_lawful hbuf, hprobes, htrail, hsteps, hundo⟩
  | writes f x r hr =>
    refine ⟨hset.with_op rfl rfl rfl (by rw [opFits_wrote]; exact hset.2.2),
      (delivered_lawful hbuf hr f x).of_places (Buffer.SamePlaces.refl _), hprobes, htrail, hsteps, fun f hf => ?_⟩
    obtain ⟨g, hg, e⟩ := wrote_eq_step hf
    exact e ▸ hundo g hg
  | @aborts f hf =>
    obtain ⟨h1, h2⟩ := hundo f hf
    exact ⟨hset.with_op rfl rfl rfl (by simp [opFits, Cursor.abortStep]),
      (withdraw_lawful hbuf f.written).of_places (Buffer.SamePlaces.refl _), hprobes, h1, h2,
      by simp [Cursor.abortStep]⟩
  | joins q hq => exact ⟨hset, hbuf, by simpa using hq, htrail, hsteps, hundo⟩
  | fetches hn hc => exact ⟨hset, takeBatch_lawful hbuf hn hc, hprobes, htrail, hsteps, hundo⟩
  | sends hs => exact ⟨hset, fewer_lawful hbuf le_rfl (by simp [hs]) rfl rfl, hprobes, htrail, hsteps, hundo⟩
  | @sets own o ho =>
    refine ⟨hset, ?_, hprobes, htrail, hsteps, hundo⟩
    unfold Cursor.setOptions
    dsimp only
    split_ifs with hch
    · exact emptied_lawful ho _
    · simp only [deliveryChanged, Bool.or_eq_true, bne_iff_ne, ne_eq, not_or, not_not] at hch
      obtain ⟨⟨⟨⟨h1, h2⟩, h3⟩, -⟩, -⟩ := hch
      exact hbuf.of_options ⟨h1.symm, h3.symm, h2.symm⟩

/-- The cursors of the live part are lawful. -/
def Live.Lawful (l : Live) : Prop := ∀ k : Slot, ∀ c ∈ l.cursor k, c.lawful

theorem Moves.lawful {l m : Live} (h : Moves l m) (hl : l.Lawful) : m.Lawful := by
  refine h.preserves (P := Live.Lawful) (fun l m hm hl k d hd => ?_) hl
  rcases hm.2 k d hd with ⟨c, hc, hcd⟩ | ⟨p, rfl⟩
  · exact hcd.lawful (hl k c hc)
  · exact opened_lawful p

end Sys2Proof.Machine
end

section
/-!
PROOF. The choice of a checkpoint (R91), and that every move keeps images in agreement with the store (R83, R101, R157).
-/

namespace Sys2Proof.Machine

open Sys2Proof

/-! ### The best checkpoint (R91, R97) -/

/-- R91: an entry that a choice at or below a limit may take. -/
def CheckpointTable.eligible (t : CheckpointTable) (limit : Nat) (i : CkptId) : Prop :=
  (t.entries.get i).valid = true ∧ (t.entries.get i).instant ≤ limit

/-- R91: `best` is the eligible entry of greatest instant among those of a list, absent where none is eligible. -/
def CheckpointTable.BestOf (t : CheckpointTable) (limit : Nat) (xs : List CkptId) (best : Option CkptId) : Prop :=
  (∀ i ∈ best, t.eligible limit i ∧ ∀ j ∈ xs, t.eligible limit j → (t.entries.get j).instant ≤ (t.entries.get i).instant) ∧
    (best = none → ∀ j ∈ xs, ¬t.eligible limit j)

theorem betterChoice_bestOf {t : CheckpointTable} {limit : Nat} {xs : List CkptId} {best : Option CkptId}
    (h : t.BestOf limit xs best) (y : CkptId) : t.BestOf limit (xs ++ [y]) (betterChoice t limit best y) := by
  obtain ⟨hsome, hnone⟩ := h
  have split : ∀ {j}, j ∈ xs ++ [y] → j ∈ xs ∨ j = y := fun hj => by simpa using hj
  unfold betterChoice
  dsimp only
  split_ifs with hy
  · cases best with
    | none =>
      refine ⟨fun i hi => ?_, fun e => nomatch e⟩
      obtain rfl := Option.some.inj hi
      exact ⟨hy, fun j hj hel => (split hj).elim (fun g => absurd hel (hnone rfl j g)) fun e => e ▸ le_rfl⟩
    | some b =>
      obtain ⟨hb, hmax⟩ := hsome b rfl
      dsimp only
      split_ifs with hlt
      · refine ⟨fun i hi => ?_, fun e => nomatch e⟩
        obtain rfl := Option.some.inj hi
        exact ⟨hy, fun j hj hel => (split hj).elim (fun g => (hmax j g hel).trans hlt.le) fun e => e ▸ le_rfl⟩
      · refine ⟨fun i hi => ?_, fun e => nomatch e⟩
        obtain rfl := Option.some.inj hi
        exact ⟨hb, fun j hj hel => (split hj).elim (fun g => hmax j g hel) fun e => e ▸ not_lt.1 hlt⟩
  · exact ⟨fun i hi => ⟨(hsome i hi).1, fun j hj hel =>
        (split hj).elim (fun g => (hsome i hi).2 j g hel) fun e => absurd (e ▸ hel) hy⟩,
      fun e j hj => (split hj).elim (hnone e j) fun e => e ▸ hy⟩

/-- R91: the best entry is eligible, and no eligible entry stands later; where there is none, no entry is eligible. -/
theorem best_bestOf (t : CheckpointTable) (limit : Nat) : t.BestOf limit allCheckpoints (t.best limit) := by
  have key : ∀ (ys xs : List CkptId) (b : Option CkptId), t.BestOf limit xs b →
      t.BestOf limit (xs ++ ys) (ys.foldl (betterChoice t limit) b) := by
    intro ys
    induction ys with
    | nil => intro xs b h; simpa using h
    | cons y ys ih =>
      intro xs b h
      have := ih (xs ++ [y]) _ (betterChoice_bestOf h y)
      rwa [List.append_assoc] at this
  exact key allCheckpoints [] none ⟨fun _ hi => (nomatch hi), fun _ _ hj => nomatch hj⟩

theorem best_some {t : CheckpointTable} {limit : Nat} {i : CkptId} (h : t.best limit = some i) :
    t.eligible limit i ∧ ∀ j, t.eligible limit j → (t.entries.get j).instant ≤ (t.entries.get i).instant := by
  obtain ⟨h1, h2⟩ := (best_bestOf t limit).1 i h
  exact ⟨h1, fun j => h2 j (mem_allCheckpoints j)⟩

theorem best_none {t : CheckpointTable} {limit : Nat} (h : t.best limit = none) (j : CkptId) : ¬t.eligible limit j :=
  (best_bestOf t limit).2 h j (mem_allCheckpoints j)

/-- R91: a choice copies an eligible entry, or none is eligible. -/
theorem choose_cases (t : CheckpointTable) (limit : Nat) :
    ((t.choose limit).1 = none ∧ ∀ j, ¬t.eligible limit j) ∨
      ∃ i, (t.choose limit).1 = some (t.entries.get i) ∧ t.eligible limit i ∧
        ∀ j, t.eligible limit j → (t.entries.get j).instant ≤ (t.entries.get i).instant := by
  unfold CheckpointTable.choose
  cases hb : t.best limit with
  | none => exact .inl ⟨rfl, best_none hb⟩
  | some i => exact .inr ⟨i, rfl, best_some hb⟩

/-! ### Images against the store -/

/-- R83: the Checkpoint Table agrees with the store, and no two valid entries stand at one instant. -/
def CheckpointTable.Replayed (rs : List Record) (interval : Nat) (t : CheckpointTable) : Prop :=
  (∀ i : CkptId, (t.entries.get i).replayed rs interval) ∧
    ∀ i j : CkptId, (t.entries.get i).valid = true → (t.entries.get j).valid = true →
      (t.entries.get i).instant = (t.entries.get j).instant → i = j

/-- The Checkpoint Table, and the cursor of one slot where it is open, agree with the store. -/
def Live.ReplayedAt (rs : List Record) (interval : Nat) (k : Slot) (l : Live) : Prop :=
  l.checkpoints.Replayed rs interval ∧ ∀ c ∈ l.cursor k, c.replayed rs

theorem replayLaw_iff (s : State) :
    ReplayLaw s ↔ ∀ k : Slot, s.live.ReplayedAt s.history.records (s.tables.study.interval * 1000000) k :=
  ⟨fun ⟨h1, h2, h3⟩ k => ⟨⟨h2, h3⟩, h1 k⟩, fun h => ⟨fun k => (h k).2, (h 0).1.1, (h 0).1.2⟩⟩

/-- The agreement of the table turns on no stamp. -/
theorem SameButStamps.replayed {rs : List Record} {iv : Nat} {t u : CheckpointTable} (h : SameButStamps t u)
    (ht : t.Replayed rs iv) : u.Replayed rs iv := by
  refine ⟨fun i => ?_, fun i j => ?_⟩
  · rw [h i]
    exact ht.1 i
  · rw [h i, h j]
    exact ht.2 i j

/-- A cursor that is not overtaken and stands as a checkpoint does. -/
theorem Checkpoint.replayed.position_le {rs : List Record} {iv : Nat} {x : Checkpoint} (h : x.replayed rs iv)
    (hv : x.valid = true) : ∀ q ∈ x.position, q.time ≤ x.instant := by
  intro q hq
  obtain ⟨-, -, hat, hle⟩ := h hv
  obtain ⟨r, hr, rfl⟩ := hat q hq
  refine (hle r hr).2 ?_
  rw [Option.mem_def.1 hq]
  exact keyBefore_irrefl _

/-- R89, R91: a cursor whose rebuild has just begun agrees with the store. -/
theorem RebuildBegun.replayed {rs : List Record} {iv : Nat} {t : CheckpointTable} (ht : t.Replayed rs iv)
    {kind : RebuildKind} {target : Nat} {kept : Option Overtake} {d : Cursor} (h : RebuildBegun t kind target kept d) :
    d.replayed rs := by
  obtain ⟨himg, hpos, -, -, hop, -⟩ := h
  unfold Cursor.replayed
  rw [himg, hpos, hop]
  rcases choose_cases t target with ⟨e, -⟩ | ⟨i, e, ⟨hv, hle⟩, -⟩
  · rw [e]
    exact ⟨fun _ => ⟨agrees_initial rs, fun _ hq => nomatch hq⟩, fun _ hf => (nomatch hf),
      fun f hf => by cases hf; exact ⟨fun _ hx => (nomatch hx), fun _ hq => nomatch hq⟩⟩
  · rw [e]
    obtain ⟨-, hag, hat, -⟩ := ht.1 i hv
    refine ⟨fun _ => ⟨hag, hat⟩, fun _ hf => (nomatch hf), fun f hf => ?_⟩
    cases hf
    exact ⟨fun x hx => Option.some.inj hx ▸ hle, fun q hq => ⟨_, rfl, (ht.1 i).position_le hv q hq⟩⟩

/-- A cursor just opened agrees with every store. -/
theorem opened_replayed (rs : List Record) (p : PortId) : (Cursor.opened p).replayed rs :=
  ⟨fun _ => ⟨agrees_initial rs, fun _ hq => nomatch hq⟩, fun _ hf => (nomatch hf), fun _ hf => nomatch hf⟩

/-- R157: a step aborted agrees with the store as the step found it. -/
theorem abortStep_replayed {rs : List Record} {c : Cursor} {f : StepFlight} (h : c.op = .step f) (hc : c.replayed rs) :
    (c.abortStep f).replayed rs :=
  ⟨(hc.2.1 f h).2, fun _ hf => (nomatch hf), fun _ hf => nomatch hf⟩

theorem CursorMove.replayed {rs : List Record} {iv : Nat} {t : CheckpointTable} (ht : t.Replayed rs iv) {c d : Cursor}
    (hm : CursorMove t c d) (hc : c.replayed rs) : d.replayed rs := by
  obtain ⟨himg, hstep, hreb⟩ := hc
  cases hm with
  | keeps hk =>
    unfold Cursor.replayed
    rw [hk.image, hk.position, hk.overtaken]
    refine ⟨himg, fun f hf => ?_, fun r hr => hreb r (hk.rebuild r hr)⟩
    obtain ⟨g, hg, e⟩ := hk.step f hf
    exact e ▸ hstep g hg
  | rebuilds hr =>
    obtain ⟨_, _, _, hb⟩ := hr.begun
    exact hb.replayed ht
  | flushes | joins | fetches | sends => exact ⟨himg, hstep, hreb⟩
  | writes f x r =>
    refine ⟨himg, fun f hf => ?_, fun r hr => hreb r (wrote_eq_rebuild hr)⟩
    obtain ⟨g, hg, e⟩ := wrote_eq_step hf
    exact e ▸ hstep g hg
  | aborts hf => exact abortStep_replayed hf ⟨himg, hstep, hreb⟩
  | sets => exact ⟨himg, hstep, hreb⟩

/-- Moves keep the agreement of each slot. -/
theorem Moves.replayedAt {l m : Live} (h : Moves l m) {rs : List Record} {iv : Nat} {k : Slot}
    (hl : l.ReplayedAt rs iv k) : m.ReplayedAt rs iv k := by
  refine h.preserves (P := Live.ReplayedAt rs iv k) (fun l m hm ⟨ht, hc⟩ => ⟨hm.1.replayed ht, fun d hd => ?_⟩) hl
  rcases hm.2 k d hd with ⟨c, hlc, hcd⟩ | ⟨p, rfl⟩
  · exact hcd.replayed ht (hc c hlc)
  · exact opened_replayed rs p

end Sys2Proof.Machine
end

section
/-!
PROOF. The reads that apply a record: the boundary at which one creates a checkpoint (R85 to R87), and the agreement with
the store and the laws of the cursor that it leaves (R83, R92, R101, R113, R157).
-/

namespace Sys2Proof.Machine

open Sys2Proof

/-! ### Boundaries and the creation of a checkpoint (R85 to R87) -/

/-- R85: the least boundary is a multiple of the interval at or after the standing instant, and no boundary before it is. -/
theorem leastBoundary_least {iv : Nat} (h : 1 ≤ iv) (standing : Option Nat) :
    iv ∣ leastBoundary iv standing ∧ (∀ s ∈ standing, s ≤ leastBoundary iv standing) ∧
      ∀ b, iv ∣ b → (∀ s ∈ standing, s ≤ b) → leastBoundary iv standing ≤ b := by
  unfold leastBoundary
  cases standing with
  | none => exact ⟨dvd_zero _, fun _ hs => (nomatch hs), fun _ _ _ => Nat.zero_le _⟩
  | some s =>
    refine ⟨dvd_mul_left _ _, fun x hx => ?_, fun b hb hs => ?_⟩
    · obtain rfl := Option.some.inj hx
      have hmod := Nat.mod_lt (s + iv - 1) h
      have hdiv := Nat.div_add_mod (s + iv - 1) iv
      dsimp only
      rw [mul_comm]
      omega
    · obtain ⟨n, rfl⟩ := hb
      have hle := hs s rfl
      dsimp only
      rw [mul_comm]
      refine Nat.mul_le_mul_left iv (Nat.le_of_lt_succ ((Nat.div_lt_iff_lt_mul h).2 ?_))
      rw [Nat.succ_mul, mul_comm n]
      omega

theorem boundaryBefore_iff {iv : Nat} {standing : Option Nat} {t b : Nat} :
    boundaryBefore iv standing t = some b ↔ b = leastBoundary iv standing ∧ b < t := by
  unfold boundaryBefore
  dsimp only
  split_ifs with h
  · exact ⟨fun e => Option.some.inj e ▸ ⟨rfl, h⟩, fun e => by rw [e.1]⟩
  · exact ⟨fun e => (nomatch e), fun e => absurd (e.1 ▸ e.2) h⟩

theorem boundaryUpTo_iff {iv : Nat} {standing : Option Nat} {t b : Nat} :
    boundaryUpTo iv standing t = some b ↔ b = leastBoundary iv standing ∧ b ≤ t := by
  unfold boundaryUpTo
  dsimp only
  split_ifs with h
  · exact ⟨fun e => Option.some.inj e ▸ ⟨rfl, h⟩, fun e => by rw [e.1]⟩
  · exact ⟨fun e => (nomatch e), fun e => absurd (e.1 ▸ e.2) h⟩

/-- R86, R87: the victim takes the checkpoint, and every other entry stands, stamps apart. -/
theorem create_entry (t : CheckpointTable) (b : Nat) (img : Image) (pos : Option Key) (i : CkptId) :
    (t.create b img pos).entries.get i =
      if i = t.victim then
        { instant := b, valid := true, image := img, position := pos, stamp := t.ready.counter + 1 }
      else { t.entries.get i with stamp := (t.ready.entries.get i).stamp } := by
  unfold CheckpointTable.create
  dsimp only
  rw [vput_get]
  by_cases h : i = t.victim
  · rw [if_pos h.symm, if_pos h]
  · rw [if_neg (Ne.symm h), if_neg h, ← ready_entry]

theorem holds_iff {t : CheckpointTable} {b : Nat} :
    t.holds b = true ↔ ∃ i, (t.entries.get i).valid = true ∧ (t.entries.get i).instant = b := by
  simp [CheckpointTable.holds, mem_allCheckpoints]

/-- R83, R86: a checkpoint created at a boundary that no valid entry holds, of an image with the records up to it. -/
theorem create_replayed {rs : List Record} {iv : Nat} {t : CheckpointTable} (ht : t.Replayed rs iv) {b : Nat}
    (hb : t.holds b = false) {img : Image} {pos : Option Key}
    (hx : ∀ stamp, Checkpoint.replayed rs iv
      { instant := b, valid := true, image := img, position := pos, stamp := stamp }) :
    (t.create b img pos).Replayed rs iv := by
  have fresh : ∀ i, (t.entries.get i).valid = true → (t.entries.get i).instant ≠ b := fun i hv e =>
    Bool.false_ne_true (hb.symm.trans (holds_iff.2 ⟨i, hv, e⟩))
  refine ⟨fun i => ?_, fun i j => ?_⟩
  · rw [create_entry]
    split_ifs
    · exact hx _
    · exact ht.1 i
  · rw [create_entry, create_entry]
    split_ifs with hi hj hj
    · exact fun _ _ _ => hi.trans hj.symm
    · exact fun _ hv e => absurd e.symm (fresh j hv)
    · exact fun hv _ e => absurd e (fresh i hv)
    · exact ht.2 i j

/-- The records up to an instant are those at or before a position, where the position lies at or before the instant and
the next record after it. -/
theorem upTo_iff_atOrBefore {rs : List Record} (ho : rs.Pairwise fun a b => keyBefore a.key b.key = true)
    {pos : Option Key} {b : Nat} (hpos : ∀ q ∈ pos, q.time ≤ b) (hnext : ∀ x ∈ nextAfter pos rs, b < x.time) :
    ∀ r ∈ rs, r.time ≤ b ↔ keyAfter r.key pos = false := by
  intro r hr
  refine ⟨fun hle => ?_, fun hk => ?_⟩
  · cases hn : nextAfter pos rs with
    | none => exact nextAfter_none.1 hn r hr
    | some x =>
      obtain ⟨xs, ys, rfl, hb, -⟩ := nextAfter_parts hn
      rw [List.pairwise_append, List.pairwise_cons] at ho
      have hx : b < x.time := hnext x hn
      rcases List.mem_append.1 hr with g | g
      · exact hb r g
      · rcases List.mem_cons.1 g with rfl | g
        · omega
        · have hle' : x.time ≤ r.time := by
            have := (keyBefore_iff _ _).1 (ho.2.1.1 r g)
            simp only [Record.key] at this
            omega
          omega
  · cases hp : pos with
    | none => rw [hp] at hk; exact nomatch hk
    | some q =>
      rw [hp] at hk
      have hq := hpos q hp
      have : ¬q.time < r.time := fun hlt =>
        Bool.false_ne_true (hk.symm.trans ((keyBefore_iff q r.key).2 (.inl hlt)))
      omega

/-- R86: the creation changes the Checkpoint Table alone. -/
theorem checkpointAtRead_cursor (boundary : Option Nat) (c : Cursor) (l : Live) (k : Slot) :
    (checkpointAtRead boundary c l).cursor k = l.cursor k := by
  unfold checkpointAtRead
  split
  · rfl
  · split_ifs <;> rfl

/-- R83, R86: what a read creates agrees with the store. -/
theorem checkpointAtRead_replayed {rs : List Record} {iv : Nat}
    (ho : rs.Pairwise fun a b => keyBefore a.key b.key = true) {l : Live} (hl : l.checkpoints.Replayed rs iv)
    {c : Cursor} (hc : c.replayed rs) {boundary : Option Nat}
    (hb : ∀ b ∈ boundary,
      iv ∣ b ∧ (∀ q ∈ c.position, q.time ≤ b) ∧ ∀ x ∈ nextAfter c.position rs, b < x.time) :
    (checkpointAtRead boundary c l).checkpoints.Replayed rs iv := by
  unfold checkpointAtRead
  split
  · exact hl
  · rename_i b
    split_ifs with hn
    · exact hl
    · rw [Bool.or_eq_true, not_or, Bool.not_eq_true, Bool.not_eq_true, Option.isSome_eq_false_iff,
        Option.isNone_iff_eq_none] at hn
      obtain ⟨hdvd, hpos, hnext⟩ := hb b rfl
      obtain ⟨hag, hat⟩ := hc.1 hn.1
      exact create_replayed hl hn.2 fun _ _ => ⟨hdvd, hag, hat, upTo_iff_atOrBefore ho hpos hnext⟩

/-! ### The live part -/

/-- Every slot agrees with the store. -/
def Live.Replayed (rs : List Record) (interval : Nat) (l : Live) : Prop := ∀ k : Slot, l.ReplayedAt rs interval k

theorem Live.Replayed.setCursor {rs : List Record} {iv : Nat} {l : Live} (h : l.Replayed rs iv) {c : Cursor}
    (hc : c.replayed rs) (k : Slot) : (l.setCursor k c).Replayed rs iv := fun j => by
  refine ⟨(h j).1, fun d hd => ?_⟩
  by_cases e : k = j
  · subst e
    rw [cursor_setCursor_same] at hd
    exact Option.some.inj hd ▸ hc
  · rw [cursor_setCursor_ne l c e] at hd
    exact (h j).2 d hd

theorem Live.Replayed.table {rs : List Record} {iv : Nat} {l m : Live} (h : l.Replayed rs iv)
    (ht : m.checkpoints.Replayed rs iv) (hc : ∀ k : Slot, m.cursor k = l.cursor k) : m.Replayed rs iv := fun k =>
  ⟨ht, fun c hk => (h k).2 c ((hc k) ▸ hk)⟩

theorem Moves.replayed {l m : Live} (h : Moves l m) {rs : List Record} {iv : Nat} (hl : l.Replayed rs iv) :
    m.Replayed rs iv := fun k => h.replayedAt (hl k)

theorem Live.Lawful.setCursor {l : Live} (h : l.Lawful) {c : Cursor} (hc : c.lawful) (k : Slot) :
    (l.setCursor k c).Lawful := fun j d hd => by
  by_cases e : k = j
  · subst e
    rw [cursor_setCursor_same] at hd
    exact Option.some.inj hd ▸ hc
  · rw [cursor_setCursor_ne l c e] at hd
    exact h j d hd

theorem Live.Lawful.of_cursors {l m : Live} (h : l.Lawful) (hc : ∀ k : Slot, m.cursor k = l.cursor k) : m.Lawful :=
  fun k d hd => h k d ((hc k) ▸ hd)

/-! ### The read of a step (R113) -/

/-- R113: the cursor that has read a record, its step in flight. -/
def Cursor.stepped (e : Env) (r : Record) (c : Cursor) : Cursor :=
  { c.applyRecord e.tables r with op := .step (stepFlightOf e.tables e.gaps c (c.applyRecord e.tables r) r) }

theorem applyStep_eq (e : Env) {l : Live} {k : Slot} {c : Cursor} (h : l.cursor k = some c) (r : Record) :
    applyStep e k r l =
      writeNext e k ((checkpointAtRead (boundaryBefore e.tables.study.intervalMicros c.instant r.time) c l).setCursor k
        (c.stepped e r)) := by
  unfold applyStep
  rw [withCursor_some _ h]
  rfl

theorem pushTrail_length (x : TrailEntry) {t : List TrailEntry} (h : t.length ≤ Config.trailCapacity) :
    (pushTrail x t).length ≤ Config.trailCapacity := by
  simp only [pushTrail, List.length_drop, List.length_append, List.length_singleton]
  omega

/-- R113, R118, R151: a RUNNING cursor that reads a record stays lawful. -/
theorem stepped_lawful (e : Env) (r : Record) {c : Cursor} (h : c.lawful) (hr : c.state = .running) :
    (c.stepped e r).lawful := by
  obtain ⟨hset, hbuf, hprobes, htrail, hsteps, -⟩ := (lawful_iff c).1 h
  refine (lawful_iff _).2 ⟨hset.with_op rfl rfl rfl (by simp [opFits, Cursor.stepped, hr]), hbuf, hprobes, ?_, ?_,
    fun f hf => ?_⟩
  · simp only [Cursor.stepped, Cursor.applyRecord]
    split_ifs
    · exact htrail
    · exact pushTrail_length _ htrail
  · exact (Nat.sub_le _ _).trans hsteps
  · cases hf
    exact ⟨htrail, hsteps⟩

/-- A record after a position lies at or after its time. -/
theorem time_le_of_nextAfter {pos : Option Key} {rs : List Record} {r : Record} (h : nextAfter pos rs = some r) :
    ∀ q ∈ pos, q.time ≤ r.time := by
  intro q hq
  have hk := (nextAfter_some h).2
  rw [Option.mem_def.1 hq] at hk
  have := (keyBefore_iff _ _).1 hk
  simp only [Record.key] at this
  omega

/-- R101, R113, R157: a cursor that reads the next record agrees with the store, and so does what an abort restores. -/
theorem stepped_replayed (e : Env) {rs : List Record} (ho : rs.Pairwise fun a b => keyBefore a.key b.key = true)
    {r : Record} {c : Cursor} (hn : nextAfter c.position rs = some r) (hc : c.replayed rs) :
    (c.stepped e r).replayed rs := by
  refine ⟨fun hov => ⟨Agrees.next ho hn (hc.1 hov).1, AtRecord.next hn⟩, fun f hf => ?_, fun f hf => nomatch hf⟩
  cases hf
  refine ⟨fun q hq => ⟨_, rfl, time_le_of_nextAfter hn q hq⟩, fun hov => ⟨?_, (hc.1 hov).2⟩⟩
  exact (hc.1 hov).1.congr fun p => Image.cell_restore_put _ _ _ _

/-- R113: a step's read answers a record only where that is the next one. -/
theorem stepAnswer_apply {e : Env} {c : Cursor} {r : Record} (h : stepAnswer e c = .apply r) :
    nextAfter c.position e.history.records = some r := by
  unfold stepAnswer at h
  dsimp only at h
  split at h
  · split_ifs at h
  · rename_i x hx
    split_ifs at h
    cases h
    exact hx

theorem readDue_iff (c : Cursor) :
    readDue c = true ↔ c.state = .running ∧ c.op = .none ∧ c.probes = [] ∧ c.parked = false := by
  simp [readDue, and_assoc]

/-- R113, R115, R117, R169: a step's read that applies no record makes moves alone. -/
theorem stepRead_moves (e : Env) {l : Live} {k : Slot} {c : Cursor} (h : l.cursor k = some c)
    (hn : readDue c = true → ∀ r, stepAnswer e c ≠ .apply r) : Moves l (stepRead e k l) := by
  unfold stepRead
  rw [withCursor_some _ h]
  by_cases hd : readDue c = true
  · rw [if_pos hd]
    have hr := ((readDue_iff c).1 hd).1
    split
    · rename_i r hr'
      exact absurd hr' (hn hd r)
    · exact reachEnd_moves e h hr _
    · exact meetHead_moves e h hr
    · exact waitForClock_moves e k l
  · rw [if_neg hd]
    exact Moves.refl l

/-- R113: a step's read applies the next record, or makes moves alone. -/
theorem stepRead_cases (e : Env) (k : Slot) (l : Live) :
    Moves l (stepRead e k l) ∨
      ∃ c r, l.cursor k = some c ∧ readDue c = true ∧ stepAnswer e c = .apply r ∧
        stepRead e k l = applyStep e k r l := by
  cases hc : l.cursor k with
  | none => exact .inl (by unfold stepRead; rw [withCursor_none _ hc]; exact Moves.refl l)
  | some c =>
    by_cases hap : readDue c = true ∧ ∃ r, stepAnswer e c = .apply r
    · obtain ⟨hd, r, hr⟩ := hap
      refine .inr ⟨c, r, rfl, hd, hr, ?_⟩
      unfold stepRead
      rw [withCursor_some _ hc, if_pos hd, hr]
    · exact .inl (stepRead_moves e hc fun hd r hr => hap ⟨hd, r, hr⟩)

theorem stepRead_lawful (e : Env) (k : Slot) {l : Live} (h : l.Lawful) : (stepRead e k l).Lawful := by
  rcases stepRead_cases e k l with hm | ⟨c, r, hc, hd, -, he⟩
  · exact hm.lawful h
  · rw [he, applyStep_eq e hc]
    refine (writeNext_moves e k _).lawful (Live.Lawful.setCursor ?_ ?_ k)
    · exact h.of_cursors (checkpointAtRead_cursor _ c l)
    · exact stepped_lawful e r (h k c hc) ((readDue_iff c).1 hd).1

/-- R83, R101, R157: a step's read keeps the agreement of a live part in which no cursor without a rebuild stands past
its instant. -/
theorem stepRead_replayed {e : Env} (ho : e.history.records.Pairwise fun a b => keyBefore a.key b.key = true)
    (hiv : 1 ≤ e.tables.study.intervalMicros) (k : Slot) {l : Live}
    (hpast : ∀ c ∈ l.cursor k, (∀ f, c.op ≠ .rebuild f) → ∀ q ∈ c.position, ∃ x ∈ c.instant, q.time ≤ x)
    (h : l.Replayed e.history.records e.tables.study.intervalMicros) :
    (stepRead e k l).Replayed e.history.records e.tables.study.intervalMicros := by
  rcases stepRead_cases e k l with hm | ⟨c, r, hc, hd, hr, he⟩
  · exact hm.replayed h
  · obtain ⟨-, hop, -⟩ := (readDue_iff c).1 hd
    have hn := stepAnswer_apply hr
    have hrep := (h k).2 c hc
    rw [he, applyStep_eq e hc]
    refine (writeNext_moves e k _).replayed (Live.Replayed.setCursor ?_ (stepped_replayed e ho hn hrep) k)
    refine h.table (checkpointAtRead_replayed ho (h k).1 hrep fun b hb => ?_) (checkpointAtRead_cursor _ c l)
    obtain ⟨rfl, hlt⟩ := boundaryBefore_iff.1 hb
    obtain ⟨hdvd, hle, -⟩ := leastBoundary_least hiv c.instant
    refine ⟨hdvd, fun q hq => ?_, fun x hx => by rw [hn] at hx; exact Option.some.inj hx ▸ hlt⟩
    obtain ⟨y, hy, hqy⟩ := hpast c hc (fun f hf => (nomatch hop.symm.trans hf)) q hq
    exact hqy.trans (hle y hy)

/-! ### The read of a rebuild (R92, R93) -/

/-- R92: a rebuild's read finds the next record at or below the target. -/
theorem nextUpTo_some {pos : Option Key} {t : Nat} {rs : List Record} {r : Record} (h : nextUpTo pos t rs = some r) :
    nextAfter pos rs = some r ∧ r.time ≤ t := by
  unfold nextUpTo at h
  split at h
  · exact nomatch h
  · split_ifs at h with hle
    exact Option.some.inj h ▸ ⟨‹_›, hle⟩

theorem nextUpTo_none {pos : Option Key} {t : Nat} {rs : List Record} (h : nextUpTo pos t rs = none) :
    ∀ r ∈ nextAfter pos rs, t < r.time := by
  intro r hr
  unfold nextUpTo at h
  rw [Option.mem_def.1 hr] at h
  dsimp only at h
  split_ifs at h with hle
  omega

/-- R92, R93: a rebuild's read applies the next record up to the target, or completes the rebuild, or nothing happens. -/
theorem rebuildRead_cases (e : Env) (k : Slot) (l : Live) :
    rebuildRead e k l = l ∨
      ∃ c r, l.cursor k = some c ∧ c.op = .rebuild r ∧
        ((∃ x, nextUpTo c.position r.target e.history.records = some x ∧
            rebuildRead e k l =
              (checkpointAtRead (boundaryBefore e.tables.study.intervalMicros r.standing x.time) c l).setCursor k
                (c.rebuildApply r x)) ∨
          nextUpTo c.position r.target e.history.records = none ∧
            rebuildRead e k l =
              completeRebuild e k r
                (checkpointAtRead (boundaryUpTo e.tables.study.intervalMicros r.standing r.target) c l)) := by
  cases hc : l.cursor k with
  | none => exact .inl (by unfold rebuildRead; rw [withCursor_none _ hc])
  | some c =>
    by_cases hr : ∃ r, c.op = .rebuild r
    · obtain ⟨r, hr⟩ := hr
      refine .inr ⟨c, r, rfl, hr, ?_⟩
      unfold rebuildRead
      rw [withCursor_some _ hc, hr]
      cases hn : nextUpTo c.position r.target e.history.records with
      | none => exact .inr ⟨rfl, by dsimp only; rw [hn]⟩
      | some x => exact .inl ⟨x, rfl, by dsimp only; rw [hn]⟩
    · refine .inl ?_
      unfold rebuildRead
      rw [withCursor_some _ hc]
      split
      · exact absurd ⟨_, ‹_›⟩ hr
      · rfl

theorem rebuildApply_lawful {c : Cursor} {r : Rebuild} (hr : c.op = .rebuild r) (x : Record) (h : c.lawful) :
    (c.rebuildApply r x).lawful := by
  obtain ⟨hset, hbuf, hprobes, htrail, hsteps, -⟩ := (lawful_iff c).1 h
  refine (lawful_iff _).2 ⟨hset.with_op rfl rfl rfl ?_, hbuf, hprobes, htrail, hsteps, fun f hf => nomatch hf⟩
  simpa [opFits, Cursor.rebuildApply, hr] using hset.2.2

theorem rebuildRead_lawful (e : Env) (k : Slot) {l : Live} (h : l.Lawful) : (rebuildRead e k l).Lawful := by
  rcases rebuildRead_cases e k l with he | ⟨c, r, hc, hr, ⟨x, -, he⟩ | ⟨-, he⟩⟩ <;> rw [he]
  · exact h
  · exact (h.of_cursors (checkpointAtRead_cursor _ c l)).setCursor (rebuildApply_lawful hr x (h k c hc)) k
  · exact (completeRebuild_moves e ((checkpointAtRead_cursor _ c l k).trans hc) hr).lawful
      (h.of_cursors (checkpointAtRead_cursor _ c l))

/-- R92, R101: a rebuild that applies the next record up to its target agrees with the store. -/
theorem rebuildApply_replayed {rs : List Record} (ho : rs.Pairwise fun a b => keyBefore a.key b.key = true)
    {c : Cursor} {r : Rebuild} {x : Record}
    (hn : nextUpTo c.position r.target rs = some x) (hc : c.replayed rs) : (c.rebuildApply r x).replayed rs := by
  obtain ⟨hx, hle⟩ := nextUpTo_some hn
  refine ⟨fun hov => ⟨Agrees.next ho hx (hc.1 hov).1, AtRecord.next hx⟩, fun f hf => (nomatch hf), fun f hf => ?_⟩
  cases hf
  exact ⟨fun y hy => Option.some.inj hy ▸ hle, fun q hq => ⟨_, rfl, Option.some.inj hq ▸ le_rfl⟩⟩

/-- R83, R92, R101: a rebuild's read keeps the agreement. -/
theorem rebuildRead_replayed {e : Env} (ho : e.history.records.Pairwise fun a b => keyBefore a.key b.key = true)
    (hiv : 1 ≤ e.tables.study.intervalMicros) (k : Slot) {l : Live}
    (h : l.Replayed e.history.records e.tables.study.intervalMicros) :
    (rebuildRead e k l).Replayed e.history.records e.tables.study.intervalMicros := by
  rcases rebuildRead_cases e k l with he | ⟨c, r, hc, hr, hcases⟩
  · rw [he]
    exact h
  · have hrep := (h k).2 c hc
    obtain ⟨hdvd, hle, -⟩ := leastBoundary_least hiv r.standing
    have hpos : ∀ q ∈ c.position, q.time ≤ leastBoundary e.tables.study.intervalMicros r.standing := fun q hq => by
      obtain ⟨y, hy, hqy⟩ := (hrep.2.2 r hr).2 q hq
      exact hqy.trans (hle y hy)
    have table : ∀ {boundary : Option Nat}, (∀ b ∈ boundary,
        b = leastBoundary e.tables.study.intervalMicros r.standing ∧
          ∀ x ∈ nextAfter c.position e.history.records, b < x.time) →
        (checkpointAtRead boundary c l).Replayed e.history.records e.tables.study.intervalMicros := fun hb =>
      h.table (checkpointAtRead_replayed ho (h k).1 hrep fun b hm => by
        obtain ⟨rfl, hx⟩ := hb b hm
        exact ⟨hdvd, hpos, hx⟩) (checkpointAtRead_cursor _ c l)
    rcases hcases with ⟨x, hn, he⟩ | ⟨hn, he⟩ <;> rw [he]
    · refine (table fun b hb => ?_).setCursor (rebuildApply_replayed ho hn hrep) k
      obtain ⟨hb, hlt⟩ := boundaryBefore_iff.1 hb
      exact ⟨hb, fun y hy => by rw [(nextUpTo_some hn).1] at hy; exact Option.some.inj hy ▸ hlt⟩
    · refine (completeRebuild_moves e ((checkpointAtRead_cursor _ c l k).trans hc) hr).replayed (table fun b hb => ?_)
      obtain ⟨hb, hlt⟩ := boundaryUpTo_iff.1 hb
      exact ⟨hb, fun y hy => hlt.trans_lt (nextUpTo_none hn y hy)⟩

end Sys2Proof.Machine
end

section
/-!
PROOF. What a commit leaves of the store up to an instant before its touched times, and that the cursors and checkpoints it
reaches agree with the store it installs (R16 to R22, R83, R88, R101).
-/

namespace Sys2Proof.Machine

open Sys2Proof

/-! ### Records up to an instant -/

/-- What an image and a position take of a record. -/
def Record.view (r : Record) : Key × PointId × ImageCell := (r.key, r.point, r.cell)

/-- What images and positions take of the records up to an instant. -/
def viewsUpTo (T : Nat) (rs : List Record) : List (Key × PointId × ImageCell) :=
  (rs.filter fun r => decide (r.time ≤ T)).map Record.view

/-- The two stores show the same up to an instant. -/
def SameUpTo (T : Nat) (rs qs : List Record) : Prop := viewsUpTo T qs = viewsUpTo T rs

/-- A record at or before a position lies at or before its time. -/
theorem time_le_of_not_after {r : Record} {q : Key} (h : keyAfter r.key (some q) = false) : r.time ≤ q.time := by
  by_contra hlt
  exact Bool.false_ne_true (h.symm.trans ((keyBefore_iff q r.key).2 (.inl (not_le.1 hlt))))

/-- The cell of the last record of a point at or before a position is told by the records up to its time. -/
theorem lastCell_eq (rs : List Record) (q : Key) (p : PointId) :
    ((rs.filter fun r => r.point == p && !keyAfter r.key (some q)).getLast?).map Record.cell =
      (((viewsUpTo q.time rs).filter fun v => v.2.1 == p && !keyAfter v.1 (some q)).getLast?).map fun v => v.2.2 := by
  have hfilter : (rs.filter fun r => r.point == p && !keyAfter r.key (some q)) =
      (rs.filter fun r => decide (r.time ≤ q.time)).filter fun r => r.point == p && !keyAfter r.key (some q) := by
    rw [List.filter_filter]
    refine List.filter_congr fun r _ => ?_
    cases hk : keyAfter r.key (some q) with
    | true => simp
    | false => simp [time_le_of_not_after hk]
  rw [viewsUpTo, List.filter_map, List.getLast?_map, Option.map_map, hfilter]
  rfl

theorem Agrees.of_sameUpTo {rs qs : List Record} {pos : Option Key} {img : Image} (h : Agrees rs pos img)
    (hs : ∀ q ∈ pos, SameUpTo q.time rs qs) : Agrees qs pos img := by
  intro p
  rw [h p]
  cases pos with
  | none => simp [keyAfter]
  | some q => rw [lastCell_eq, lastCell_eq, hs q rfl]

/-- The records up to an instant, by key. -/
theorem mem_viewsUpTo {T : Nat} {rs : List Record} {k : Key} (hk : k.time ≤ T) :
    (∃ r ∈ rs, r.key = k) ↔ ∃ v ∈ viewsUpTo T rs, v.1 = k := by
  simp only [viewsUpTo, List.mem_map, List.mem_filter, decide_eq_true_eq]
  constructor
  · rintro ⟨r, hr, rfl⟩
    exact ⟨_, ⟨r, ⟨hr, hk⟩, rfl⟩, rfl⟩
  · rintro ⟨_, ⟨r, ⟨hr, -⟩, rfl⟩, rfl⟩
    exact ⟨r, hr, rfl⟩

theorem AtRecord.of_sameUpTo {rs qs : List Record} {pos : Option Key} (h : AtRecord rs pos)
    (hs : ∀ q ∈ pos, SameUpTo q.time rs qs) : AtRecord qs pos := fun q hq => by
  have := (mem_viewsUpTo le_rfl).1 (h q hq)
  rw [← hs q hq] at this
  exact (mem_viewsUpTo le_rfl).2 this

/-- R83, R88: a checkpoint before the touched times agrees with the store after the commit. -/
theorem Checkpoint.replayed.of_sameUpTo {rs qs : List Record} {iv : Nat} {x : Checkpoint} (h : x.replayed rs iv)
    (hs : x.valid = true → ∀ T ≤ x.instant, SameUpTo T rs qs) : x.replayed qs iv := by
  intro hv
  have hpos := h.position_le hv
  obtain ⟨hdvd, hag, hat, hle⟩ := h hv
  have same : ∀ q ∈ x.position, SameUpTo q.time rs qs := fun q hq => hs hv _ (hpos q hq)
  refine ⟨hdvd, hag.of_sameUpTo same, hat.of_sameUpTo same, fun r hr => ⟨fun ht => ?_, fun hk => ?_⟩⟩
  · have hview : r.view ∈ viewsUpTo x.instant qs :=
      List.mem_map_of_mem (List.mem_filter.2 ⟨hr, decide_eq_true ht⟩)
    rw [hs hv _ le_rfl] at hview
    obtain ⟨y, hy, he⟩ := List.mem_map.1 hview
    obtain ⟨hy, hyt⟩ := List.mem_filter.1 hy
    have hkey : y.key = r.key := congrArg Prod.fst he
    exact hkey ▸ (hle y hy).1 (of_decide_eq_true hyt)
  · cases hp : x.position with
    | none => rw [hp] at hk; exact nomatch hk
    | some q => exact (time_le_of_not_after (hp ▸ hk)).trans (hpos q hp)

/-! ### One candidate and a commit (R16 to R19) -/

/-- A record that lies after the instant does not show. -/
theorem viewsUpTo_later {T : Nat} {r : Record} (h : T < r.time) (xs ys : List Record) :
    viewsUpTo T (xs ++ r :: ys) = viewsUpTo T (xs ++ ys) := by
  unfold viewsUpTo
  rw [List.filter_append, List.filter_cons_of_neg (by simp [h]), ← List.filter_append]

theorem viewsUpTo_insert {T : Nat} {r : Record} (h : T < r.time) (rs : List Record) :
    viewsUpTo T (insertRecord r rs) = viewsUpTo T rs := by
  obtain ⟨xs, ys, rfl, hi, -, -⟩ := insertRecord_place r rs
  rw [hi, viewsUpTo_later h]

/-- R17: a corroborated record shows as it did. -/
theorem viewsUpTo_corroborate (T : Nat) (m : Record) (c : Candidate) (xs ys : List Record) :
    viewsUpTo T (xs ++ m.corroborate c :: ys) = viewsUpTo T (xs ++ m :: ys) := by
  have hv : viewsUpTo T [m.corroborate c] = viewsUpTo T [m] := by
    unfold viewsUpTo
    rw [List.filter_singleton, List.filter_singleton]
    show (bif decide (m.time ≤ T) then [m.corroborate c] else []).map Record.view = _
    cases decide (m.time ≤ T) <;> rfl
  unfold viewsUpTo at *
  rw [List.filter_append, List.map_append, ← List.singleton_append, List.filter_append, List.map_append, hv,
    ← List.map_append, ← List.filter_append, List.singleton_append, ← List.map_append, ← List.filter_append]

/-- R16 to R19: a candidate all of whose touched times lie after an instant leaves what shows up to it. -/
theorem takeCandidate_sameUpTo (w : Nat) (g : Option Nat) {a : CommitAcc} {c : Candidate}
    (hn : (a.history.records.map Record.commit).Nodup) {T : Nat}
    (h : ∀ y ∈ (takeCandidate w g a c).touched, ∀ z ∈ y.times, T < z) :
    SameUpTo T a.history.records (takeCandidate w g a c).history.records := by
  unfold SameUpTo
  unfold takeCandidate at h ⊢
  dsimp only at h ⊢
  split at h
  · exact viewsUpTo_insert (h _ (List.mem_append_right _ List.mem_cons_self) _ List.mem_cons_self) _
  · rename_i m hm
    obtain ⟨xs, ys, hsplit, hrem, hrep⟩ := split_at_record (findMatch_some hm).1 hn
    split_ifs at h ⊢
    · have times := h _ (List.mem_append_right _ List.mem_cons_self)
      have hold : T < m.time := times _ List.mem_cons_self
      have hnew : T < (m.reposition c).time := times _ (List.mem_cons_of_mem _ List.mem_cons_self)
      rw [viewsUpTo_insert hnew, hrem, hsplit, viewsUpTo_later hold]
    · rw [hrep (m.corroborate c) rfl, hsplit, viewsUpTo_corroborate]
    · rfl

/-- What a candidate touches is added to what those before it touched. -/
theorem takeCandidate_touched (w : Nat) (g : Option Nat) (a : CommitAcc) (c : Candidate) :
    a.touched ⊆ (takeCandidate w g a c).touched := by
  unfold takeCandidate
  dsimp only
  split
  · exact List.subset_append_left _ _
  · split_ifs
    · exact List.subset_append_left _ _
    · exact List.Subset.refl _
    · exact List.Subset.refl _

/-- R12, R16 to R19: a commit that the identity check passes leaves what shows up to an instant before its touched
times. -/
theorem foldl_takeCandidate_sameUpTo (w : Nat) (g : Option Nat) {cs : List Candidate} {a : CommitAcc}
    (hs : a.history.Sound) (hf : identityFails a.history.records cs = false) {T : Nat}
    (h : ∀ y ∈ (cs.foldl (takeCandidate w g) a).touched, ∀ z ∈ y.times, T < z) :
    SameUpTo T a.history.records (cs.foldl (takeCandidate w g) a).history.records := by
  induction cs using List.reverseRecOn with
  | nil => rfl
  | append_singleton cs c ih =>
    obtain ⟨hheld, hpair⟩ := identityFails_false.1 hf
    have before : identityFails a.history.records cs = false :=
      identityFails_false.2 ⟨fun d hd => hheld d (List.mem_append_left _ hd), (List.pairwise_append.1 hpair).1⟩
    rw [List.foldl_append, List.foldl_cons, List.foldl_nil] at h ⊢
    have hsound := (foldl_takeCandidate_sound w g hs before).1
    have first := ih before fun y hy => h y (takeCandidate_touched w g _ c hy)
    exact (takeCandidate_sameUpTo w g (hsound.1.nodup_iff.2 List.nodup_range') h).trans first

/-! ### The cursors that a commit reaches (R22, R88) -/

/-- R22: a cursor that a commit leaves not overtaken was not, and its comparison time lies before the touched times. -/
theorem Overtakes.none {compare : Option Nat} {touched : List Touched} {before : Option Overtake}
    (h : Overtakes compare touched before none) :
    before = .none ∧ ∀ t ∈ compare, ∀ y ∈ touched, ∀ z ∈ y.times, t < z := by
  unfold Overtakes at h
  cases compare with
  | none => exact ⟨h.symm, fun _ ht => nomatch ht⟩
  | some t =>
    dsimp only at h
    by_cases hb : (touched.filter fun x => x.times.any fun y => decide (y ≤ t)) = []
    · refine ⟨(h.1 hb).symm, fun x hx y hy z hz => ?_⟩
      obtain rfl := Option.some.inj hx
      by_contra hle
      exact List.filter_eq_nil_iff.1 hb y hy (List.any_eq_true.2 ⟨z, hz, decide_eq_true (not_lt.1 hle)⟩)
    · obtain ⟨o, ho, -⟩ := h.2 hb
      exact nomatch ho

/-- The position of a cursor lies at or before its comparison time, where no cursor without a rebuild stands past its
instant. -/
theorem position_le_compareTime {rs : List Record} {c : Cursor} (hc : c.replayed rs)
    (hp : (∀ f, c.op ≠ .rebuild f) → ∀ q ∈ c.position, ∃ x ∈ c.instant, q.time ≤ x) :
    ∀ q ∈ c.position, ∃ x ∈ compareTime c, q.time ≤ x := by
  intro q hq
  by_cases hr : ∃ f, c.op = .rebuild f
  · obtain ⟨f, hf⟩ := hr
    obtain ⟨hle, hpos⟩ := hc.2.2 f hf
    obtain ⟨x, hx, hqx⟩ := hpos q hq
    exact ⟨f.target, by unfold compareTime; rw [hf]; rfl, hqx.trans (hle x hx)⟩
  · have hne : ∀ f, c.op ≠ .rebuild f := fun f hf => hr ⟨f, hf⟩
    obtain ⟨x, hx, hqx⟩ := hp hne q hq
    refine ⟨x, ?_, hqx⟩
    unfold compareTime
    split
    · exact absurd ‹_› (hne _)
    · exact hx

/-- The store `qs` shows what `rs` did up to every instant before the touched times. -/
def SameBefore (touched : List Touched) (rs qs : List Record) : Prop :=
  ∀ T, (∀ y ∈ touched, ∀ z ∈ y.times, T < z) → SameUpTo T rs qs

/-- R22, R101: a cursor as a commit marks it agrees with the store that the commit installs. -/
theorem mark_replayed {rs qs : List Record} {touched : List Touched} (hs : SameBefore touched rs qs) {c : Cursor}
    (hc : c.replayed rs) (hp : (∀ f, c.op ≠ .rebuild f) → ∀ q ∈ c.position, ∃ x ∈ c.instant, q.time ≤ x) :
    (c.mark touched).replayed qs := by
  obtain ⟨o, ho, hov⟩ := mark_overtakes touched c
  have hpos := position_le_compareTime hc hp
  rw [ho]
  have same : o = none → c.overtaken = none ∧ ∀ q ∈ c.position, ∀ T ≤ q.time, SameUpTo T rs qs := fun e => by
    subst e
    obtain ⟨hbefore, hlate⟩ := hov.none
    refine ⟨hbefore, fun q hq T hT => hs T fun y hy z hz => ?_⟩
    obtain ⟨x, hx, hqx⟩ := hpos q hq
    have := hlate x hx y hy z hz
    omega
  refine ⟨fun e => ?_, fun f hf => ⟨(hc.2.1 f hf).1, fun e => ?_⟩, hc.2.2⟩
  · obtain ⟨hbefore, hsame⟩ := same e
    obtain ⟨hag, hat⟩ := hc.1 hbefore
    exact ⟨hag.of_sameUpTo fun q hq => hsame q hq _ le_rfl, hat.of_sameUpTo fun q hq => hsame q hq _ le_rfl⟩
  · obtain ⟨hbefore, hsame⟩ := same e
    obtain ⟨hle, hundo⟩ := hc.2.1 f hf
    obtain ⟨hag, hat⟩ := hundo hbefore
    have hall : ∀ q ∈ f.undo.position, SameUpTo q.time rs qs := fun q hq => by
      obtain ⟨x, hx, hqx⟩ := hle q hq
      exact hsame x hx _ hqx
    exact ⟨hag.of_sameUpTo hall, hat.of_sameUpTo hall⟩

theorem release_keeps (touched : List Touched) (c : Cursor) : Keeps c (c.release touched) := by
  rw [release_eq]
  exact .same (.same rfl rfl rfl) rfl rfl

theorem mark_lawful (touched : List Touched) {c : Cursor} (h : c.lawful) : (c.mark touched).lawful := by
  obtain ⟨o, ho, -⟩ := mark_overtakes touched c
  rw [ho]
  exact h

theorem restarted_moves (e : Env) (touched : List Touched) (k : Slot) (c : Cursor) (l : Live) :
    Moves l (restarted e touched k c l) := by
  unfold restarted
  split_ifs
  · exact beginProbe_moves e k l
  · exact Moves.refl l

/-- R22, R114, R117, R158, R170: a commit marks a cursor, and moves follow. -/
theorem commitReaches_moves (e : Env) (touched : List Touched) {l : Live} {k : Slot} {c : Cursor}
    (h : l.cursor k = some c) : Moves (l.setCursor k (c.mark touched)) (commitReaches e touched k l) := by
  have hx := cursor_setCursor_same l k (c.mark touched)
  have released := Moves.keeps hx (release_keeps touched _)
  have tested := Moves.keeps (cursor_setCursor_same _ k ((c.mark touched).release touched))
    (lagTest_keeps e ((c.mark touched).release touched)) (l := (l.setCursor k (c.mark touched)).setCursor k _)
  rw [setCursor_setCursor] at released tested
  rw [setCursor_setCursor] at tested
  rw [commitReaches_eq e touched h]
  exact ((released.trans tested).trans (restarted_moves e touched k c _)).trans (atBoundary_moves e k _)

theorem commitReaches_lawful (e : Env) (touched : List Touched) (k : Slot) {l : Live} (h : l.Lawful) :
    (commitReaches e touched k l).Lawful := by
  cases hc : l.cursor k with
  | none => rw [commitReaches_free e touched hc]; exact h
  | some c => exact (commitReaches_moves e touched hc).lawful (h.setCursor (mark_lawful touched (h k c hc)) k)

theorem commitReachesAll_lawful (e : Env) (touched : List Touched) {l : Live} (h : l.Lawful) :
    (commitReachesAll e touched l).Lawful := by
  obtain ⟨order, n, -, hr⟩ := inFreeOrder_eq (l.slotsWhere fun _ => true) (commitReaches e touched) l
  rw [commitReachesAll, hr]
  have all : ∀ (ks : List Slot) (m : Live), m.Lawful →
      (ks.foldl (fun m k => commitReaches e touched k m) m).Lawful := by
    intro ks
    induction ks with
    | nil => exact fun m hm => hm
    | cons k ks ih => exact fun m hm => ih _ (commitReaches_lawful e touched k hm)
  exact all order _ h

/-- R21, R22, R88, R101: what a commit is handed to agrees with the store it has installed. -/
theorem handOut_replayed {rs : List Record} {iv : Nat} {reach : Option Nat} {touched : List Touched} {u : State}
    (hl : u.live.Replayed rs iv) (hp : NotPast u) (hs : SameBefore touched rs u.history.records)
    (hr : ∀ T, (∀ x ∈ reach, T < x) → ∀ y ∈ touched, ∀ z ∈ y.times, T < z) :
    (handOut reach touched u).live.Replayed u.history.records iv := by
  obtain ⟨hstamps, -, hone⟩ := commitReachesAll_reaches u.env touched
    { u.live with checkpoints := u.live.checkpoints.invalidate reach }
  have hentry : ∀ i, ((u.live.checkpoints.invalidate reach).entries.get i).instant =
      (u.live.checkpoints.entries.get i).instant := fun i => by
    unfold CheckpointTable.invalidate
    split <;> simp
  have hreplay : ∀ i, ((u.live.checkpoints.invalidate reach).entries.get i).replayed u.history.records iv := by
    intro i hv
    obtain ⟨hvalid, hbefore⟩ := (invalidate_valid _ reach i).1 hv
    have := ((hl 0).1.1 i).of_sameUpTo (qs := u.history.records) fun _ T hT =>
      hs T fun y hy z hz => (hr _ hbefore y hy z hz).trans_le' hT
    have := this hvalid
    unfold CheckpointTable.invalidate
    split
    · exact this
    · simpa using this
  have htable : (u.live.checkpoints.invalidate reach).Replayed u.history.records iv :=
    ⟨hreplay, fun i j hi hj e => (hl 0).1.2 i j ((invalidate_valid _ reach i).1 hi).1
      ((invalidate_valid _ reach j).1 hj).1 (by rwa [hentry, hentry] at e)⟩
  intro k
  refine ⟨hstamps.replayed htable, fun d hd => ?_⟩
  cases hc : u.live.cursor k with
  | none => exact absurd ((handOut_kept reach touched u).2.2.free hc) (by rw [Option.mem_def.1 hd]; simp)
  | some c =>
    obtain ⟨m, hm, hst, he⟩ := hone k c hc
    have hmark := mark_replayed hs ((hl k).2 c hc) (hp k c hc)
    have start : (m.setCursor k (c.mark touched)).ReplayedAt u.history.records iv k :=
      ⟨hst.replayed htable, fun x hx => by
        rw [cursor_setCursor_same] at hx
        exact Option.some.inj hx ▸ hmark⟩
    exact ((commitReaches_moves u.env touched hm).replayedAt start).2 d (he ▸ hd)

theorem handOut_lawful (reach : Option Nat) (touched : List Touched) {u : State} (h : u.live.Lawful) :
    (handOut reach touched u).live.Lawful := commitReachesAll_lawful _ touched h

/-- R21: an instant before the reach lies before every touched time. -/
theorem commitReach_before {touched : List Touched} {starts : List Nat} {T : Nat}
    (h : ∀ x ∈ commitReach touched starts, T < x) : ∀ y ∈ touched, ∀ z ∈ y.times, T < z := by
  intro y hy z hz
  have hmem : z ∈ touched.flatMap Touched.times ++ starts :=
    List.mem_append_left _ (List.mem_flatMap.2 ⟨y, hy, hz⟩)
  cases hr : commitReach touched starts with
  | none => rw [commitReach_none.1 hr] at hmem; exact nomatch hmem
  | some t => exact (h t hr).trans_le ((commitReach_some.1 hr).2 z hmem)

/-! ### A segment's commit, and the spill of SEAL_HISTORY -/

/-- R14: a commit that the identity check passes shows what the store did before its touched times. -/
theorem takeCandidates_sameBefore {s : State} (hs : StoreLaw s) (w : Nat) {cs : List Candidate}
    (hf : identityFails s.history.records cs = false) :
    SameBefore (takeCandidates w s.history cs).touched s.history.records (takeCandidates w s.history cs).history.records :=
  fun _ h => foldl_takeCandidate_sameUpTo w s.history.greatest
    (a := { history := s.history, touched := [], committed := 0, corroborated := 0, full := [] }) hs.sound hf h

theorem Live.Replayed.of_same {rs : List Record} {iv : Nat} {l m : Live} (h : l.Replayed rs iv)
    (hc : m.cursors = l.cursors) (ht : m.checkpoints = l.checkpoints) : m.Replayed rs iv :=
  (Moves.others hc ht).replayed h

theorem NotPast.of_cursors {s t : State} (h : NotPast s) (hc : t.live.cursors = s.live.cursors) : NotPast t :=
  fun k c hk => h k c (by unfold Live.cursor at hk ⊢; rw [← hc]; exact hk)

theorem commitSegment_replayed {s : State} (hst : StoreLaw s) (hp : NotPast s) {iv : Nat}
    (h : s.live.Replayed s.history.records iv) (g : QueuedSegment) {x : Proc}
    (hf : identityFails s.history.records x.staged = false) :
    (commitSegment g x s).live.Replayed (commitSegment g x s).history.records iv := by
  have hc : (committed g x s).live.cursors = s.live.cursors := (finishInProgress_cursors _ _ _ _ _ _ _).1
  have hhist : (commitSegment g x s).history = (committed g x s).history := handOut_history _ _ _
  rw [hhist, commitSegment_eq]
  exact handOut_replayed (h.of_same hc (committed_checkpoints g x s)) (hp.of_cursors hc)
    (takeCandidates_sameBefore hst _ hf) fun _ hT => commitReach_before hT

theorem sealContexts_cursors (b : State) (rej : List Candidate) (full : List RecId) (rs : List RecId) (s : State) :
    (rs.foldl (sealContext b rej full) s).live.cursors = s.live.cursors ∧
      (rs.foldl (sealContext b rej full) s).live.checkpoints = s.live.checkpoints := by
  induction rs generalizing s with
  | nil => exact ⟨rfl, rfl⟩
  | cons r rs ih =>
    obtain ⟨h1, h2⟩ := ih (sealContext b rej full s r)
    obtain ⟨g1, g2⟩ : (sealContext b rej full s r).live.cursors = s.live.cursors ∧
        (sealContext b rej full s r).live.checkpoints = s.live.checkpoints := notifyAttention_cursors _ _ _ _
    exact ⟨h1.trans g1, h2.trans g2⟩

theorem takeSeals_moves (e : Env) (ks : List Slot) (l : Live) : Moves l (ks.foldl (fun m k => takeSeal e k m) l) :=
  Moves.foldl (f := takeSeal e) (takeSeal_moves e) ks l

theorem sealCursors_moves (s : State) : Moves s.live (sealCursors s).live := by
  have h := takeSeals_moves s.env allSlots s.live
  generalize hm : allSlots.foldl (fun m k => takeSeal s.env k m) s.live = m at h
  rw [sealCursors, hm]
  exact h

/-- R7 to R9: SEAL_HISTORY commits its spill, and then the cursors take the seal. -/
theorem sealHistory_live (s : State) :
    ∃ u : State, u.history = { (sealCommit s).history.settle with phase := .sealed } ∧
      u.live.cursors = s.live.cursors ∧ u.live.checkpoints = s.live.checkpoints ∧
      Moves (handOut (commitReach (sealCommit s).touched []) (sealCommit s).touched u).live (sealHistory s).live := by
  obtain ⟨h1, h2⟩ := sealContexts_cursors s (sealSplit s).2 (sealCommit s).full (spillSlots s)
    { s with history := { (sealCommit s).history.settle with phase := .sealed } }
  exact ⟨notifyStore (sealSpilled s), by rw [notifyStore_history]; exact sealContexts_history _ _ _ _ _, h1, h2,
    sealCursors_moves _⟩

theorem sealHistory_replayed {s : State} (hst : StoreLaw s) (hp : NotPast s) {iv : Nat}
    (h : s.live.Replayed s.history.records iv) :
    (sealHistory s).live.Replayed (sealHistory s).history.records iv := by
  obtain ⟨u, hh, hc, ht, hm⟩ := sealHistory_live s
  obtain ⟨h1, h2, -⟩ := sealAdmit_passes s.history.records (Config.storeCapacity - s.history.commitCount) []
    (sealCandidates s)
  have hid : identityFails s.history.records (sealSplit s).1 = false :=
    identityFails_false.2 ⟨fun c hc => (h1 c hc).1, h2⟩
  rw [sealHistory_history, ← hh]
  refine hm.replayed (handOut_replayed (h.of_same hc ht) (hp.of_cursors hc) ?_ fun _ hT => commitReach_before hT)
  rw [hh]
  exact takeCandidates_sameBefore hst _ hid

theorem sealHistory_lawful {s : State} (h : s.live.Lawful) : (sealHistory s).live.Lawful := by
  obtain ⟨u, -, hc, -, hm⟩ := sealHistory_live s
  exact hm.lawful (handOut_lawful _ _ (h.of_cursors fun k => congrArg (·.get k) hc))

theorem commitSegment_lawful {s : State} (h : s.live.Lawful) (g : QueuedSegment) (x : Proc) :
    (commitSegment g x s).live.Lawful := by
  rw [commitSegment_eq]
  exact handOut_lawful _ _ (h.of_cursors (committed_cursor g x s))

end Sys2Proof.Machine
end

section
/-!
PROOF. The commands that make moves alone: every request on a cursor, the clock, the lines and the links, and the cursors'
events but the two reads that apply a record.
-/

namespace Sys2Proof.Machine

open Sys2Proof

/-! ### The requests on a cursor -/

/-- A rule for an open cursor makes moves alone. -/
def MovesRule (rule : Slot → Cursor → State → Response × State) : Prop :=
  ∀ k c s, s.live.cursor k = some c → Moves s.live (rule k c s).2.live

/-- R112: an ARMED cursor returns to the state it was armed from. -/
theorem disarm_moves {l : Live} {k : Slot} {c : Cursor} (h : l.cursor k = some c) (hs : c.state = .armed) :
    Moves l (disarm k c l) := by
  refine Moves.after h (flush_moves k _) (.goesOn (.same rfl rfl rfl) rfl rfl fun hc => ?_)
  have hn := hc.snap_none (by simp [hs]) (by simp [hs])
  exact settled_resting (hc.op_none hn (by simp [hs]) (by simp [hs])) hn rfl (by split <;> simp)

theorem pend_moves (e : Env) (p : PendingHold) {l : Live} {k : Slot} {c : Cursor} (h : l.cursor k = some c) :
    Moves l (pend e p k c l) := Moves.after h (atBoundary_moves e k _) (.same (.same rfl rfl rfl) rfl rfl)

theorem holdAccepted_moves (e : Env) {l : Live} {k : Slot} {c : Cursor} (h : l.cursor k = some c) :
    Moves l (holdAccepted e k c l) := by
  unfold holdAccepted
  split
  · exact pend_moves e _ h
  · exact Moves.keeps h (.same (.same rfl rfl rfl) rfl rfl)
  · exact disarm_moves h ‹_›
  all_goals exact Moves.refl l

theorem stopAccepted_moves (e : Env) {l : Live} {k : Slot} {c : Cursor} (h : l.cursor k = some c) :
    Moves l (stopAccepted e k c l) := by
  unfold stopAccepted
  split
  · exact abandon_moves e h (.inl ‹_›)
  · split_ifs
    · exact abandon_moves e h (.inr ‹_›)
    · exact pend_moves e _ h
  · exact disarm_moves h ‹_›
  all_goals exact Moves.refl l

/-- A cursor that is not snapshotting has no snapshot. -/
theorem snap_of_not_snapshotting {c : Cursor} (h : c.snapshotting = false) : c.snap = none := by
  simpa [Cursor.snapshotting] using h

/-- R104: a cursor whose options are written, HELD where it was ENDED. -/
theorem endedToHeld_moves {l : Live} {k : Slot} {c : Cursor} (h : l.cursor k = some c) (hn : c.snap = none) :
    Moves l (endedToHeld k l) := by
  unfold endedToHeld
  rw [withCursor_some _ h]
  split_ifs with he
  · refine Moves.after h (flush_moves k _) (.goesOn (.same rfl rfl rfl) rfl rfl fun hc => ?_)
    exact settled_resting (hc.op_none hn (by simp [he]) (by simp [he])) hn (hc.armedFrom_none (by simp [he])) (by simp)
  · exact Moves.refl l

theorem optionsOf_ok {own : Slot} {now o : Options} {payload : List Byte} (h : optionsOf own now payload = some o) :
    optionsOk own o = true := by
  unfold optionsOf at h
  dsimp only at h
  split_ifs at h
  split at h
  · split_ifs at h with hok
    exact Option.some.inj h ▸ hok
  · exact nomatch h

theorem setCursor_movesRule (x b : List Byte) : MovesRule (setCursor x b) := fun k c s hc => by
  unfold setCursor
  split_ifs with hb
  · exact Moves.refl _
  · exact Moves.refl _
  · split
    · exact Moves.refl _
    · rename_i o ho
      have hn : c.snap = none := snap_of_not_snapshotting (by
        rw [Bool.not_eq_true, Cursor.busy, Bool.or_eq_false_iff] at hb
        exact hb.1)
      exact (Moves.setCursor hc (.sets (optionsOf_ok ho))).trans
        (endedToHeld_moves (cursor_setCursor_same _ k (c.setOptions o)) hn)

theorem seek_movesRule (t : Nat) (ch : Bool) : MovesRule (seek t ch) := fun k c s hc => by
  unfold seek
  split_ifs with hs
  · exact Moves.refl _
  · exact Moves.refl _
  · have hn : c.snap = none := snap_of_not_snapshotting (by
      simp only [Cursor.seekable, Bool.not_eq_true', Bool.and_eq_false_iff, not_or, Bool.not_eq_false] at hs
      simpa using hs.1)
    exact startSeek_moves s.env hc (u := { c with pendingHold := none, trailFrozen := false }) (.same rfl rfl rfl)
      (fun _ => hn) t ch

theorem play_movesRule (re : Bool) : MovesRule (play re) := fun k c s hc => by
  unfold play
  split
  · exact Moves.refl _
  · rename_i hr
    have hn : c.snap = none := snap_of_not_snapshotting (by
      cases h : c.snapshotting with
      | false => rfl
      | true => simp [Cursor.playRefusal, h] at hr)
    show Moves s.live (playAccepted s.env re k c s.live)
    unfold playAccepted
    dsimp only
    split_ifs
    · exact startSeek_moves s.env hc (u := { c with trailFrozen := false }) (.same rfl rfl rfl) (fun _ => hn) _ _
    · exact Moves.after hc (d := { c with trailFrozen := false })
        (beginPlay_moves s.env (cursor_setCursor_same _ k { c with trailFrozen := false }) (fun _ => hn) _
          (Nat.zero_le _)) (.same (.same rfl rfl rfl) rfl rfl)

theorem settledRefusal_none {c : Cursor} (h : c.settledRefusal = none) : c.snap = none ∧ c.state = .held := by
  unfold Cursor.settledRefusal at h
  split_ifs at h with h1
  refine ⟨snap_of_not_snapshotting (by simpa using h1), ?_⟩
  cases hs : c.state <;> simp [hs] at h ⊢

theorem stepRequest_movesRule (n : Nat) : MovesRule (stepRequest n) := fun k c s hc => by
  unfold stepRequest
  split
  · exact Moves.refl _
  · rename_i hr
    split_ifs with hn
    · exact Moves.refl _
    · have hle : n ≤ 4096 := by omega
      exact beginPlay_moves s.env hc (fun _ => (settledRefusal_none hr).1) true hle

theorem hold_movesRule : MovesRule hold := fun k c s hc => by
  unfold hold
  split_ifs
  · exact Moves.refl _
  · exact holdAccepted_moves s.env hc

theorem stop_movesRule : MovesRule stop := fun k c s hc => by
  unfold stop
  split_ifs
  · exact Moves.refl _
  · exact stopAccepted_moves s.env hc

theorem arm_movesRule : MovesRule arm := fun k c s hc => by
  unfold arm
  split
  · exact Moves.refl _
  · rename_i hr
    split_ifs
    · exact Moves.refl _
    · have hn : c.snap = none ∧ (c.state = .idle ∨ c.state = .held) := by
        by_cases hi : c.state = .idle ∧ (!c.snapshotting) = true
        · exact ⟨snap_of_not_snapshotting (by simpa using hi.2), .inl hi.1⟩
        · rw [if_neg hi] at hr
          exact (settledRefusal_none hr).imp_right .inr
      refine Moves.after hc (flush_moves k _) (.goesOn (.same rfl rfl rfl) rfl rfl fun h => ?_)
      have ho : c.op = .none := h.op_none hn.1 (by rcases hn.2 with g | g <;> simp [g])
        (by rcases hn.2 with g | g <;> simp [g])
      exact settled_quiet ho hn.1 (by simp)

/-- R123: a snapshot is taken of a cursor that is HELD or ENDED and has none. -/
theorem snapshotRefusal_none {c : Cursor} (h : c.snapshotRefusal = none) :
    c.snap = none ∧ (c.state = .held ∨ c.state = .ended) := by
  unfold Cursor.snapshotRefusal at h
  split_ifs at h with h1
  refine ⟨snap_of_not_snapshotting (by simpa using h1), ?_⟩
  cases hs : c.state <;> simp [hs] at h ⊢

theorem snapAccepted_moves (e : Env) {l : Live} {k : Slot} {c : Cursor} (h : l.cursor k = some c)
    (hn : c.snap = none) (hs : c.state = .held ∨ c.state = .ended) (todo : List PointId) :
    Moves l (snapAccepted e k c todo l) := by
  have hk : ∀ w : SnapWork, Keeps c { c with snap := some w } := fun w =>
    .goesOn (.same rfl rfl rfl) rfl rfl fun hc => ⟨hc.1, fun _ => hs, by
      have ho : c.op = .none := hc.op_none hn (by rcases hs with g | g <;> simp [g])
        (by rcases hs with g | g <;> simp [g])
      simp [opFits, ho]⟩
  unfold snapAccepted
  dsimp only
  split_ifs
  · exact flush_moves k _
  · exact Moves.after h (startRebase_moves e (cursor_setCursor_same _ k _) (.inr rfl)) (hk _)
  · exact Moves.keeps h (hk _)

theorem snapshot_movesRule (a b : Nat) (st : Option Nat) : MovesRule (snapshot a b st) := fun k c s hc => by
  unfold snapshot
  split
  · exact Moves.refl _
  · rename_i hr
    obtain ⟨hn, hs⟩ := snapshotRefusal_none hr
    dsimp only
    generalize snapPoints s.tables a b st = todo
    split
    · exact Moves.refl _
    · exact snapAccepted_moves s.env hc hn hs todo

theorem closeCursor_movesRule : MovesRule closeCursor := fun k c s _ => by
  refine Moves.frees (fun j d hd => ?_) rfl
  by_cases h : k = j
  · subst h
    have : (s.live.freeCursor k).cursor k = none := by simp [Live.freeCursor, Live.cursor]
    exact nomatch this.symm.trans hd
  · have : (s.live.freeCursor k).cursor j = s.live.cursor j := by
      simp [Live.freeCursor, Live.cursor, vput_get_ne _ _ h]
    exact this.symm.trans hd

theorem fetch_movesRule : MovesRule fetch := fun k c s hc => by
  unfold fetch
  split
  · exact (Moves.setCursor hc (.fetches ‹_› ‹_›)).trans (resumeWaiting_moves s.env k _)
  · exact Moves.refl _

/-- R154, R157: an accepted probe joins the queue, and a withdrawable step is aborted. -/
theorem takeProbe_moves {l : Live} {k : Slot} {c : Cursor} (h : l.cursor k = some c) (q : Probe)
    (hq : c.probes.length < Config.probeCapacity) : Moves l (l.setCursor k (c.takeProbe q)) := by
  have joined := Moves.setCursor h (.joins q hq)
  unfold Cursor.takeProbe
  dsimp only
  split
  · rename_i f _ hf
    split_ifs
    · have aborted := Moves.setCursor (cursor_setCursor_same l k { c with probes := c.probes ++ [q] })
        (.aborts (f := f) hf)
      rw [setCursor_setCursor] at aborted
      exact joined.trans aborted
    · exact joined
  · exact joined

theorem probeAccepted_moves (e : Env) {l : Live} {k : Slot} {c : Cursor} (h : l.cursor k = some c) (q : Probe)
    (hq : c.probes.length < Config.probeCapacity) : Moves l (probeAccepted e k c q l) := by
  unfold probeAccepted
  dsimp only
  refine (takeProbe_moves h q hq).trans (Moves.trans ?_ (kickProbe_moves e k _))
  split_ifs
  · exact lagTest_moves e k _
  · exact Moves.refl _

theorem probeRequest_movesRule (tag pt t : Nat) : MovesRule (probeRequest tag pt t) := fun k c s hc => by
  unfold probeRequest
  split
  · exact Moves.refl _
  · split_ifs with h1 h2
    · exact Moves.refl _
    · exact Moves.refl _
    · exact probeAccepted_moves s.env hc _ (not_le.1 h2)

theorem setWatch_movesRule (w : Nat) (args : WatchArgs) (a : Byte) : MovesRule (setWatch w args a) := fun k c s hc => by
  unfold setWatch
  split_ifs
  · exact Moves.refl _
  · split
    · exact Moves.keeps hc (.same (.same rfl rfl rfl) rfl rfl)
    · exact Moves.refl _

theorem clearWatch_movesRule (w : Nat) : MovesRule (clearWatch w) := fun k c s hc => by
  unfold clearWatch
  split_ifs
  · exact Moves.refl _
  · split
    · exact Moves.refl _
    · exact Moves.keeps hc (.same (.same rfl rfl rfl) rfl rfl)

theorem readWatches_movesRule (ws : List Nat) : MovesRule (readWatches ws) := fun k c s hc => by
  unfold readWatches
  split
  · exact Moves.refl _
  · exact Moves.keeps hc (.same (.same rfl rfl rfl) rfl rfl)

theorem readTrail_movesRule : MovesRule readTrail := fun _ _ _ _ => Moves.refl _

/-! ### Requests -/

theorem popRequest_moves (s : State) (p : PortId) : Moves s.live (s.popRequest p).live := Moves.others rfl rfl

theorem takeRequest_moves {rule : List Byte → State → Response × State}
    (h : ∀ b u, Moves u.live (rule b u).2.live) (p : PortId) (code : Nat) (s : State) :
    Moves s.live (takeRequest p code rule s).live := by
  rcases takeRequest_cases p code rule s with e | ⟨tag, body, -, e⟩ <;> rw [e]
  · exact Moves.refl _
  · exact ((popRequest_moves s p).trans (h body _)).trans (Moves.others rfl rfl)

theorem cursorRequest_moves {rule : Slot → Cursor → State → Response × State} (h : MovesRule rule) (p : PortId)
    (slot : Nat) (b : List Byte) (s : State) : Moves s.live (cursorRequest p slot rule b s).2.live := by
  rcases cursorRequest_cases p slot rule b s with ⟨code, e⟩ | ⟨k, c, hc, -, e⟩ <;> rw [e]
  · exact Moves.refl _
  · exact h k c s hc

theorem takeCursorRequest_moves {rule : Slot → Cursor → State → Response × State} (h : MovesRule rule) (p : PortId)
    (code slot : Nat) (s : State) : Moves s.live (takeRequest p code (cursorRequest p slot rule) s).live :=
  takeRequest_moves (cursorRequest_moves h p slot) p code s

/-- A request whose rule changes nothing. -/
theorem takeRequest_same_moves {rule : List Byte → State → Response × State} (h : ∀ b u, (rule b u).2 = u)
    (p : PortId) (code : Nat) (s : State) : Moves s.live (takeRequest p code rule s).live :=
  takeRequest_moves (fun b u => by rw [h b u]; exact Moves.refl _) p code s

/-- A request whose rule touches neither a cursor nor the Checkpoint Table. -/
theorem takeRequest_apart_moves {rule : List Byte → State → Response × State}
    (h : ∀ b u, (rule b u).2.live.cursors = u.live.cursors ∧ (rule b u).2.live.checkpoints = u.live.checkpoints)
    (p : PortId) (code : Nat) (s : State) : Moves s.live (takeRequest p code rule s).live :=
  takeRequest_moves (fun b u => Moves.others (h b u).1 (h b u).2) p code s

theorem openCursor_moves (p : PortId) (b : List Byte) (s : State) : Moves s.live (openCursor p b s).2.live := by
  unfold openCursor
  split_ifs
  · exact Moves.refl _
  · split
    · exact Moves.refl _
    · rename_i k _
      refine Relation.ReflTransGen.single ⟨SameButStamps.refl _, fun j d hd => ?_⟩
      by_cases h : k = j
      · subst h
        exact .inr ⟨p, (Option.some.inj ((cursor_setCursor_same _ k _).symm.trans hd)).symm⟩
      · exact .inl ⟨d, (cursor_setCursor_ne _ _ h).symm.trans hd, CursorMove.refl _ d⟩

/-! ### The Common Clock -/

theorem passClock_moves (l : Option PortId) (s : State) : Moves s.live (passClock l s).live := by
  have lost : ∀ u : State, Moves u.live (notifyLost l u).live := fun u => by
    unfold notifyLost
    split
    · exact Moves.refl _
    · exact Moves.notify _ _ _
  have granted : ∀ u : State, Moves u.live (notifyGranted u).live := fun u => by
    unfold notifyGranted
    split
    · exact Moves.refl _
    · exact Moves.notify _ _ _
  exact ((lost { s with clock := s.clock.passOn }).trans (granted _)).trans (Moves.others rfl rfl)

theorem endClockRole_moves (p : PortId) (s : State) : Moves s.live (endClockRole p s).live := by
  unfold endClockRole
  split_ifs
  · exact passClock_moves _ s
  · exact Moves.refl _

theorem followers_moves (s : State) : Moves s.live (followers s).live := followClockAll_moves s.env s.live

theorem clockMarks_moves (b : Nat) (s : State) : Moves s.live (clockMarks b s).live :=
  Moves.inFreeOrder (trigger_moves s.env) _ s.live

theorem clockAdvance_moves (s : State) : Moves s.live (clockAdvance s).live := by
  have follow : ∀ u : State, u.live.cursors = s.live.cursors ∧ u.live.checkpoints = s.live.checkpoints →
      Moves s.live (clockMarks s.clock.instant (followers u)).live := fun u hu =>
    ((Moves.others hu.1 hu.2).trans (followers_moves u)).trans (clockMarks_moves _ _)
  unfold clockAdvance
  dsimp only
  split_ifs
  · exact follow _ ⟨rfl, rfl⟩
  · exact follow _ ⟨rfl, rfl⟩

theorem idle_moves (s : State) : Moves s.live (idle s).live := by
  unfold idle
  split_ifs
  · exact Moves.refl _
  · exact clockAdvance_moves s
  · exact passClock_moves _ s
  · exact Moves.refl _

theorem clockRun_moves (s : State) : Moves s.live (clockRun s).live := by
  unfold clockRun
  split
  · exact Moves.refl _
  · split_ifs
    · exact Moves.trans (b := (notifyClock .run { s with clock := s.clock.start }).live) (Moves.others rfl rfl)
        (followers_moves _)
    · exact Moves.others rfl rfl

theorem clockPause_moves (s : State) : Moves s.live (clockPause s).live := by
  unfold clockPause
  split
  · exact Moves.refl _
  · exact Moves.others rfl rfl

theorem clockSet_moves (t : Nat) (s : State) : Moves s.live (clockSet t s).live := by
  have reached : ∀ (b : Nat) (u : State), Moves u.live (clockSetReachesAll b u).live := fun b u =>
    Moves.inFreeOrder (clockSetReaches_moves u.env) _ u.live
  have told : Moves s.live (notifyClock .set { s with clock := { s.clock with instant := t } }).live :=
    Moves.others rfl rfl
  exact told.trans (reached s.clock.instant _)

theorem clockRate_moves (n : Nat) (s : State) : Moves s.live (clockRate n s).live := by
  unfold clockRate
  dsimp only
  split_ifs
  · exact Moves.refl _
  · exact Moves.others rfl rfl

theorem controlRequest_moves (p : PortId) (ok : Bool) {rule : State → State} (h : ∀ s, Moves s.live (rule s).live)
    (b : List Byte) (s : State) : Moves s.live (controlRequest p ok rule b s).2.live := by
  unfold controlRequest
  split_ifs
  · exact Moves.refl _
  · exact h s
  · exact Moves.refl _

theorem takeControlRequest_moves (ok : Bool) {rule : State → State} (h : ∀ s, Moves s.live (rule s).live) (p : PortId)
    (code : Nat) (s : State) : Moves s.live (takeRequest p code (controlRequest p ok rule) s).live :=
  takeRequest_moves (controlRequest_moves p ok h) p code s

theorem takeClock_moves (p : PortId) (w : Bool) (b : List Byte) (s : State) :
    Moves s.live (takeClock p w b s).2.live := by
  unfold takeClock
  dsimp only
  split
  · exact Moves.others rfl rfl
  · split_ifs <;> exact Moves.refl _

theorem releaseClock_moves (p : PortId) (b : List Byte) (s : State) : Moves s.live (releaseClock p b s).2.live := by
  unfold releaseClock
  split_ifs
  · exact passClock_moves _ s
  · exact Moves.refl _
  · exact Moves.refl _

/-! ### The lines and the links -/

/-- R183: the fall of RESET_N ends a cursor's operations. -/
theorem endOps_keeps (c : Cursor) : Keeps c c.endOps :=
  .turns (.of rfl id (Nat.zero_le _)) rfl (fun h => settled_quiet rfl rfl h.1) (by simp [Cursor.endOps])
    (by simp [Cursor.endOps])

theorem closeOwned_moves (p : PortId) (l : Live) : Moves l (closeOwned p l) := by
  refine Moves.frees (fun k d hd => ?_) rfl
  have he : (closeOwned p l).cursor k =
      if (l.cursor k).elim false (fun x => x.owner == p) then none else l.cursor k := by
    exact vmap_get _ _ _
  rw [he] at hd
  split_ifs at hd
  exact hd

theorem linkDown_moves (p : PortId) (s : State) :
    Moves s.live (endClockRole p (s.withLive (closeOwned p (s.live.setPort p Port.reset)))).live :=
  (Moves.trans (Moves.others (l := s.live) (m := s.live.setPort p Port.reset) rfl rfl) (closeOwned_moves p _)).trans
    (endClockRole_moves p (s.withLive (closeOwned p (s.live.setPort p Port.reset))))

/-- R137, R177: an item leaves a PUSH queue, and a waiting item is written. -/
theorem sendItem_moves (p : PortId) {s : State} {k : Slot} {c : Cursor} (h : s.live.cursor k = some c) {it : Item}
    {rest : List Item} (ho : c.buffer.outgoing = it :: rest) : Moves s.live (sendItem p k c it rest s).live := by
  have resumed : ∀ m : Live,
      m.cursors = (s.live.setCursor k { c with buffer := { c.buffer with outgoing := rest } }).cursors →
      m.checkpoints = s.live.checkpoints → Moves s.live (resumeWaiting s.env k m) := fun m hm ht =>
    ((Moves.setCursor h (.sends ho)).trans (Moves.others hm ht)).trans (resumeWaiting_moves s.env k m)
  exact resumed _ rfl rfl

theorem transmit_moves (p : PortId) (s : State) : Moves s.live (transmit p s).live := by
  have response : ∀ h, Moves s.live (sendResponse p h s).live := fun _ => Moves.others rfl rfl
  have notice : ∀ n, Moves s.live (sendNotice p n s).live := fun _ => Moves.others rfl rfl
  unfold transmit
  split
  · split_ifs
    · exact response _
    · exact notice _
  · exact response _
  · exact notice _
  · unfold sendDelivery
    split
    · exact Moves.refl _
    · split
      · exact Moves.refl _
      · split
        · exact Moves.refl _
        · exact sendItem_moves p ‹_› ‹_›

/-- An event that acts while RESET_N is high, where it acts at all. -/
theorem event_moves {s t : State} (idle : Bool) (h : Moves s.live t.live) :
    Moves s.live (if idle = true then s else t).live := by
  split_ifs
  · exact Moves.refl _
  · exact h

/-- A frame at the front of the queue is answered, or nothing happens. -/
theorem frameError_moves (p : PortId) (s : State) : ∃ t, execFrameError p s = .next t ∧ Moves s.live t.live := by
  refine ⟨_, rfl, ?_⟩
  split
  · split_ifs
    · exact Moves.others rfl rfl
    · exact Moves.refl _
  · exact Moves.refl _

theorem unknownRequest_moves (p : PortId) (s : State) :
    ∃ t, execUnknownRequest p s = .next t ∧ Moves s.live t.live := by
  refine ⟨_, rfl, ?_⟩
  split
  · split_ifs
    · exact Moves.others rfl rfl
    · exact Moves.refl _
  · exact Moves.refl _

/-! ### Segments and tables -/

theorem tableWrite_apart (w : Tables → Option (RespBody × Tables)) (b : List Byte) (s : State) :
    (tableWrite w b s).2.live = s.live := by
  rcases tableWrite_cases w b s with h | ⟨t, h⟩ <;> rw [h]

theorem takeTableWrite_moves (w : Tables → Option (RespBody × Tables)) (p : PortId) (code : Nat) (s : State) :
    Moves s.live (takeRequest p code (tableWrite w) s).live :=
  takeRequest_moves (fun b u => by rw [tableWrite_apart]; exact Moves.refl _) p code s

theorem beginCollection_moves (b : List Byte) (s : State) : Moves s.live (beginCollection b s).2.live := by
  unfold beginCollection
  split_ifs
  · exact Moves.refl _
  · split
    · exact Moves.refl _
    · exact Moves.others rfl rfl

theorem setEventZero_moves (t : Nat) (b : List Byte) (s : State) : Moves s.live (setEventZero t b s).2.live := by
  unfold setEventZero
  split_ifs <;> exact Moves.refl _

theorem loadSegment_moves (p : PortId) (b : List Byte) (s : State) : Moves s.live (loadSegment p b s).2.live := by
  unfold loadSegment joinQueue
  repeat' split
  all_goals exact Moves.refl _

theorem cancelSegment_moves (p : PortId) (r q : Nat) (b : List Byte) (s : State) :
    Moves s.live (cancelSegment p r q b s).2.live := by
  unfold cancelSegment cancelAt
  repeat' split
  all_goals exact Moves.others rfl rfl

theorem subscribe_moves (p : PortId) (set : Byte) (b : List Byte) (s : State) :
    Moves s.live (subscribe p set b s).2.live := by
  unfold subscribe
  split
  · exact Moves.refl _
  · exact Moves.others rfl rfl

theorem setAttentionMask_moves (b : List Byte) (s : State) : Moves s.live (setAttentionMask b s).2.live := by
  unfold setAttentionMask
  split
  · exact Moves.refl _
  · obtain ⟨h1, h2⟩ := notifyAttention_cursors _ _ _ s.live
    exact Moves.others h1 h2

theorem clearCauses_moves (b : List Byte) (s : State) : Moves s.live (clearCauses b s).2.live := by
  unfold clearCauses
  split <;> exact Moves.refl _

theorem failSegment_moves (g : QueuedSegment) (o : SegOutcome) (i : Option Nat) (s : State) :
    Moves s.live (failSegment g o i s).live := by
  obtain ⟨h1, h2⟩ := finishInProgress_cursors g o 0 0 i (failureSet o) s
  exact Moves.others h1 h2

theorem segmentFailure_moves (s : State) : ∃ t, execSegmentFailure s = .next t ∧ Moves s.live t.live := by
  refine ⟨_, rfl, ?_⟩
  split_ifs
  · exact Moves.refl _
  · split
    · exact failSegment_moves _ _ _ s
    · exact Moves.refl _

/-! ### Every command but those that empty, commit or read a record -/

/-- The commands that may empty the live part, take a commit, or apply a record. -/
def Applies : Instr → Bool
  | .powerOn | .resetRelease | .sealHistory _ | .clearHistory _ | .segmentCommit | .stepRead _ | .rebuildRead _ => true
  | _ => false

/-- Every other command makes moves alone. -/
theorem exec_moves {i : Instr} (hi : Applies i = false) (s : State) : ∃ t, exec i s = .next t ∧ Moves s.live t.live := by
  cases i with
  | powerOn | resetRelease | sealHistory | clearHistory | segmentCommit | stepRead | rebuildRead => cases hi
  | resetAssert => exact ⟨_, rfl, Moves.map endOps_keeps (fun k => by simp [Live.cursor]) rfl⟩
  | linkUp p => exact ⟨_, rfl, event_moves _ (Moves.others rfl rfl)⟩
  | linkDown p => exact ⟨_, rfl, event_moves _ (linkDown_moves p s)⟩
  | markInEdge => exact ⟨_, rfl, event_moves _ (triggerEvent_moves s.env .line s.live)⟩
  | frameReceive p bytes => exact ⟨_, rfl, event_moves _ (Moves.others rfl rfl)⟩
  | frameError p => exact frameError_moves p s
  | unknownRequest p => exact unknownRequest_moves p s
  | frameTransmit p => exact ⟨_, rfl, event_moves _ (transmit_moves p s)⟩
  | describe p => exact ⟨_, rfl, takeRequest_same_moves (fun _ _ => rfl) p 1 s⟩
  | subscribe p set => exact ⟨_, rfl, takeRequest_moves (subscribe_moves p set) p 2 s⟩
  | beginCollection p => exact ⟨_, rfl, takeRequest_moves beginCollection_moves p 3 s⟩
  | readRecords p st e n z => exact ⟨_, rfl, takeRequest_same_moves (readRecords_same st e n z) p 6 s⟩
  | readGaps p a n r => exact ⟨_, rfl, takeRequest_same_moves (readGaps_same a n r) p 7 s⟩
  | setPoint p first xs => exact ⟨_, rfl, takeTableWrite_moves _ p 8 s⟩
  | setRecorder p r e u o d f => exact ⟨_, rfl, takeTableWrite_moves _ p 9 s⟩
  | setMapBlock p r b x => exact ⟨_, rfl, takeTableWrite_moves _ p 10 s⟩
  | setStudy p e w t v => exact ⟨_, rfl, takeTableWrite_moves _ p 11 s⟩
  | setEventZero p t => exact ⟨_, rfl, takeRequest_moves (setEventZero_moves t) p 12 s⟩
  | loadSegment p => exact ⟨_, rfl, takeRequest_moves (loadSegment_moves p) p 13 s⟩
  | cancelSegment p r q => exact ⟨_, rfl, takeRequest_moves (cancelSegment_moves p r q) p 14 s⟩
  | readRecorder p r => exact ⟨_, rfl, takeRequest_same_moves (readRecorder_same r) p 15 s⟩
  | setAttentionMask p => exact ⟨_, rfl, takeRequest_moves setAttentionMask_moves p 16 s⟩
  | clearCauses p => exact ⟨_, rfl, takeRequest_moves clearCauses_moves p 17 s⟩
  | openCursor p => exact ⟨_, rfl, takeRequest_moves (openCursor_moves p) p 18 s⟩
  | readCursor p slot => exact ⟨_, rfl, takeRequest_same_moves (readCursor_same slot) p 19 s⟩
  | setCursor p slot x =>
    exact ⟨_, rfl, takeRequest_moves (fun b => cursorRequest_moves (setCursor_movesRule x b) p slot b) p _ s⟩
  | seek p slot t ch => exact ⟨_, rfl, takeCursorRequest_moves (seek_movesRule t ch) p _ slot s⟩
  | play p slot re => exact ⟨_, rfl, takeCursorRequest_moves (play_movesRule re) p _ slot s⟩
  | step p slot n => exact ⟨_, rfl, takeCursorRequest_moves (stepRequest_movesRule n) p _ slot s⟩
  | hold p slot => exact ⟨_, rfl, takeCursorRequest_moves hold_movesRule p _ slot s⟩
  | stop p slot => exact ⟨_, rfl, takeCursorRequest_moves stop_movesRule p _ slot s⟩
  | arm p slot => exact ⟨_, rfl, takeCursorRequest_moves arm_movesRule p _ slot s⟩
  | snapshot p slot a b st => exact ⟨_, rfl, takeCursorRequest_moves (snapshot_movesRule a b st) p _ slot s⟩
  | closeCursor p slot => exact ⟨_, rfl, takeCursorRequest_moves closeCursor_movesRule p _ slot s⟩
  | fetch p slot => exact ⟨_, rfl, takeCursorRequest_moves fetch_movesRule p _ slot s⟩
  | probe p slot tag pt t => exact ⟨_, rfl, takeCursorRequest_moves (probeRequest_movesRule tag pt t) p _ slot s⟩
  | setWatch p slot w args a => exact ⟨_, rfl, takeCursorRequest_moves (setWatch_movesRule w args a) p _ slot s⟩
  | clearWatch p slot w => exact ⟨_, rfl, takeCursorRequest_moves (clearWatch_movesRule w) p _ slot s⟩
  | readWatches p slot ws => exact ⟨_, rfl, takeCursorRequest_moves (readWatches_movesRule ws) p _ slot s⟩
  | readTrail p slot => exact ⟨_, rfl, takeCursorRequest_moves readTrail_movesRule p _ slot s⟩
  | takeClock p w => exact ⟨_, rfl, takeRequest_moves (takeClock_moves p w) p 35 s⟩
  | releaseClock p => exact ⟨_, rfl, takeRequest_moves (releaseClock_moves p) p 36 s⟩
  | readClock p => exact ⟨_, rfl, takeRequest_same_moves (fun _ _ => rfl) p 37 s⟩
  | clockRun p => exact ⟨_, rfl, takeControlRequest_moves true clockRun_moves p _ s⟩
  | clockPause p => exact ⟨_, rfl, takeControlRequest_moves true clockPause_moves p _ s⟩
  | clockSet p t => exact ⟨_, rfl, takeControlRequest_moves _ (clockSet_moves t) p _ s⟩
  | clockRate p n => exact ⟨_, rfl, takeControlRequest_moves _ (clockRate_moves n) p _ s⟩
  | setLease p n => exact ⟨_, rfl, takeControlRequest_moves (rule := setLease n) _ (fun _ => Moves.refl _) p _ s⟩
  | clockAdvance => exact ⟨_, rfl, event_moves _ (clockAdvance_moves { s with clock := s.clock.spend (s.clock.pacing.getD 0) })⟩
  | leaseExpiry => exact ⟨_, rfl, event_moves _ (passClock_moves _ s)⟩
  | segmentFailure => exact segmentFailure_moves s
  | probeRead k => exact ⟨_, rfl, event_moves _ (probeRead_moves s.env k s.live)⟩
  | itemWritten k => exact ⟨_, rfl, event_moves _ (itemWritten_moves s.env k s.live)⟩

end Sys2Proof.Machine
end

section
/-!
PROOF. Every step keeps the cursors lawful, and the images of cursors and checkpoints in agreement with the store (R83, R99,
R101, R118, R123, R151, R154, R157).
-/

namespace Sys2Proof.Machine

open Sys2Proof

/-! ### The laws of the cursors -/

/-- A live part with every slot FREE. -/
theorem lawful_of_free {l : Live} (h : ∀ k : Slot, l.cursor k = none) : l.Lawful := fun k _ hc =>
  nomatch (h k).symm.trans hc

theorem takeRequest_lawful {rule : List Byte → State → Response × State}
    (h : ∀ b u, u.live.Lawful → (rule b u).2.live.Lawful) (p : PortId) (code : Nat) {s : State} (hs : s.live.Lawful) :
    (takeRequest p code rule s).live.Lawful := by
  rcases takeRequest_cases p code rule s with e | ⟨tag, body, -, e⟩ <;> rw [e]
  · exact hs
  · exact h body (s.popRequest p) hs

theorem reset_free (k : Slot) : State.reset.live.cursor k = none := by simp [State.reset, Live.reset, Live.cursor]

theorem clearHistory_free {s : State} (h : ¬(allSlots.any fun k => (s.live.cursor k).isSome) = true) (k : Slot) :
    (clearHistory s).live.cursor k = none := (clearHistory_kept s).2.2.free (allSlots_free h k)

theorem clearRequest_lawful (b : List Byte) {s : State} (h : s.live.Lawful) : (clearRequest b s).2.live.Lawful := by
  unfold clearRequest
  split_ifs with hopen
  · exact h
  · exact lawful_of_free (clearHistory_free hopen)

theorem sealRequest_lawful (b : List Byte) {s : State} (h : s.live.Lawful) : (sealRequest b s).2.live.Lawful := by
  unfold sealRequest
  split_ifs
  · exact h
  · exact h
  · exact sealHistory_lawful h

theorem handOver_lawful (g : QueuedSegment) (x : Proc) {s : State} (h : s.live.Lawful) : (handOver g x s).live.Lawful := by
  unfold handOver
  split_ifs
  · exact (failSegment_moves g _ _ s).lawful h
  · exact (failSegment_moves g _ _ s).lawful h
  · exact commitSegment_lawful h g x

theorem segmentCommit_lawful {s : State} (h : s.live.Lawful) :
    ∃ t, execSegmentCommit s = .next t ∧ t.live.Lawful := by
  refine ⟨_, rfl, ?_⟩
  split_ifs
  · exact h
  · split
    · exact handOver_lawful _ _ h
    · exact h

/-- Every command keeps the cursors lawful. -/
theorem exec_cursorLaw (i : Instr) {s : State} (hs : CursorLaw s) : ∃ t, exec i s = .next t ∧ CursorLaw t := by
  by_cases ha : Applies i = true
  · cases i with
    | powerOn => exact ⟨_, rfl, lawful_of_free reset_free⟩
    | resetRelease =>
      refine ⟨_, rfl, ?_⟩
      split_ifs
      · exact lawful_of_free reset_free
      · exact hs
    | sealHistory p => exact ⟨_, rfl, takeRequest_lawful (fun b _ hu => sealRequest_lawful b hu) p 4 hs⟩
    | clearHistory p => exact ⟨_, rfl, takeRequest_lawful (fun b _ hu => clearRequest_lawful b hu) p 5 hs⟩
    | segmentCommit => exact segmentCommit_lawful hs
    | stepRead k =>
      refine ⟨_, rfl, ?_⟩
      split_ifs
      · exact hs
      · exact stepRead_lawful s.env k (l := s.live) hs
    | rebuildRead k =>
      refine ⟨_, rfl, ?_⟩
      split_ifs
      · exact hs
      · exact rebuildRead_lawful s.env k (l := s.live) hs
    | _ => cases ha
  · obtain ⟨t, he, hm⟩ := exec_moves (by simpa using ha) s
    exact ⟨t, he, hm.lawful hs⟩

theorem step_cursorLaw {s t : State} (hs : CursorLaw s) (h : step s = .next t) : CursorLaw t :=
  step_keeps (P := CursorLaw) (fun _ _ hu => hu) (fun u hu => (idle_moves u).lawful hu) (fun i _ hu => exec_cursorLaw i hu)
    hs h

/-! ### Images against the store -/

/-- What the agreement of images with the store is kept from. -/
structure ReplayBase (s : State) : Prop where
  store : StoreLaw s
  setup : SetupLaw s
  tables : TablesLaw s
  past : NotPast s
  replay : ReplayLaw s

theorem ReplayBase.replayed {s : State} (h : ReplayBase s) :
    s.live.Replayed s.history.records (s.tables.study.interval * 1000000) := (replayLaw_iff s).1 h.replay

/-- A live part with every slot FREE and every checkpoint invalid. -/
theorem replayLaw_of_empty {s : State} (hv : ∀ i : CkptId, (s.live.checkpoints.entries.get i).valid = false)
    (hc : ∀ k : Slot, s.live.cursor k = none) : ReplayLaw s :=
  ⟨fun k _ h => (nomatch (hc k).symm.trans h), fun i h => (nomatch (hv i).symm.trans h),
    fun i _ h => nomatch (hv i).symm.trans h⟩

/-- Moves over the same records and the same interval. -/
theorem ReplayLaw.of_moves {s t : State} (h : ReplayLaw s) (hm : Moves s.live t.live)
    (hh : t.history.records = s.history.records) (ht : t.tables.study.interval = s.tables.study.interval) :
    ReplayLaw t := by
  rw [replayLaw_iff, hh, ht]
  exact hm.replayed ((replayLaw_iff s).1 h)

theorem takeRequest_replayLaw {rule : List Byte → State → Response × State}
    (h : ∀ b u, ReplayBase u → ReplayLaw (rule b u).2) (p : PortId) (code : Nat) {s : State} (hs : ReplayBase s) :
    ReplayLaw (takeRequest p code rule s) := by
  rcases takeRequest_cases p code rule s with e | ⟨tag, body, -, e⟩ <;> rw [e]
  · exact hs.replay
  · obtain ⟨h1, h2, h3, h4, h5⟩ := hs
    exact h body (s.popRequest p) ⟨h1, h2, h3, h4, h5⟩

/-- R5, R31: the tables are written in SETUP alone, where nothing stands to agree with the store. -/
theorem tableWrite_replayLaw (w : Tables → Option (RespBody × Tables)) (b : List Byte) {s : State}
    (hs : ReplayBase s) : ReplayLaw (tableWrite w b s).2 := by
  by_cases hp : s.history.phase = .setup
  · obtain ⟨-, -, -, -, hv, hc⟩ := hs.setup hp
    refine replayLaw_of_empty ?_ ?_ <;> rw [tableWrite_apart]
    · exact hv
    · exact hc
  · rw [tableWrite, if_pos hp]
    exact hs.replay

theorem setEventZero_replayLaw (t : Nat) (b : List Byte) {s : State} (hs : ReplayLaw s) :
    ReplayLaw (setEventZero t b s).2 := by
  unfold setEventZero
  split_ifs <;> exact hs

theorem beginCollection_replayLaw (b : List Byte) {s : State} (hs : ReplayLaw s) :
    ReplayLaw (beginCollection b s).2 := by
  unfold beginCollection
  split_ifs
  · exact hs
  · split <;> exact hs

theorem clearRequest_replayLaw (b : List Byte) {s : State} (hs : ReplayLaw s) : ReplayLaw (clearRequest b s).2 := by
  unfold clearRequest
  split_ifs with hopen
  · exact hs
  · refine replayLaw_of_empty (fun i => ?_) (clearHistory_free hopen)
    show ((CheckpointTable.clear _).entries.get i).valid = false
    simp [CheckpointTable.clear]

theorem sealRequest_replayLaw (b : List Byte) {s : State} (hs : ReplayBase s) : ReplayLaw (sealRequest b s).2 := by
  unfold sealRequest
  split_ifs
  · exact hs.replay
  · exact hs.replay
  · rw [replayLaw_iff, sealHistory_tables]
    exact sealHistory_replayed hs.store hs.past hs.replayed

theorem handOver_replayLaw (g : QueuedSegment) (x : Proc) {s : State} (hs : ReplayBase s) :
    ReplayLaw (handOver g x s) := by
  unfold handOver
  split_ifs with hid
  · exact hs.replay.of_moves (failSegment_moves g _ _ s) rfl rfl
  · exact hs.replay.of_moves (failSegment_moves g _ _ s) rfl rfl
  · rw [replayLaw_iff, commitSegment_tables]
    exact commitSegment_replayed hs.store hs.past hs.replayed g (by simpa using hid)

theorem segmentCommit_replayLaw {s : State} (hs : ReplayBase s) :
    ∃ t, execSegmentCommit s = .next t ∧ ReplayLaw t := by
  refine ⟨_, rfl, ?_⟩
  split_ifs
  · exact hs.replay
  · split
    · exact handOver_replayLaw _ _ hs
    · exact hs.replay

theorem segmentFailure_replayLaw {s : State} (hs : ReplayLaw s) :
    ∃ t, execSegmentFailure s = .next t ∧ ReplayLaw t := by
  refine ⟨_, rfl, ?_⟩
  split_ifs
  · exact hs
  · split
    · exact hs.of_moves (failSegment_moves _ _ _ s) rfl rfl
    · exact hs

/-- R29: the interval is at least one second. -/
theorem TablesLaw.interval_pos {s : State} (h : TablesLaw s) : 1 ≤ s.env.tables.study.intervalMicros := by
  obtain ⟨-, -, -, -, -, -, hi, -⟩ := h.1
  show 1 ≤ s.tables.study.interval * 1000000
  omega

theorem execStepRead_replayLaw (k : Slot) {s : State} (hs : ReplayBase s) :
    ∃ t, execStepRead k s = .next t ∧ ReplayLaw t := by
  refine ⟨_, rfl, ?_⟩
  split_ifs
  · exact hs.replay
  · exact (replayLaw_iff _).2
      (stepRead_replayed (e := s.env) hs.store.2.1 hs.tables.interval_pos k (hs.past k) hs.replayed)

theorem execRebuildRead_replayLaw (k : Slot) {s : State} (hs : ReplayBase s) :
    ∃ t, execRebuildRead k s = .next t ∧ ReplayLaw t := by
  refine ⟨_, rfl, ?_⟩
  split_ifs
  · exact hs.replay
  · exact (replayLaw_iff _).2 (rebuildRead_replayed (e := s.env) hs.store.2.1 hs.tables.interval_pos k hs.replayed)

theorem reset_replayLaw {s : State} (h : s.live = State.reset.live) : ReplayLaw s := by
  refine replayLaw_of_empty (fun i => ?_) (fun k => ?_) <;> rw [h]
  · simp [State.reset, Live.reset, CheckpointTable.reset, Checkpoint.reset]
  · exact reset_free k

/-- A command that makes moves alone and leaves the store and the tables. -/
theorem exec_moves_replayLaw {i : Instr} (ha : Applies i = false) (hw : Writes i = false) {s : State}
    (hs : ReplayLaw s) : ∃ t, exec i s = .next t ∧ ReplayLaw t := by
  obtain ⟨t, he, hm⟩ := exec_moves ha s
  obtain ⟨u, hu, hh, ht, -⟩ := exec_spares hw s
  obtain rfl : t = u := Host.Outcome.next.inj (he.symm.trans hu)
  exact ⟨t, he, hs.of_moves hm (by rw [hh]) (by rw [ht])⟩

/-- Every command keeps the agreement. -/
theorem exec_replayLaw (i : Instr) {s : State} (hs : ReplayBase s) : ∃ t, exec i s = .next t ∧ ReplayLaw t := by
  have requests : ∀ {rule : List Byte → State → Response × State} (p : PortId) (code : Nat),
      (∀ b u, ReplayBase u → ReplayLaw (rule b u).2) → ReplayLaw (takeRequest p code rule s) := fun p code h =>
    takeRequest_replayLaw h p code hs
  cases i with
  | powerOn => exact ⟨_, rfl, reset_replayLaw rfl⟩
  | resetRelease =>
    refine ⟨_, rfl, ?_⟩
    split_ifs
    · exact reset_replayLaw rfl
    · exact hs.replay
  | beginCollection p => exact ⟨_, rfl, requests p 3 fun b _ hu => beginCollection_replayLaw b hu.replay⟩
  | sealHistory p => exact ⟨_, rfl, requests p 4 fun b _ hu => sealRequest_replayLaw b hu⟩
  | clearHistory p => exact ⟨_, rfl, requests p 5 fun b _ hu => clearRequest_replayLaw b hu.replay⟩
  | setPoint p first xs => exact ⟨_, rfl, requests p 8 fun b _ hu => tableWrite_replayLaw _ b hu⟩
  | setRecorder p r e u o d f => exact ⟨_, rfl, requests p 9 fun b _ hu => tableWrite_replayLaw _ b hu⟩
  | setMapBlock p r b x => exact ⟨_, rfl, requests p 10 fun b _ hu => tableWrite_replayLaw _ b hu⟩
  | setStudy p e w t v => exact ⟨_, rfl, requests p 11 fun b _ hu => tableWrite_replayLaw _ b hu⟩
  | setEventZero p t => exact ⟨_, rfl, requests p 12 fun b _ hu => setEventZero_replayLaw t b hu.replay⟩
  | loadSegment p =>
    exact ⟨_, rfl, requests p 13 fun b u hu => hu.replay.of_moves (loadSegment_moves p b u)
      (by rw [loadSegment_history]) (by rw [loadSegment_tables])⟩
  | cancelSegment p r q =>
    exact ⟨_, rfl, requests p 14 fun b u hu => hu.replay.of_moves (cancelSegment_moves p r q b u)
      (by rw [cancelSegment_history]) (by rw [cancelSegment_tables])⟩
  | openCursor p =>
    exact ⟨_, rfl, requests p 18 fun b u hu => hu.replay.of_moves (openCursor_moves p b u)
      (by rw [openCursor_history]) (by rw [openCursor_tables])⟩
  | segmentCommit => exact segmentCommit_replayLaw hs
  | segmentFailure => exact segmentFailure_replayLaw hs.replay
  | stepRead k => exact execStepRead_replayLaw k hs
  | rebuildRead k => exact execRebuildRead_replayLaw k hs
  | _ => exact exec_moves_replayLaw rfl rfl hs.replay

theorem step_replayLaw {s t : State} (hs : ReplayBase s) (h : step s = .next t) : ReplayLaw t := by
  rcases step_cases h with rfl | ⟨i, rest, h⟩
  · obtain ⟨hh, ht, -⟩ := idle_spares s
    exact hs.replay.of_moves (idle_moves s) (by rw [hh]) (by rw [ht])
  · obtain ⟨h1, h2, h3, h4, h5⟩ := hs
    obtain ⟨u, hu, hl⟩ := exec_replayLaw i (s := { s with pending := rest }) ⟨h1, h2, h3, h4, h5⟩
    exact Host.Outcome.next.inj (hu.symm.trans h) ▸ hl

/-- Settles O60: a step is made of moves of the cursors, or it applies a record to an image, takes a commit, or empties the
live part; a move keeps a cursor lawful and its image in agreement with the store, and so do the others. -/
theorem stepKeepsCursorLaw : Obligations.StepKeepsCursorLaw := by
  unfold Obligations.StepKeepsCursorLaw
  refine ⟨fun s t hs h => step_cursorLaw hs h, fun s t h1 h2 h3 h4 h5 h => step_replayLaw ⟨h1, h2, h3, h4, h5⟩ h,
    reset_replayLaw rfl, fun k c hc => nomatch (reset_free k).symm.trans hc⟩

end Sys2Proof.Machine
end

section
/-!
PROOF. What the use of an entry and the reach of a commit do to the Checkpoint Table (R84, R88, R91): O36.
-/

namespace Sys2Proof.Machine

open Sys2Proof

/-- R91: the choice where it finds no entry. -/
theorem choose_of_best_none {t : CheckpointTable} {limit : Nat} (h : t.best limit = none) :
    t.choose limit = (none, t) := by
  unfold CheckpointTable.choose
  rw [h]

/-- R91: the choice where it finds one. -/
theorem choose_of_best_some {t : CheckpointTable} {limit : Nat} {i : CkptId} (h : t.best limit = some i) :
    t.choose limit = (some (t.entries.get i), t.use i) := by
  unfold CheckpointTable.choose
  rw [h]

/-- R84: the use of an entry advances the counter of the table it finds. -/
@[simp]
theorem counter_use (t : CheckpointTable) (i : CkptId) : (t.use i).counter = t.ready.counter + 1 := rfl

theorem use_entry_same (t : CheckpointTable) (i : CkptId) :
    (t.use i).entries.get i = { t.entries.get i with stamp := t.ready.counter + 1 } := by
  rw [use_entry, if_pos rfl]

theorem use_entry_other (t : CheckpointTable) {i j : CkptId} (h : j ≠ i) :
    (t.use i).entries.get j = t.ready.entries.get j := by
  rw [use_entry, if_neg h]
  exact (ready_entry t j).symm

/-- R88: a reach changes the validity of an entry alone. -/
theorem invalidate_entry (t : CheckpointTable) (reach : Nat) (i : CkptId) :
    (t.invalidate (some reach)).entries.get i =
      { t.entries.get i with
        valid := (t.entries.get i).valid && decide ((t.entries.get i).instant < reach) } := by
  simp [CheckpointTable.invalidate]

/-- Settles O36: a choice is the entry `best` finds, used; a reach is read entry by entry. -/
theorem checkpointChoiceAndReach : Obligations.CheckpointChoiceAndReach := by
  unfold Obligations.CheckpointChoiceAndReach
  refine ⟨fun t limit => ?_, fun t reach => ⟨rfl, rfl, fun i => ?_⟩⟩
  · cases hb : t.best limit with
    | none =>
      rw [choose_of_best_none hb]
      exact ⟨⟨fun _ i hv => not_le.1 fun hle => best_none hb i ⟨hv, hle⟩, fun _ => rfl⟩, fun _ => rfl,
        fun x hx => nomatch hx⟩
    | some i =>
      obtain ⟨⟨hv, hle⟩, hmax⟩ := best_some hb
      rw [choose_of_best_some hb]
      refine ⟨⟨fun e => (nomatch e), fun h => absurd hle (not_le.2 (h i hv))⟩, fun e => (nomatch e), fun x hx => ?_⟩
      obtain rfl := Option.some.inj hx
      refine ⟨⟨t.ready, i, ready_advancing t, rfl, counter_use t i, use_entry_same t i, fun j => use_entry_other t⟩,
        hv, hle, fun j hvj hj => hmax j ⟨hvj, hj⟩, fun j => ?_⟩
      rw [SameButStamps.use t i j]
      exact ⟨rfl, rfl, rfl, rfl⟩
  · rw [invalidate_entry]
    exact ⟨by simp, rfl, rfl, rfl, rfl⟩

end Sys2Proof.Machine
end

section
/-!
PROOF. SEEK, PLAY and STEP (R107, R109, R110): O35, O37, O38.
-/

namespace Sys2Proof.Machine

open Sys2Proof

/-! ### A request whose rule reaches one cursor -/

/-- R100: the cursor that a request reaches, as its rule finds it. -/
theorem cursor_of_reaches {s : State} {p : PortId} {slot : Nat} {body : List Byte} {k : Slot} {c : Cursor}
    (hr : Reaches s p slot body k c) : (s.popRequest p).live.cursor k = some c ∧ c.owner = p := by
  obtain ⟨-, -, hc, ho⟩ := hr
  exact ⟨by rw [cursor_popRequest]; exact hc, ho⟩

/-- R100, R176: what a request on a cursor leaves when its rule changes the live part at that cursor and its owner's port
alone. -/
theorem accepted_leaves {s : State} {p : PortId} {code tag slot : Nat} {body : List Byte} {k : Slot} {c : Cursor}
    (h : Taken s p code tag body) (hr : Reaches s p slot body k c) {rule : Slot → Cursor → State → Response × State}
    {r : Response} {l : Live} (e : rule k c (s.popRequest p) = (r, (s.popRequest p).withLive l))
    (hl : Local k p (s.popRequest p).live l) :
    ∃ t, takeRequest p code (cursorRequest p slot rule) s = t ∧ Responded t p tag r ∧ SameStore s t ∧
      OthersSame s t k p ∧ t.live.cursor k = l.cursor k ∧ t.live.checkpoints = l.checkpoints ∧
      t.live.port p = { l.port p with response := (t.live.port p).response } := by
  refine ⟨_, takeRequest_reaches h hr rule, ?_⟩
  rw [e]
  exact ⟨responded_answered .., ⟨rfl, rfl, rfl, rfl, rfl, rfl, rfl, rfl⟩, hl.othersSame, rfl, rfl,
    port_answered_response ..⟩

theorem snapshotting_of_none {c : Cursor} (h : c.snap = none) : c.snapshotting = false := by
  simp [Cursor.snapshotting, h]

theorem rebuilding_iff (c : Cursor) :
    rebuilding c = true ↔ c.op = .seekDone ∨ c.op = .rebaseDone ∨ ∃ r, c.op = .rebuild r := by
  unfold rebuilding
  cases c.op <;> simp

theorem bound_iff (c : Cursor) : c.bound = true ↔ c.options.pacing = .bound := by simp [Cursor.bound]

theorem flushed_nextNumber (o : Options) (b : Buffer) : (b.flushed o).nextNumber = b.nextNumber := by
  unfold Buffer.flushed
  split_ifs <;> rfl

/-! ### SEEK (R107) -/

/-- R107: SEEK is taken of a settled cursor, of one that seeks and of one that rebases. -/
theorem seekable_of {c : Cursor} (hs : c.snap = none)
    (h : c.state = .idle ∨ c.state = .held ∨ c.state = .ended ∨ c.state = .unsettled ∨ c.state = .seeking ∨
      (c.state = .running ∧ rebuilding c = true)) : c.seekable = true := by
  unfold Cursor.seekable
  rw [snapshotting_of_none hs]
  rcases h with h | h | h | h | h | ⟨h, hr⟩ <;> simp [*]

theorem seek_accepted {c : Cursor} (hs : c.seekable = true) {target : Nat} (ht : target ≤ 2 ^ 40 - 1) (chain : Bool)
    (k : Slot) (s : State) :
    seek target chain k c s = (Response.plain .accepted, s.withLive
      (startSeek s.env k target chain (s.live.setCursor k { c with pendingHold := none, trailFrozen := false }))) := by
  have : ¬Config.maxGrid < target := not_lt.2 ht
  simp [seek, hs, this]

/-- Settles O35: SEEK is the start of a seek of the cursor without its pending hold and with its trail unfrozen. -/
theorem seekStartsRebuild : Obligations.SeekStartsRebuild := by
  unfold Obligations.SeekStartsRebuild
  intro s p tag slot target chain body k c htaken hr hsnap hstate htarget
  obtain ⟨hc, hown⟩ := cursor_of_reaches hr
  have hseek : c.seekable = true := by
    refine seekable_of hsnap ?_
    rw [rebuilding_iff]
    tauto
  let x : Cursor := { c with pendingHold := none, trailFrozen := false }
  have hx := cursor_setCursor_same (s.popRequest p).live k x
  obtain ⟨t, ht, h1, h2, h3, h4, h5, -⟩ := accepted_leaves htaken hr (seek_accepted hseek htarget chain k _)
    ((Local.setCursor k p _ x).trans (hown ▸ startSeek_local s.env hx target chain))
  obtain ⟨d, hd, ⟨himg, hpos, hover, htrail, hop, hrec⟩, hst, hchain, -, howner, hopt, hwatch, hprobes, -, hfrozen,
    hhold, hsteps, -, -, hbuf, hcp, -⟩ := startSeek_cursor s.env hx target chain
  have hwait : d.buffer.waiting = none ∧ d.buffer.nextNumber = c.buffer.nextNumber := by
    rw [hbuf]
    split_ifs
    · exact ⟨rfl, rfl⟩
    · exact ⟨flushed_waiting .., flushed_nextNumber ..⟩
  exact ⟨t, d, congrArg Host.Outcome.next ht, h1, h2, h3, h4.trans hd, howner, hopt, hwatch, hprobes, hst, hchain, hhold,
    hsteps, htrail, hfrozen, hover, hwait.1, hwait.2, h5.trans hcp, himg, hpos, hop, hrec⟩

end Sys2Proof.Machine
end

section
/-!
PROOF. PLAY and STEP (R109, R110): O37, O38.
-/

namespace Sys2Proof.Machine

open Sys2Proof

/-! ### How a HELD cursor begins to run (R109, R110, R122) -/

/-- R122, R170: a rebase starts toward the cursor's instant, and the LAGGING test is made. -/
theorem startRebase_begins (e : Env) {k : Slot} {l : Live} {c : Cursor} (h : l.cursor k = some c) :
    ∃ b : Bool, startRebase e k l =
        ({ l with checkpoints := (l.checkpoints.choose (c.instant.getD 0)).2 } : Live).setCursor k
          { c.startRebuild .rebase (c.instant.getD 0) (l.checkpoints.choose (c.instant.getD 0)).1 with lagging := b } ∧
      RebuildBegun l.checkpoints .rebase (c.instant.getD 0) c.overtaken
        { c.startRebuild .rebase (c.instant.getD 0) (l.checkpoints.choose (c.instant.getD 0)).1 with lagging := b } ∧
      LagTested e.history.records e.clock.instant
        (c.startRebuild .rebase (c.instant.getD 0) (l.checkpoints.choose (c.instant.getD 0)).1) b := by
  obtain ⟨b, hb, ht⟩ :=
    lagTest_after e (c.startRebuild .rebase (c.instant.getD 0) (l.checkpoints.choose (c.instant.getD 0)).1)
  refine ⟨b, ?_, rebuildBegun_start l.checkpoints c .rebase _ b, ht⟩
  unfold startRebase
  rw [withCursor_some _ h, startRebuild_eq e h, hb]

/-- R109, R110: a cursor as it begins to run. -/
def Cursor.begun (c : Cursor) (underStep : Bool) (steps : Nat) : Cursor :=
  { c with
    trailFrozen := false, armedFrom := none, state := .running, op := .none, stepsLeft := steps, underStep := underStep
    parked := false, redo := false }

theorem beginPlay_steps {e : Env} {k : Slot} {l : Live} {c : Cursor} (h : l.cursor k = some c)
    (hb : c.bound = true → c.instant = some e.clock.instant) (ho : c.overtaken = none) (u : Bool) (n : Nat) :
    beginPlay e k u n l = l.setCursor k (c.begun u n) := by
  unfold beginPlay
  rw [withCursor_some _ h, if_neg (fun g => g.2 (hb g.1)), if_neg (by simp [ho])]
  rfl

/-- R122, R170: an overtaken cursor begins with a rebase toward its instant. -/
theorem beginPlay_rebases {e : Env} {k : Slot} {l : Live} {c : Cursor} (h : l.cursor k = some c)
    (hb : c.bound = true → c.instant = some e.clock.instant) (ho : c.overtaken ≠ none) (u : Bool) (n : Nat) :
    ∃ d, (beginPlay e k u n l).cursor k = some d ∧
      RebuildBegun l.checkpoints .rebase (c.instant.getD 0) c.overtaken d ∧
      LagTestedAfter e.history.records e.clock.instant c d ∧ d.owner = c.owner ∧ d.options = c.options ∧
      d.watches = c.watches ∧ d.probes = c.probes ∧ d.state = .running ∧ d.trailFrozen = false ∧ d.stepsLeft = n ∧
      d.underStep = u ∧ (beginPlay e k u n l).checkpoints = (l.checkpoints.choose (c.instant.getD 0)).2 := by
  have hx := cursor_setCursor_same l k (c.begun u n)
  obtain ⟨b, hstart, hbegun, ht⟩ := startRebase_begins e hx
  have hplay : beginPlay e k u n l = startRebase e k (l.setCursor k (c.begun u n)) := by
    unfold beginPlay
    rw [withCursor_some _ h, if_neg (fun g => g.2 (hb g.1)), if_pos (Option.isSome_iff_ne_none.2 ho)]
    rfl
  rw [hplay, hstart]
  exact ⟨_, cursor_setCursor_same _ _ _, hbegun, ht, rfl, rfl, rfl, rfl, rfl, rfl, rfl, rfl, rfl⟩

/-- R109: a BOUND cursor that stands elsewhere than the clock begins with a chained seek. -/
theorem beginPlay_seeks {e : Env} {k : Slot} {l : Live} {c : Cursor} (h : l.cursor k = some c) (hb : c.bound = true)
    (hi : c.instant ≠ some e.clock.instant) (u : Bool) (n : Nat) :
    beginPlay e k u n l =
      startSeek e k e.clock.instant true (l.setCursor k { c with trailFrozen := false, armedFrom := none }) := by
  unfold beginPlay
  rw [withCursor_some _ h, if_pos ⟨hb, hi⟩]

/-- R170: a FREE_RUN cursor keeps LAGGING as it stood. -/
theorem LagTestedAfter.of_freeRun {rs : List Record} {now : Nat} {c d : Cursor} (h : LagTestedAfter rs now c d)
    (hp : d.options.pacing = .freeRun) : d.lagging = c.lagging := by
  have hb : d.options.pacing ≠ .bound := by simp [hp]
  exact Bool.eq_iff_iff.2 (h.trans ⟨fun g => g.resolve_right fun x => hb x.2.1, .inl⟩)

/-! ### PLAY (R109) -/

/-- R109: PLAY is taken of a HELD cursor, and a restart of a FREE_RUN cursor that runs and does not rebase. -/
theorem playRefusal_none {c : Cursor} {restart : Bool} (hs : c.snap = none)
    (h : c.state = .held ∨ c.state = .running ∧ restart = true ∧ c.bound = false ∧ rebuilding c = false) :
    c.playRefusal restart = none := by
  unfold Cursor.playRefusal
  rw [snapshotting_of_none hs]
  rcases h with h | ⟨h, hr, hb, hn⟩ <;> simp [*]

theorem play_accepted {c : Cursor} {restart : Bool} (h : c.playRefusal restart = none) (k : Slot) (s : State) :
    play restart k c s = (Response.plain .accepted, s.withLive (playAccepted s.env restart k c s.live)) := by
  unfold play
  rw [h]

/-- R109: PLAY of a cursor that stands where it plays from begins to run. -/
theorem playAccepted_begins (e : Env) {restart : Bool} {c : Cursor} (hs : c.state = .held)
    (hr : c.options.pacing = .freeRun → restart = false) (k : Slot) (l : Live) :
    playAccepted e restart k c l = beginPlay e k false 0 (l.setCursor k { c with trailFrozen := false }) := by
  have hfree : ¬(c.state = .running ∨ restart = true ∧ (!c.bound) = true) := by
    rintro (g | ⟨g, hb⟩)
    · simp [hs] at g
    · cases hp : c.options.pacing with
      | freeRun => simp [hr hp] at g
      | bound => simp [(bound_iff c).2 hp] at hb
  unfold playAccepted
  rw [if_neg hfree]

/-- R109: a FREE_RUN restart is a chained seek to the window start. -/
theorem playAccepted_restarts (e : Env) {c : Cursor} (hp : c.options.pacing = .freeRun) (k : Slot) (l : Live) :
    playAccepted e true k c l =
      startSeek e k c.options.windowStart true (l.setCursor k { c with trailFrozen := false }) := by
  have hb : c.bound = false := by simp [Cursor.bound, hp]
  unfold playAccepted
  rw [if_pos (.inr ⟨rfl, by simp [hb]⟩)]

theorem playAccepted_local (e : Env) {restart : Bool} {k : Slot} {c : Cursor} {l : Live} :
    Local k c.owner l (playAccepted e restart k c l) := by
  let x : Cursor := { c with trailFrozen := false }
  have hx := cursor_setCursor_same l k x
  unfold playAccepted
  refine (Local.setCursor k c.owner l x).trans ?_
  split_ifs
  · exact startSeek_local e hx _ _
  · exact beginPlay_local e hx _ _

/-- R109: PLAY that seeks is a chained seek of the cursor with its trail unfrozen. -/
theorem playAccepted_seeks (e : Env) {restart : Bool} {c : Cursor} {target : Nat}
    (h : (c.options.pacing = .freeRun ∧ restart = true ∧ target = c.options.windowStart) ∨
      (c.options.pacing = .bound ∧ c.state = .held ∧ target = e.clock.instant ∧ c.instant ≠ some e.clock.instant))
    (k : Slot) (l : Live) :
    ∃ (m : Live) (x : Cursor), playAccepted e restart k c l = startSeek e k target true m ∧ m.cursor k = some x ∧
      m.checkpoints = l.checkpoints ∧ x.owner = c.owner ∧ x.options = c.options ∧ x.watches = c.watches ∧
      x.probes = c.probes ∧ x.trailFrozen = false ∧ x.state = c.state ∧ x.buffer = c.buffer := by
  rcases h with ⟨hp, rfl, rfl⟩ | ⟨hp, hs, rfl, hi⟩
  · exact ⟨_, _, playAccepted_restarts e hp k l, cursor_setCursor_same _ _ _, rfl, rfl, rfl, rfl, rfl, rfl, rfl, rfl⟩
  · refine ⟨_, _, (playAccepted_begins e hs (fun g => by simp [hp] at g) k l).trans
      (beginPlay_seeks (c := { c with trailFrozen := false }) (cursor_setCursor_same _ _ _) ((bound_iff c).2 hp) hi
        false 0), cursor_setCursor_same _ _ _, rfl,
      rfl, rfl, rfl, rfl, rfl, rfl, rfl⟩

/-- Settles O37: PLAY begins to run as `beginPlay` does, or starts a chained seek. -/
theorem playRunsOrSeeks : Obligations.PlayRunsOrSeeks := by
  unfold Obligations.PlayRunsOrSeeks
  refine ⟨fun s p tag slot restart body k c htaken hr hheld hsnap hfree hbound => ?_,
    fun s p tag slot restart body k c target htaken hr hsnap hcase => ?_⟩
  · obtain ⟨-, hown⟩ := cursor_of_reaches hr
    obtain ⟨t, ht, h1, h2, h3, h4, h5, -⟩ := accepted_leaves htaken hr
      (play_accepted (playRefusal_none hsnap (.inl hheld)) k _) (hown ▸ playAccepted_local _)
    rw [playAccepted_begins _ hheld hfree] at h4 h5
    have hx := cursor_setCursor_same (s.popRequest p).live k { c with trailFrozen := false }
    have hb : c.bound = true → c.instant = some (s.popRequest p).env.clock.instant := fun g => hbound ((bound_iff c).1 g)
    by_cases ho : c.overtaken = none
    · rw [beginPlay_steps hx hb ho] at h4 h5
      exact ⟨t, _, congrArg Host.Outcome.next ht, h1, h2, h3, h4.trans (cursor_setCursor_same _ _ _), rfl, rfl, rfl, rfl,
        rfl, rfl, rfl, fun _ => ⟨rfl, rfl, rfl, rfl, rfl, rfl, h5⟩, fun g => absurd ho g⟩
    · obtain ⟨d, hd, hbegun, hlag, howner, hopt, hwatch, hprobes, hst, hfrozen, hsteps, -, hcp⟩ :=
        beginPlay_rebases hx hb ho false 0
      exact ⟨t, d, congrArg Host.Outcome.next ht, h1, h2, h3, h4.trans hd, howner, hopt, hwatch, hprobes, hst, hfrozen,
        hsteps, fun g => absurd g ho, fun _ => ⟨hbegun, hlag, h5.trans hcp⟩⟩
  · obtain ⟨-, hown⟩ := cursor_of_reaches hr
    have htaken' : c.playRefusal restart = none := by
      refine playRefusal_none hsnap ?_
      rcases hcase with ⟨hp, hres, -, h | ⟨h, g1, g2, g3⟩⟩ | ⟨-, h, -⟩
      · exact .inl h
      · refine .inr ⟨h, hres, by simp [Cursor.bound, hp], ?_⟩
        rw [← Bool.not_eq_true, rebuilding_iff]
        simp [g1, g2, g3]
      · exact .inl h
    have hns : c.state ≠ .seeking := by
      rcases hcase with ⟨-, -, -, h | ⟨h, -⟩⟩ | ⟨-, h, -⟩ <;> simp [h]
    obtain ⟨t, ht, h1, h2, h3, h4, h5, -⟩ := accepted_leaves htaken hr (play_accepted htaken' k _)
      (hown ▸ playAccepted_local _)
    obtain ⟨m, x, hm, hx, hcp, g1, g2, g3, g4, g5, g6, g7⟩ := playAccepted_seeks (s.popRequest p).env
      (hcase.imp (fun g => ⟨g.1, g.2.1, g.2.2.1⟩) id) k (s.popRequest p).live
    rw [hm] at h4 h5
    obtain ⟨d, hd, hbegun, hst, hchain, -, howner, hopt, hwatch, hprobes, -, hfrozen, -, -, -, -, hbuf, hchosen, -⟩ :=
      startSeek_cursor (s.popRequest p).env hx target true
    rw [hcp] at hbegun hchosen
    rw [if_neg (g6 ▸ hns), g2, g7] at hbuf
    exact ⟨t, d, congrArg Host.Outcome.next ht, h1, h2, h3, h4.trans hd, howner.trans g1, hopt.trans g2, hwatch.trans g3,
      hprobes.trans g4, hst, hchain, hfrozen.trans g5, hbegun, h5.trans hchosen, hbuf⟩

/-! ### STEP (R110) -/

theorem settledRefusal_of_held {c : Cursor} (hs : c.snap = none) (h : c.state = .held) : c.settledRefusal = none := by
  simp [Cursor.settledRefusal, snapshotting_of_none hs, h]

theorem stepRequest_accepted {c : Cursor} {count : Nat} (h : c.settledRefusal = none)
    (hc : ¬(c.bound = true ∨ count = 0 ∨ 4096 < count)) (k : Slot) (s : State) :
    stepRequest count k c s = (Response.plain .accepted, s.withLive (beginPlay s.env k true count s.live)) := by
  unfold stepRequest
  rw [h]
  exact if_neg hc

theorem stepRequest_badArgument {c : Cursor} {count : Nat} (h : c.settledRefusal = none)
    (hc : c.bound = true ∨ count = 0 ∨ 4096 < count) (k : Slot) (s : State) :
    stepRequest count k c s = (Response.plain .badArgument, s) := by
  unfold stepRequest
  rw [h]
  exact if_pos hc

/-- Settles O38: STEP begins to run as `beginPlay` does, with the count. -/
theorem stepRunsCount : Obligations.StepRunsCount := by
  unfold Obligations.StepRunsCount
  intro s p tag slot count body k c htaken hr hheld hsnap
  obtain ⟨hc, hown⟩ := cursor_of_reaches hr
  have href := settledRefusal_of_held hsnap hheld
  refine ⟨fun hfree hlow hhigh => ?_, fun hbad => ?_⟩
  · have hb : c.bound = false := by simp [Cursor.bound, hfree]
    have hstands : c.bound = true → c.instant = some (s.popRequest p).env.clock.instant := fun g => by simp [hb] at g
    obtain ⟨t, ht, h1, h2, h3, h4, h5, -⟩ := accepted_leaves htaken hr
      (stepRequest_accepted href (count := count) (by simp only [hb, Bool.false_eq_true, false_or]; omega) k _)
      (hown ▸ beginPlay_local _ hc true count)
    by_cases ho : c.overtaken = none
    · rw [beginPlay_steps hc hstands ho] at h4
      exact ⟨t, _, congrArg Host.Outcome.next ht, h1, h2, h3, h4.trans (cursor_setCursor_same _ _ _), rfl, rfl, rfl, rfl,
        rfl, rfl, rfl, rfl, fun _ => ⟨rfl, rfl⟩, fun g => absurd ho g⟩
    · obtain ⟨d, hd, hbegun, hlag, howner, hopt, hwatch, hprobes, hst, hfrozen, hsteps, hunder, hcp⟩ :=
        beginPlay_rebases hc hstands ho true count
      exact ⟨t, d, congrArg Host.Outcome.next ht, h1, h2, h3, h4.trans hd, howner, hopt, hwatch, hprobes, hst, hsteps,
        hunder, hfrozen, fun g => absurd g ho,
        fun _ => ⟨hbegun, hlag.of_freeRun (hopt ▸ hfree), h5.trans hcp⟩⟩
  · have := takeRequest_reaches htaken hr (stepRequest count)
    rw [stepRequest_badArgument href (hbad.imp_left (bound_iff c).2)] at this
    exact congrArg Host.Outcome.next this

end Sys2Proof.Machine
end

section
/-!
PROOF. SNAPSHOT (R123, R134): O42.
-/

namespace Sys2Proof.Machine

open Sys2Proof

/-- R134: a flush with nothing to complete changes nothing. -/
theorem flush_idle {k : Slot} {l : Live} {c : Cursor} (h : l.cursor k = some c)
    (hb : c.options.mode = .push ∨ c.buffer.writing = []) : flush k l = l := by
  unfold flush
  rw [withCursor_some _ h, if_pos hb]

/-- R134, R135: a flush completes the batch being written, and tells it. -/
theorem flush_completes {k : Slot} {l : Live} {c : Cursor} {p : PortId} (h : l.cursor k = some c) (hp : c.owner = p)
    (hm : c.options.mode = .notice) (hw : c.buffer.writing ≠ []) :
    flush k l = (l.setCursor k { c with buffer := c.buffer.complete c.options }).notify p
      (.batchReady k (c.buffer.batch c.options).half c.buffer.writing.length (c.buffer.batch c.options).first) := by
  subst hp
  unfold flush
  rw [withCursor_some _ h, if_neg (by simp [hm, hw])]
  rfl

theorem mem_snapPoints {t : Tables} {first last : Nat} {station : Option Nat} {q : PointId} :
    q ∈ snapPoints t first last station ↔ first ≤ q.val ∧ q.val ≤ last ∧ (t.points.get q).enabled = true ∧
      ∀ x ∈ station, (t.points.get q).station = x := by
  have hmem : q ∈ List.finRange 4096 := List.mem_finRange q
  unfold snapPoints
  rw [List.mem_filter]
  cases station <;> simp [hmem, and_assoc]

theorem snapPoints_ascending (t : Tables) (first last : Nat) (station : Option Nat) :
    (snapPoints t first last station).Pairwise fun a b => a.val < b.val :=
  (List.pairwise_lt_finRange 4096).filter _

/-- R170: a cursor that does not run keeps LAGGING as it stood. -/
theorem LagTested.of_ne {rs : List Record} {now : Nat} {c : Cursor} {b : Bool} (h : LagTested rs now c b)
    (hs : c.state ≠ .running) : b = c.lagging :=
  Bool.eq_iff_iff.2 (h.trans ⟨fun g => g.resolve_right fun x => hs x.1, .inl⟩)

theorem snapshotRefusal_of {c : Cursor} (hs : c.snap = none) (h : c.state = .held ∨ c.state = .ended) :
    c.snapshotRefusal = none := by
  unfold Cursor.snapshotRefusal
  rw [snapshotting_of_none hs]
  rcases h with h | h <;> simp [h]

theorem snapshot_accepted {c : Cursor} (h : c.snapshotRefusal = none) {first last : Nat} {station : Option Nat}
    (hf : first ≤ last ∧ last ≤ 4095 ∧ ∀ x ∈ station, x ≤ 255) (k : Slot) (s : State) :
    snapshot first last station k c s =
      ({ code := .accepted, body := .snapCount (snapPoints s.tables first last station).length },
        s.withLive (snapAccepted s.env k c (snapPoints s.tables first last station) s.live)) := by
  have hfits : ¬(4095 < last ∨ last < first ∨ (station.elim false fun x => decide (255 < x)) = true) := by
    obtain ⟨h1, h2, h3⟩ := hf
    cases station with
    | none => simp [h1, h2]
    | some x => simp [h1, h2, h3 x rfl]
  unfold snapshot
  rw [h]
  exact if_neg hfits

theorem snapshot_badArgument {c : Cursor} (h : c.snapshotRefusal = none) {first last : Nat} {station : Option Nat}
    (hf : ¬(first ≤ last ∧ last ≤ 4095 ∧ ∀ x ∈ station, x ≤ 255)) (k : Slot) (s : State) :
    snapshot first last station k c s = (Response.plain .badArgument, s) := by
  have hfits : 4095 < last ∨ last < first ∨ (station.elim false fun x => decide (255 < x)) = true := by
    cases station with
    | none => simp at hf ⊢; omega
    | some x => simp at hf ⊢; omega
  unfold snapshot
  rw [h]
  exact if_pos hfits

theorem snapAccepted_nil (e : Env) (k : Slot) (c : Cursor) (l : Live) : snapAccepted e k c [] l = flush k l := if_pos rfl

/-- R123: the points counted are left to be written. -/
theorem snapAccepted_opens (e : Env) (k : Slot) {c : Cursor} {todo : List PointId} (ht : todo ≠ [])
    (ho : c.overtaken = none) (l : Live) :
    snapAccepted e k c todo l = l.setCursor k { c with snap := some { todo := todo, opening := false } } := by
  unfold snapAccepted
  rw [if_neg ht, ho]
  rfl

/-- R122, R123: an overtaken cursor rebases first. -/
theorem snapAccepted_rebases (e : Env) (k : Slot) {c : Cursor} {todo : List PointId} (ht : todo ≠ [])
    (ho : c.overtaken ≠ none) (l : Live) :
    snapAccepted e k c todo l =
      startRebase e k (l.setCursor k { c with snap := some { todo := todo, opening := true } }) := by
  unfold snapAccepted
  have := Option.isSome_iff_ne_none.2 ho
  rw [if_neg ht, this]
  rfl

theorem snapAccepted_local (e : Env) {k : Slot} {l : Live} {c : Cursor} (h : l.cursor k = some c) (todo : List PointId) :
    Local k c.owner l (snapAccepted e k c todo l) := by
  unfold snapAccepted
  dsimp only
  split_ifs
  · exact flush_local fun d hd => by rw [h] at hd; cases hd; rfl
  · exact (Local.setCursor k _ l _).trans (startRebase_local e k _ _)
  · exact Local.setCursor k _ l _

/-- Settles O42: an accepted SNAPSHOT flushes where it counts no point, else leaves its points to be written. -/
theorem snapshotCountsPoints : Obligations.SnapshotCountsPoints := by
  unfold Obligations.SnapshotCountsPoints
  intro s p tag slot first last station body k c htaken hr hsnap hstate
  obtain ⟨hc, hown⟩ := cursor_of_reaches hr
  have href := snapshotRefusal_of hsnap hstate
  refine ⟨fun hfits => ?_, fun hfits => ?_⟩
  · have hrule := snapshot_accepted href hfits k (s.popRequest p)
    have hmem : ∀ q, q ∈ snapPoints s.tables first last station ↔ _ := fun q => mem_snapPoints
    have hasc := snapPoints_ascending s.tables first last station
    change _ = (_, (s.popRequest p).withLive
      (snapAccepted s.env k c (snapPoints s.tables first last station) (s.popRequest p).live)) at hrule
    rw [show (s.popRequest p).tables = s.tables from rfl] at hrule
    generalize snapPoints s.tables first last station = points at hrule hmem hasc
    have hreq := takeRequest_reaches htaken hr (snapshot first last station)
    rw [hrule] at hreq
    obtain ⟨t, ht, h1, h2, h3, h4, h5, -⟩ := accepted_leaves htaken hr hrule (hown ▸ snapAccepted_local _ hc points)
    have heq := ht.symm.trans hreq
    refine ⟨t, points, hasc, hmem, congrArg Host.Outcome.next ht, h1, h2, h3, fun ho => ?_, fun hp => ?_,
      fun ho hp => ?_, fun ho hp => ?_⟩
    · by_cases hp : points = []
      · rw [hp, snapAccepted_nil, flush_checkpoints] at h5
        exact h5
      · rw [snapAccepted_opens _ _ hp ho] at h5
        exact h5
    · subst hp
      rw [snapAccepted_nil] at heq
      refine ⟨fun hb => ?_, fun hm hw => ?_⟩
      · rw [flush_idle hc hb] at heq
        exact heq
      · rw [flush_completes hc hown hm hw] at heq
        exact heq
    · rw [snapAccepted_opens _ _ hp ho] at h4
      exact h4.trans (cursor_setCursor_same _ _ _)
    · rw [snapAccepted_rebases _ _ hp ho] at h4 h5
      obtain ⟨b, hstart, hbegun, hlag⟩ := startRebase_begins s.env
        (cursor_setCursor_same (s.popRequest p).live k { c with snap := some { todo := points, opening := true } })
      rw [hstart] at h4 h5
      have hs : c.state ≠ .running := by rcases hstate with h | h <;> simp [h]
      exact ⟨_, h4.trans (cursor_setCursor_same _ _ _), rfl, rfl, hbegun, hlag.of_ne hs, h5⟩
  · have := takeRequest_reaches htaken hr (snapshot first last station)
    rw [snapshot_badArgument href hfits] at this
    exact congrArg Host.Outcome.next this

end Sys2Proof.Machine
end

section
/-!
PROOF. HOLD and STOP (R111, R112): O40.
-/

namespace Sys2Proof.Machine

open Sys2Proof

/-! ### What HOLD and STOP share -/

/-- R111, R112: the rule of HOLD or STOP, named by the pending hold that it sets. -/
def halt : PendingHold → Slot → Cursor → State → Response × State
  | .hold => hold
  | .stop => stop

theorem halt_busy {c : Cursor} (hs : c.snap ≠ none) (h : PendingHold) (k : Slot) (s : State) :
    halt h k c s = (Response.plain .cursorBusy, s) := by
  have : c.snapshotting = true := Option.isSome_iff_ne_none.2 hs
  cases h
  · exact if_pos this
  · exact if_pos this

theorem hold_accepted {c : Cursor} (hs : c.snap = none) (k : Slot) (s : State) :
    hold k c s = (Response.done, s.withLive (holdAccepted s.env k c s.live)) :=
  if_neg (by simp [snapshotting_of_none hs])

theorem stop_accepted {c : Cursor} (hs : c.snap = none) (k : Slot) (s : State) :
    stop k c s = (Response.done, s.withLive (stopAccepted s.env k c s.live)) :=
  if_neg (by simp [snapshotting_of_none hs])

/-- R111, R112: a settled cursor stays as it is. -/
theorem halt_settled {c : Cursor} (hs : c.snap = none)
    (h : c.state = .idle ∨ c.state = .held ∨ c.state = .ended ∨ c.state = .unsettled) (w : PendingHold) (k : Slot)
    (s : State) : halt w k c s = (Response.done, s) := by
  cases w with
  | hold =>
    refine (hold_accepted hs k s).trans ?_
    rcases h with h | h | h | h <;> rw [holdAccepted, h] <;> rfl
  | stop =>
    refine (stop_accepted hs k s).trans ?_
    rcases h with h | h | h | h <;> rw [stopAccepted, h] <;> rfl

/-- R111, R112: a RUNNING cursor that does not rebuild takes the hold at its next step boundary. -/
theorem halt_pends {c : Cursor} (hs : c.snap = none) (h : c.state = .running) (hr : rebuilding c = false)
    (w : PendingHold) (k : Slot) (s : State) :
    halt w k c s = (Response.done, s.withLive (pend s.env w k c s.live)) := by
  cases w with
  | hold =>
    refine (hold_accepted hs k s).trans ?_
    rw [holdAccepted, h]
  | stop =>
    refine (stop_accepted hs k s).trans ?_
    rw [stopAccepted, h, hr]
    rfl

/-- R111, R112: an ARMED cursor returns to its armed-from state. -/
theorem halt_disarms {c : Cursor} (hs : c.snap = none) (h : c.state = .armed) (w : PendingHold) (k : Slot) (s : State) :
    halt w k c s = (Response.done, s.withLive (disarm k c s.live)) := by
  cases w with
  | hold =>
    refine (hold_accepted hs k s).trans ?_
    rw [holdAccepted, h]
  | stop =>
    refine (stop_accepted hs k s).trans ?_
    rw [stopAccepted, h]

/-- R111: HOLD of a SEEKING cursor clears its chain flag. -/
theorem holdAccepted_seeking (e : Env) (k : Slot) {c : Cursor} (h : c.state = .seeking) (l : Live) :
    holdAccepted e k c l = l.setCursor k { c with chain := false } := by
  unfold holdAccepted
  split
  case h_2 => rfl
  all_goals exact absurd (‹c.state = _›.symm.trans h) (by decide)

/-! ### A pending hold (R111) -/

/-- R114: a cursor with an operation in flight, a probe computing or a step to be executed again stays as it is. -/
theorem atBoundary_stays {e : Env} {k : Slot} {l : Live} {c : Cursor} (h : l.cursor k = some c)
    (hb : c.op ≠ .none ∨ (c.probes = [] ∧ c.redo = true) ∨ ∃ q rest, c.probes = q :: rest ∧ q.work ≠ none) :
    atBoundary e k l = l := by
  unfold atBoundary
  rw [withCursor_some _ h]
  by_cases ho : c.state ≠ .running ∨ c.op ≠ .none
  · rw [if_pos ho]
  · rw [if_neg ho]
    rcases hb with g | ⟨hp, hr⟩ | ⟨q, rest, hp, hw⟩
    · exact absurd (.inr g) ho
    · rw [if_neg (by simp [hp]), if_pos hr]
    · have hwork : q.work.isNone = false := by simpa [Option.isSome_iff_ne_none] using hw
      rw [if_pos (by simp [hp])]
      unfold kickProbe
      rw [withCursor_some _ h, hp]
      exact if_neg (by simp [hwork])

/-- R114, R134: a cursor becomes HELD with a flush, and keeps image, instant, trail, watches and mark. -/
theorem becomeHeld_cursor {k : Slot} {l : Live} {c : Cursor} (h : l.cursor k = some c) :
    (becomeHeld k l).cursor k = some
        { c.leaveRunning with
          state := .held, op := .none, pendingHold := none, chain := false, buffer := c.buffer.flushed c.options } ∧
      (becomeHeld k l).checkpoints = l.checkpoints := by
  unfold becomeHeld
  rw [modify_some _ h]
  obtain ⟨h1, -, h3⟩ := flush_flushed (cursor_setCursor_same l k
    { c.leaveRunning with state := .held, op := .none, pendingHold := none, chain := false })
  exact ⟨h1, h3⟩

/-- R111: at a step boundary with no probe a pending hold is taken at once. -/
theorem atBoundary_holds {e : Env} {k : Slot} {l : Live} {c : Cursor} (h : l.cursor k = some c)
    (hs : c.state = .running) (ho : c.op = .none) (hp : c.probes = []) (hr : c.redo = false)
    (hh : c.pendingHold ≠ none) : atBoundary e k l = becomeHeld k l := by
  have hpend : c.pendingHold.isSome = true := Option.isSome_iff_ne_none.2 hh
  unfold atBoundary
  rw [withCursor_some _ h, if_neg (by simp [hs, ho]), if_neg (by simp [hp]), if_neg (by simp [hr]),
    if_pos (.inl hpend)]

theorem pend_local (e : Env) (w : PendingHold) (k : Slot) (c : Cursor) (l : Live) :
    Local k c.owner l (pend e w k c l) :=
  (Local.setCursor k _ l _).trans
    (atBoundary_local e (c := { c with pendingHold := some w }) (cursor_setCursor_same l k _))

/-! ### Disarming (R112) -/

theorem disarm_cursor (k : Slot) (c : Cursor) (l : Live) :
    (disarm k c l).cursor k = some
        { c with
          state := if c.armedFrom = some .held then .held else .idle, armedFrom := none
          buffer := c.buffer.flushed c.options } ∧
      (disarm k c l).checkpoints = l.checkpoints ∧ Local k c.owner l (disarm k c l) := by
  let x : Cursor := { c with state := if c.armedFrom = some .held then .held else .idle, armedFrom := none }
  have hx := cursor_setCursor_same l k x
  obtain ⟨h1, -, h3⟩ := flush_flushed hx
  exact ⟨h1, h3, (Local.setCursor k _ l x).trans (flush_local fun d hd => by rw [hx] at hd; cases hd; rfl)⟩

/-! ### Stopping a rebuild (R112) -/

/-- R112: STOP abandons a seek, and a rebase or wrap in flight. -/
theorem stop_abandons {c : Cursor} (hs : c.snap = none)
    (h : c.state = .seeking ∨ c.state = .running ∧ rebuilding c = true) (k : Slot) (s : State) :
    stop k c s = (Response.done, s.withLive (abandon s.env k s.live)) := by
  rw [stop_accepted hs k s]
  rcases h with h | ⟨h, hr⟩
  · rw [stopAccepted, h]
  · rw [stopAccepted, h, hr]
    rfl

/-- R96, R129: a rebuild abandoned leaves the cursor at its standing instant. -/
theorem abandonRebuild_rebuild {c : Cursor} {r : Rebuild} (h : c.op = .rebuild r) :
    c.abandonRebuild =
      { c with
        instant := some (r.standing.getD 0)
        buffer := { c.buffer with refTime := some (r.standing.getD 0) }
        rebuildRecord := c.rebuildRecord.map fun x => { x with outcome := .abandoned } } := by
  unfold Cursor.abandonRebuild
  rw [h]

theorem abandonRebuild_other {c : Cursor} (h : ∀ r, c.op ≠ .rebuild r) : c.abandonRebuild = c := by
  unfold Cursor.abandonRebuild
  split
  · exact absurd ‹_› (h _)
  · rfl

/-- R96: what an abandonment leaves as it was. -/
theorem abandonRebuild_keeps (c : Cursor) :
    c.abandonRebuild.image = c.image ∧ c.abandonRebuild.position = c.position ∧
      c.abandonRebuild.overtaken = c.overtaken ∧ c.abandonRebuild.watches = c.watches ∧
      c.abandonRebuild.options = c.options ∧ c.abandonRebuild.trail = c.trail := by
  unfold Cursor.abandonRebuild
  split <;> exact ⟨rfl, rfl, rfl, rfl, rfl, rfl⟩

/-! ### The obligation -/

/-- R111, R112: HOLD and STOP where they do alike. -/
theorem halt_answers {s : State} {p : PortId} {slot code tag : Nat} {body : List Byte} {k : Slot} {c : Cursor}
    (hr : Reaches s p slot body k c) (htaken : Taken s p code tag body) (w : PendingHold) {t : State}
    (ht : takeRequest p code (cursorRequest p slot (halt w)) s = t) :
    let done : Response := { code := .done, body := .empty }
    let rebuilds := c.op = .seekDone ∨ c.op = .rebaseDone ∨ ∃ r, c.op = .rebuild r
    (c.snap ≠ none → t = answeredOnly s p tag { code := .cursorBusy, body := .empty }) ∧
    (c.snap = none → (c.state = .idle ∨ c.state = .held ∨ c.state = .ended ∨ c.state = .unsettled) →
      t = answeredOnly s p tag done) ∧
    (c.snap = none → c.state = .running → ¬rebuilds →
      (c.op ≠ .none ∨ (c.probes = [] ∧ c.redo = true) ∨ ∃ q rest, c.probes = q :: rest ∧ q.work ≠ none) →
      t = answered s p tag done (withCursorAt (s.popRequest p) k { c with pendingHold := some w })) ∧
    (c.snap = none → c.state = .running → c.op = .none → c.probes = [] → c.redo = false →
      Responded t p tag done ∧ SameStore s t ∧ OthersSame s t k p ∧ t.live.checkpoints = s.live.checkpoints ∧
        t.live.cursor k = some
          { c.leaveRunning with
            state := .held, op := .none, pendingHold := none, chain := false
            buffer := c.buffer.flushed c.options }) ∧
    (c.snap = none → c.state = .armed →
      Responded t p tag done ∧ SameStore s t ∧ OthersSame s t k p ∧ t.live.checkpoints = s.live.checkpoints ∧
        t.live.cursor k = some
          { c with
            state := if c.armedFrom = some .held then .held else .idle, armedFrom := none
            buffer := c.buffer.flushed c.options }) := by
  obtain ⟨-, hown⟩ := cursor_of_reaches hr
  have hreq := ht.symm.trans (takeRequest_reaches htaken hr (halt w))
  refine ⟨fun hs => ?_, fun hs hst => ?_, fun hs hst hnr hb => ?_, fun hs hst ho hp hre => ?_, fun hs hst => ?_⟩
  · rwa [halt_busy hs] at hreq
  · rwa [halt_settled hs hst] at hreq
  · rw [halt_pends hs hst (by rw [← Bool.not_eq_true, rebuilding_iff]; exact hnr)] at hreq
    have hstays := atBoundary_stays (e := (s.popRequest p).env)
      (cursor_setCursor_same (s.popRequest p).live k { c with pendingHold := some w }) hb
    unfold pend at hreq
    rwa [hstays] at hreq
  · obtain ⟨u, hu, h1, h2, h3, h4, h5, -⟩ := accepted_leaves htaken hr
      (halt_pends hs hst (by simp [rebuilding, ho]) w k _) (hown ▸ pend_local _ w k c _)
    obtain rfl := ht.symm.trans hu
    unfold pend at h4 h5
    rw [atBoundary_holds (cursor_setCursor_same _ k { c with pendingHold := some w }) hst ho hp hre
      (Option.some_ne_none w)] at h4 h5
    obtain ⟨g1, g2⟩ := becomeHeld_cursor (cursor_setCursor_same (s.popRequest p).live k { c with pendingHold := some w })
    exact ⟨h1, h2, h3, h5.trans g2, h4.trans g1⟩
  · obtain ⟨g1, g2, g3⟩ := disarm_cursor k c (s.popRequest p).live
    obtain ⟨u, hu, h1, h2, h3, h4, h5, -⟩ := accepted_leaves htaken hr (halt_disarms hs hst w k _) (hown ▸ g3)
    obtain rfl := ht.symm.trans hu
    exact ⟨h1, h2, h3, h5.trans g2, h4.trans g1⟩

/-- Settles O40: HOLD and STOP share their cases but for a rebuild, which HOLD lets finish and STOP abandons. -/
theorem holdAndStop : Obligations.HoldAndStop := by
  unfold Obligations.HoldAndStop
  intro s p slot body k c hr
  obtain ⟨hc, hown⟩ := cursor_of_reaches hr
  refine ⟨fun cmd code tag w hcmd htaken => ?_, fun tag htaken hs => ?_, fun tag htaken hs hst => ?_⟩
  · have hexec : exec cmd s = .next (takeRequest p code (cursorRequest p slot (halt w)) s) := by
      rcases hcmd with ⟨rfl, rfl, rfl⟩ | ⟨rfl, rfl, rfl⟩ <;> rfl
    obtain ⟨h1, h2, h3, h4, h5⟩ := halt_answers hr htaken w rfl
    refine ⟨fun g => hexec.trans (congrArg _ (h1 g)), fun g1 g2 => hexec.trans (congrArg _ (h2 g1 g2)),
      fun g1 g2 g3 g4 => hexec.trans (congrArg _ (h3 g1 g2 g3 g4)), fun g1 g2 g3 g4 g5 => ?_, fun g1 g2 => ?_⟩
    · obtain ⟨a1, a2, a3, a4, a5⟩ := h4 g1 g2 g3 g4 g5
      exact ⟨_, _, hexec, a1, a2, a3, a4, a5, rfl, rfl, rfl, rfl, rfl, rfl, rfl, rfl, rfl, rfl, rfl, rfl, rfl, g4, rfl⟩
    · obtain ⟨a1, a2, a3, a4, a5⟩ := h5 g1 g2
      exact ⟨_, _, hexec, a1, a2, a3, a4, a5, rfl, rfl, rfl, rfl, rfl, rfl, rfl⟩
  · have hreq := takeRequest_reaches htaken hr hold
    rw [hold_accepted hs] at hreq
    refine ⟨fun hst => ?_, fun hst hre => ?_⟩
    · rw [holdAccepted_seeking _ _ hst] at hreq
      exact congrArg Host.Outcome.next hreq
    · have hop : c.op ≠ .none := by rcases hre with g | g | ⟨r, g⟩ <;> simp [g]
      have hstays := atBoundary_stays (e := (s.popRequest p).env)
        (cursor_setCursor_same (s.popRequest p).live k { c with pendingHold := some .hold }) (.inl hop)
      rw [holdAccepted, hst] at hreq
      simp only [pend] at hreq
      rw [hstays] at hreq
      exact congrArg Host.Outcome.next hreq
  · obtain ⟨d, g1, g2, g3, g4, g5, g6⟩ := abandon_abandons (s := s) hc rfl
    have hrule := stop_abandons hs (hst.imp_right fun g => ⟨g.1, (rebuilding_iff c).2 g.2⟩) k (s.popRequest p)
    obtain ⟨t, ht, h1, h2, h3, h4, h5, h6⟩ := accepted_leaves htaken hr hrule (hown ▸ g6)
    obtain ⟨k1, k2, k3, k4, k5, k6⟩ := abandonRebuild_keeps c
    have hport : t.live.port p =
        { ((s.popRequest p).live.port p).takes (c.buffer.flushTold k c.options) with
          response := (t.live.port p).response } := by
      rw [hown] at g5
      exact h6.trans (by rw [← g5]; rfl)
    have hchose : ProbeChose c s.live.checkpoints t.live.checkpoints := by
      rw [h5]
      exact g4
    generalize ha : c.abandonRebuild = a at g2 k1 k2 k3 k4 k5 k6
    rw [g2] at g1 g3
    refine ⟨t, _, congrArg Host.Outcome.next ht, h1, h2, h3, h4.trans g1, rfl, rfl, rfl, rfl, k1, k2, k3, rfl, k4, k5, k6,
      rfl, rfl, g3, hchose, fun r hrb => ?_, fun hrb => ?_, hport⟩
    · rw [abandonRebuild_rebuild hrb] at ha
      subst ha
      exact ⟨rfl, rfl, rfl⟩
    · rw [abandonRebuild_other hrb] at ha
      subst ha
      exact ⟨rfl, rfl, rfl⟩

end Sys2Proof.Machine
end

section
/-!
PROOF. FETCH and READ_TRAIL (R131, R136, R153): O43.
-/

namespace Sys2Proof.Machine

open Sys2Proof

/-! ### A place freed, and a waiting item (R131, R136) -/

/-- R131: with no item that waits, or no room, a freed place changes nothing. -/
theorem resumeWaiting_rests {e : Env} {k : Slot} {l : Live} {c : Cursor} (h : l.cursor k = some c)
    (hw : c.buffer.waiting = none ∨ c.buffer.hasRoom c.options = false) : resumeWaiting e k l = l := by
  unfold resumeWaiting
  rw [withCursor_some _ h]
  rcases hw with g | g <;> simp [g]

/-- R131: an item for which there is room is written as one that has waited for it. -/
theorem emit_resumes {e : Env} {k : Slot} {l : Live} {c : Cursor} (h : l.cursor k = some c)
    (hr : c.buffer.hasRoom c.options = true) (op : Op) (x : ItemPlan) :
    emit e k op x (afterItem e k) l =
      resumeWaiting e k (l.setCursor k { c with op := op, buffer := { c.buffer with waiting := some x } }) := by
  have hroom : ({ c.buffer with waiting := some x } : Buffer).hasRoom c.options = true := hr
  rw [emit_room e h op x _ hr]
  unfold resumeWaiting
  rw [withCursor_some _ (cursor_setCursor_same _ _ _)]
  exact (if_pos (by simp [hroom])).symm

/-- R113, R131: the next item of a step, with room, is written as one that has waited for it. -/
theorem itemWritten_step {e : Env} {k : Slot} {l : Live} {c : Cursor} {f : StepFlight} {x : ItemPlan}
    {rest : List ItemPlan} (h : l.cursor k = some c) (hop : c.op = .step f) (ht : f.todo = x :: rest)
    (hw : c.buffer.waiting = none) (hr : c.buffer.hasRoom c.options = true) :
    itemWritten e k l = resumeWaiting e k (l.setCursor k
      { c with op := .step { f with todo := rest }, buffer := { c.buffer with waiting := some x } }) := by
  have hdue : itemDue c = true := by simp [itemDue, hw, hop, ht]
  unfold itemWritten
  rw [withCursor_some _ h, if_pos hdue]
  unfold writeNext
  rw [withCursor_some _ h, hop]
  dsimp only
  rw [ht]
  exact emit_resumes h hr _ x

/-- R123, R131: the next item of a snapshot, with room, is written as one that has waited for it. -/
theorem itemWritten_snap {e : Env} {k : Slot} {l : Live} {c : Cursor} {w : SnapWork} {x : PointId}
    {rest : List PointId} (h : l.cursor k = some c) (hop : c.op = .none) (hs : c.snap = some w)
    (ht : w.todo = x :: rest) (ho : w.opening = false) (hw : c.buffer.waiting = none)
    (hr : c.buffer.hasRoom c.options = true) :
    itemWritten e k l = resumeWaiting e k (l.setCursor k
      { c with
        op := .none, snap := some { todo := rest, opening := false }
        buffer := { c.buffer with waiting := some (.snap x) } }) := by
  have hdue : itemDue c = true := by simp [itemDue, hw, hop, hs, ht, ho]
  unfold itemWritten
  rw [withCursor_some _ h, if_pos hdue]
  unfold writeNext
  rw [withCursor_some _ h, hop, hs]
  dsimp only
  rw [ht]
  let a : Cursor := { c with op := .none, snap := some { todo := rest, opening := false } }
  show emit e k .none (.snap x) (afterItem e k) (l.setCursor k a) = _
  rw [emit_resumes (cursor_setCursor_same l k a) hr, setCursor_setCursor]

theorem exec_itemWritten {s : State} (h : s.resetLow = false) (k : Slot) (c : Cursor) :
    exec (.itemWritten k) (withCursorAt s k c) =
      .next (s.withLive (itemWritten s.env k (s.live.setCursor k c))) :=
  congrArg Host.Outcome.next (if_neg (by simp [withCursorAt, h]))

/-! ### FETCH (R136) -/

/-- R136: the buffer as the fetch of its oldest completed batch leaves it. -/
theorem takeBatch_eq (b : Buffer) (t : Batch) (rest : List Batch) :
    b.takeBatch t rest = { b with completed := rest, half := if b.half = none then t.half else b.half } := by
  unfold Buffer.takeBatch
  cases b.half <;> rfl

theorem fetch_takes {c : Cursor} {b : Batch} {rest : List Batch} (hm : c.options.mode = .notice)
    (hb : c.buffer.completed = b :: rest) (k : Slot) (s : State) :
    fetch k c s = ({ code := .done, body := .batch b }, s.withLive (resumeWaiting s.env k (s.live.setCursor k
      { c with
        buffer := { c.buffer with
          completed := rest, half := if c.buffer.half = none then b.half else c.buffer.half } }))) := by
  unfold fetch
  rw [hm, hb]
  dsimp only [fetchBatch]
  rw [takeBatch_eq]

theorem fetch_nothing {c : Cursor} (h : c.options.mode = .push ∨ c.buffer.completed = []) (k : Slot) (s : State) :
    fetch k c s = (Response.plain .nothingReady, s) := by
  unfold fetch
  split
  · rcases h with h | h <;> simp_all
  · rfl

/-- Settles O43: FETCH frees a place, and a waiting item is written there as ITEM_WRITTEN or its operation writes it. -/
theorem fetchAndReadTrail : Obligations.FetchAndReadTrail := by
  unfold Obligations.FetchAndReadTrail
  refine ⟨fun s p tag slot body k c htaken hr => ⟨fun b rest hm hb => ?_, fun hno => ?_⟩,
    fun s p tag slot body k c htaken hr => congrArg Host.Outcome.next (takeRequest_reaches htaken hr readTrail)⟩
  · obtain ⟨hreset, -, -⟩ := taken_port htaken
    have hreq := takeRequest_reaches htaken hr fetch
    rw [fetch_takes hm hb] at hreq
    intro taken free
    refine ⟨fun hw => ?_, fun f x hw hroom hop => ?_, fun w x hw hroom hop hsnap hopen => ?_, fun m hw hroom => ?_⟩
    · rw [resumeWaiting_rests (cursor_setCursor_same _ k { c with buffer := taken }) hw] at hreq
      exact congrArg Host.Outcome.next hreq
    · let a : Cursor := { c with op := .step { f with todo := x :: f.todo }, buffer := free }
      have hitem := itemWritten_step (e := s.env) (cursor_setCursor_same (s.popRequest p).live k a) rfl rfl rfl hroom
      have hfetch : ({ a with op := .step f, buffer := { free with waiting := some x } } : Cursor) =
          { c with buffer := taken } := by
        rw [← hop, ← hw]
      rw [setCursor_setCursor, hfetch] at hitem
      refine ⟨_, exec_itemWritten (s := s.popRequest p) hreset k a, congrArg Host.Outcome.next (hreq.trans ?_)⟩
      exact congrArg (fun l => answered s p tag _ ((s.popRequest p).withLive l)) hitem.symm
    · let a : Cursor := { c with snap := some { w with todo := x :: w.todo }, buffer := free }
      have hitem := itemWritten_snap (e := s.env) (cursor_setCursor_same (s.popRequest p).live k a) hop rfl rfl hopen
        rfl hroom
      have hfetch : ({ a with
          op := .none, snap := some { todo := w.todo, opening := false }
          buffer := { free with waiting := some (.snap x) } } : Cursor) = { c with buffer := taken } := by
        rw [← hop, ← hw, ← hopen, ← hsnap]
      rw [setCursor_setCursor, hfetch] at hitem
      refine ⟨_, exec_itemWritten (s := s.popRequest p) hreset k a, congrArg Host.Outcome.next (hreq.trans ?_)⟩
      exact congrArg (fun l => answered s p tag _ ((s.popRequest p).withLive l)) hitem.symm
    · have hm' : ({ c with buffer := taken } : Cursor) =
          { c with buffer := { free with waiting := some (.marker m) } } := by
        rw [← hw]
      let l : Live := (s.popRequest p).live.setCursor k { c with buffer := taken }
      have hl : l.cursor k = some { c with buffer := { free with waiting := some (.marker m) } } :=
        (cursor_setCursor_same _ _ _).trans (congrArg some hm')
      obtain ⟨-, -, hk, -⟩ := hr
      let t : State := answered s p tag { code := .done, body := .batch b }
        ((s.popRequest p).withLive (resumeWaiting s.env k l))
      obtain ⟨d, hd, hwritten⟩ := resumeWaiting_markerWritten (s := s) (t := t) hl rfl
        (fun j hj => cursor_setCursor_ne _ _ (Ne.symm hj)) hk hroom (fun _ => rfl) rfl
      exact ⟨t, d, congrArg Host.Outcome.next hreq, responded_answered .., ⟨rfl, rfl, rfl, rfl, rfl, rfl, rfl, rfl⟩, hd,
        hwritten⟩
  · have hreq := takeRequest_reaches htaken hr fetch
    rw [fetch_nothing hno] at hreq
    exact congrArg Host.Outcome.next hreq

end Sys2Proof.Machine
end

section
/-!
PROOF. An event that reaches several cursors, one after the other in some order (log 5), and the triggers (R119, R120).
-/

namespace Sys2Proof.Machine

open Sys2Proof

/-! ### An event at several slots -/

/-- What the event `f` of one slot does where its cursor is hit: its choice of a checkpoint on a table that differs from
`t` in stamps alone, the notices that it forms to the owner, and what becomes of the cursor. -/
def Sweeps (f : Slot → Live → Live) (hit : Cursor → Bool) (t : CheckpointTable) (target : Cursor → Option Nat)
    (told : Slot → Cursor → List Notice) (becomes : Cursor → Cursor → Prop) : Prop :=
  ∀ (k : Slot) (l : Live) (c : Cursor), l.cursor k = some c → hit c = true → SameButStamps t l.checkpoints →
    Local k c.owner l (f k l) ∧ (f k l).port c.owner = (l.port c.owner).takes (told k c) ∧
      (f k l).checkpoints = (target c).elim l.checkpoints (fun x => (l.checkpoints.choose x).2) ∧
      ∃ d, (f k l).cursor k = some d ∧ becomes c d

/-- The notices that a port takes of the event at one slot. -/
def toldTo (told : Slot → Cursor → List Notice) (l : Live) (q : PortId) (k : Slot) : List Notice :=
  (l.cursor k).elim [] fun c => if c.owner = q then told k c else []

/-- R84: the table after the choice that `target` gives the cursor of a slot. -/
def chosenAt (target : Cursor → Option Nat) (l : Live) (u : CheckpointTable) (k : Slot) : CheckpointTable :=
  ((l.cursor k).bind target).elim u fun x => (u.choose x).2

theorem chosen_stamps (target : Option Nat) (t : CheckpointTable) :
    SameButStamps t (target.elim t fun x => (t.choose x).2) := by
  cases target with
  | none => exact SameButStamps.refl t
  | some x => exact choose_sameButStamps t x

/-- What events at several slots leave, each cursor among them hit as it stood. -/
theorem Sweeps.foldl {f : Slot → Live → Live} {hit : Cursor → Bool} {t : CheckpointTable} {target : Cursor → Option Nat}
    {told : Slot → Cursor → List Notice} {becomes : Cursor → Cursor → Prop} (h : Sweeps f hit t target told becomes)
    {order : List Slot} (hnd : order.Nodup) {l : Live} (hl : SameButStamps t l.checkpoints)
    (hhit : ∀ k ∈ order, ∃ c, l.cursor k = some c ∧ hit c = true) :
    let r := order.foldl (fun m k => f k m) l
    (∀ j, j ∉ order → r.cursor j = l.cursor j) ∧
      (∀ j ∈ order, ∀ c, l.cursor j = some c → ∃ d, r.cursor j = some d ∧ becomes c d) ∧
      (∀ q, r.port q = (l.port q).takes (order.flatMap (toldTo told l q))) ∧
      r.checkpoints = order.foldl (chosenAt target l) l.checkpoints := by
  induction order generalizing l with
  | nil => exact ⟨fun _ _ => rfl, fun _ hj => absurd hj List.not_mem_nil, fun _ => rfl, rfl⟩
  | cons k ks ih =>
    obtain ⟨hk, hks⟩ := List.nodup_cons.1 hnd
    obtain ⟨c, hc, hcHit⟩ := hhit k List.mem_cons_self
    obtain ⟨⟨hother, hports⟩, hport, hcp, d, hd, hbecomes⟩ := h k l c hc hcHit hl
    have hsame : ∀ j ∈ ks, (f k l).cursor j = l.cursor j := fun j hj => hother j fun e => hk (e ▸ hj)
    obtain ⟨g1, g2, g3, g4⟩ := ih hks (hl.trans (hcp ▸ chosen_stamps (target c) l.checkpoints))
      fun j hj => (hsame j hj) ▸ hhit j (List.mem_cons_of_mem k hj)
    refine ⟨fun j hj => ?_, fun j hj x hx => ?_, fun q => ?_, ?_⟩
    · obtain ⟨hne, hj⟩ := not_or.1 (mt List.mem_cons.2 hj)
      exact (g1 j hj).trans (hother j hne)
    · rcases List.mem_cons.1 hj with rfl | hj
      · obtain rfl := Option.some.inj (hc.symm.trans hx)
        exact ⟨d, (g1 j hk).trans hd, hbecomes⟩
      · exact g2 j hj x ((hsame j hj).trans hx)
    · have htold : ks.flatMap (toldTo told (f k l) q) = ks.flatMap (toldTo told l q) :=
        List.flatMap_congr fun j hj => by simp only [toldTo, hsame j hj]
      have hfirst : (f k l).port q = (l.port q).takes (toldTo told l q k) := by
        by_cases hq : q = c.owner
        · simp [toldTo, hc, hq, hport]
        · simp [toldTo, hc, Ne.symm hq, hports q hq]
      rw [List.foldl_cons, g3 q, htold, hfirst, ← takes_append, List.flatMap_cons]
    · have hchosen : ∀ u, ∀ j ∈ ks, chosenAt target (f k l) u j = chosenAt target l u j := fun u j hj => by
        simp only [chosenAt, hsame j hj]
      have hfirst : (f k l).checkpoints = chosenAt target l l.checkpoints k := by simp [chosenAt, hc, hcp]
      rw [List.foldl_cons, g4, List.foldl_cons, hfirst]
      exact List.foldl_ext _ _ _ hchosen

/-- What an event leaves that reaches, in a free order, each cursor that it hits. -/
theorem Sweeps.inFreeOrder {f : Slot → Live → Live} {hit : Cursor → Bool} {t : CheckpointTable}
    {target : Cursor → Option Nat} {told : Slot → Cursor → List Notice} {becomes : Cursor → Cursor → Prop}
    (h : Sweeps f hit t target told becomes) {l : Live} (hl : SameButStamps t l.checkpoints) :
    ∃ order : List Slot, order.Nodup ∧ (∀ k, k ∈ order ↔ ∃ c, l.cursor k = some c ∧ hit c = true) ∧
      (∀ k, k ∉ order → (Machine.inFreeOrder (l.slotsWhere hit) f l).cursor k = l.cursor k) ∧
      (∀ k c, l.cursor k = some c → hit c = true →
        ∃ d, (Machine.inFreeOrder (l.slotsWhere hit) f l).cursor k = some d ∧ becomes c d) ∧
      (∀ q, (Machine.inFreeOrder (l.slotsWhere hit) f l).port q =
        (l.port q).takes (order.flatMap (toldTo told l q))) ∧
      (Machine.inFreeOrder (l.slotsWhere hit) f l).checkpoints = order.foldl (chosenAt target l) l.checkpoints := by
  obtain ⟨order, n, hperm, hr⟩ := inFreeOrder_eq (l.slotsWhere hit) f l
  have hnd : order.Nodup := hperm.nodup_iff.2 (slotsWhere_nodup l hit)
  have hmem : ∀ k, k ∈ order ↔ ∃ c, l.cursor k = some c ∧ hit c = true := by
    intro k
    rw [hperm.mem_iff]
    cases hc : l.cursor k with
    | none => simp [Live.slotsWhere, hc]
    | some c => simp [mem_slotsWhere hc]
  obtain ⟨g1, g2, g3, g4⟩ := h.foldl hnd (l := { l with draws := n }) hl fun k hk => (hmem k).1 hk
  rw [hr]
  exact ⟨order, hnd, hmem, g1, fun k c hc hh => g2 k ((hmem k).2 ⟨c, hc, hh⟩) c hc, g3, g4⟩

/-- R84, R91: the choices of an event at several slots, as the statements say them. -/
theorem chosenInSomeOrder_of {s t : State} {l : Live} {hit : Cursor → Bool} {target : Cursor → Option Nat}
    {order : List Slot} (hnd : order.Nodup) (hmem : ∀ k, k ∈ order ↔ ∃ c, s.live.cursor k = some c ∧ hit c = true)
    (hl : ∀ k ∈ order, l.cursor k = s.live.cursor k)
    (hcp : t.live.checkpoints = order.foldl (chosenAt target l) s.live.checkpoints) {goal : Cursor → Option Nat}
    (hgoal : ∀ c, goal c = if hit c = true then target c else none) : ChosenInSomeOrder goal s t := by
  have hpick : ∀ k ∈ order, (s.live.cursor k).bind goal = (l.cursor k).bind target := by
    intro k hk
    obtain ⟨c, hc, hh⟩ := (hmem k).1 hk
    simp [hl k hk, hc, hgoal, hh]
  refine ⟨order.filter fun k => ((s.live.cursor k).bind goal).isSome, hnd.filter _, fun k => ?_, ?_⟩
  · rw [List.mem_filter, hmem]
    cases hc : s.live.cursor k with
    | none => simp
    | some c =>
      rw [Option.isSome_iff_ne_none]
      simp only [Option.some.injEq, exists_eq_left', Option.bind_some, and_iff_right_iff_imp]
      intro hg
      by_contra hh
      rw [hgoal, if_neg hh] at hg
      exact hg rfl
  · rw [hcp, List.foldl_filter]
    refine List.foldl_ext _ _ _ fun u k hk => ?_
    rw [chosenAt, hpick k hk]
    cases (l.cursor k).bind target <;> rfl

/-! ### Triggers (R119, R120) -/

/-- R119, R124, R134: the notices that a triggered cursor's owner takes. -/
def triggerTold (now : Nat) (k : Slot) (c : Cursor) : List Notice :=
  (if triggerTarget now c = none then [] else c.buffer.flushTold k c.options) ++ [triggerNotice now k c]

/-- R119: a trigger starts a chained seek toward its target, or plays from where the cursor stands. -/
theorem triggerAction_cases (e : Env) (k : Slot) (c : Cursor) (l : Live) (h : l.cursor k = some c) :
    (∃ (t : Nat) (frozen : Bool) (armed : Option ArmedFrom), triggerTarget e.clock.instant c = some t ∧
      triggerAction e k c l =
        startSeek e k t true (l.setCursor k { c with trailFrozen := frozen, armedFrom := armed })) ∨
      triggerTarget e.clock.instant c = none ∧ (c.bound = true → c.instant = some e.clock.instant) ∧
        triggerAction e k c l = beginPlay e k false 0 l := by
  have hself : l.setCursor k { c with trailFrozen := c.trailFrozen, armedFrom := c.armedFrom } = l := setCursor_self h
  unfold triggerAction
  split_ifs with h1 h2
  · by_cases hb : c.bound = true ∧ c.instant ≠ some e.clock.instant
    · have hp := (bound_iff c).1 hb.1
      exact .inl ⟨e.clock.instant, false, none, by simp [triggerTarget, hp, hb.2], beginPlay_seeks h hb.1 hb.2 false 0⟩
    · have hstands : c.bound = true → c.instant = some e.clock.instant := fun g => not_not.1 fun x => hb ⟨g, x⟩
      refine .inr ⟨?_, hstands, rfl⟩
      cases hp : c.options.pacing with
      | bound => simp [triggerTarget, hp, h1.1, hstands ((bound_iff c).2 hp)]
      | freeRun => simp [triggerTarget, hp, h1.1, h1.2.resolve_left fun x => by simp [(bound_iff c).1 x] at hp]
  · have hp := (bound_iff c).1 h2
    have hf : c.armedFrom ≠ some .held := fun g => h1 ⟨g, .inl h2⟩
    exact .inl ⟨e.clock.instant, false, c.armedFrom, by simp [triggerTarget, hp, hf], rfl⟩
  · have hp : c.options.pacing = .freeRun := by
      cases hp : c.options.pacing with
      | bound => exact absurd ((bound_iff c).2 hp) h2
      | freeRun => rfl
    have hf : ¬(c.armedFrom = some .held ∧ c.options.action = .play) := fun g => h1 ⟨g.1, .inr g.2⟩
    refine .inl ⟨c.options.windowStart, c.trailFrozen, c.armedFrom, by simp [triggerTarget, hp, hf], ?_⟩
    rw [hself]

theorem trigger_eq (e : Env) {k : Slot} {l : Live} {c : Cursor} (h : l.cursor k = some c) (hs : c.state = .armed) :
    trigger e k l = notifyState k .trigger (triggerAction e k c l) := by
  unfold trigger
  rw [withCursor_some _ h, if_pos hs]

theorem beginPlay_ports {e : Env} {k : Slot} {l : Live} {c : Cursor} (h : l.cursor k = some c)
    (hb : c.bound = true → c.instant = some e.clock.instant) (u : Bool) (n : Nat) :
    (beginPlay e k u n l).ports = l.ports := by
  unfold beginPlay
  rw [withCursor_some _ h, if_neg (fun g => g.2 (hb g.1))]
  split_ifs
  · obtain ⟨_, hstart, -⟩ := startRebase_begins e (cursor_setCursor_same l k (c.begun u n))
    exact (congrArg Live.ports hstart).trans rfl
  · rfl

/-- R124: the port of a cursor's owner after CURSOR_STATE. -/
theorem port_notifyState {k : Slot} {l : Live} {d : Cursor} (h : l.cursor k = some d) (cause : StateCause) :
    (notifyState k cause l).port d.owner = (l.port d.owner).push (.cursorState k d.state cause d.instant) := by
  unfold notifyState
  rw [withCursor_some _ h, port_notify, if_pos rfl]

/-- R119: a trigger's action keeps to the cursor and its owner's port, and tells the flush of a seek that it starts. -/
theorem triggerAction_tells (e : Env) {k : Slot} {l : Live} {c : Cursor} (h : l.cursor k = some c)
    (hs : c.state = .armed) :
    Local k c.owner l (triggerAction e k c l) ∧
      (triggerAction e k c l).port c.owner = (l.port c.owner).takes
        (if triggerTarget e.clock.instant c = none then [] else c.buffer.flushTold k c.options) := by
  rcases triggerAction_cases e k c l h with ⟨t, frozen, armed, ht, ha⟩ | ⟨hn, hb, ha⟩
  · let x : Cursor := { c with trailFrozen := frozen, armedFrom := armed }
    have hx := cursor_setCursor_same l k x
    have hns : x.state ≠ .seeking := by simp [x, hs]
    obtain ⟨_, _, _, _, _, _, _, _, _, _, _, _, _, _, _, _, _, _, hport⟩ := startSeek_cursor e hx t true
    rw [if_neg hns] at hport
    rw [ha, if_neg (by simp [ht])]
    exact ⟨(Local.setCursor k _ l x).trans (startSeek_local e hx t true), hport⟩
  · rw [ha, if_pos hn]
    exact ⟨beginPlay_local e h false 0, by unfold Live.port; rw [beginPlay_ports h hb]; rfl⟩

/-- A cursor triggered is told with the table of either of two states that differ in stamps alone. -/
theorem Triggered.of_stamps {s t : State} {now : Nat} {c d : Cursor} (h : Triggered t now c d)
    (hh : t.history = s.history) (ht : SameButStamps s.live.checkpoints t.live.checkpoints) : Triggered s now c d := by
  unfold Triggered at h ⊢
  simp only [ht.rebuildBegun, hh] at h
  exact h

/-- R84, R91, R119, R124: the event of a trigger at each ARMED cursor that it hits. -/
theorem trigger_sweeps {s : State} {e : Env} (he : e.history = s.history) {hit : Cursor → Bool}
    (hhit : ∀ c, hit c = true → c.state = .armed) :
    Sweeps (trigger e) hit s.live.checkpoints (triggerRebuild e.clock.instant) (triggerTold e.clock.instant)
      (Triggered s e.clock.instant) := by
  intro k l c h hc hl
  have hs := hhit c hc
  obtain ⟨hlocal, hport⟩ := triggerAction_tells e h hs
  obtain ⟨d, hd, htr⟩ := trigger_triggered (s := { s with live := l }) he rfl h hs
  have hd' : (triggerAction e k c l).cursor k = some d := by
    rw [trigger_eq e h hs, cursor_notifyState] at hd
    exact hd
  have hparts := htr
  obtain ⟨hown, -, -, -, -, hinst, hseek, hrun⟩ := hparts
  have hstate : d.state = if triggerTarget e.clock.instant c = none then .running else .seeking := by
    cases ht : triggerTarget e.clock.instant c with
    | none => exact (hrun ht).1
    | some x => exact (hseek x ht).1
  have htold := port_notifyState hd' .trigger
  rw [hown, hinst, hstate, hport] at htold
  have hnote : notifyState k .trigger (triggerAction e k c l) =
      (triggerAction e k c l).notify c.owner (.cursorState k d.state .trigger d.instant) := by
    unfold notifyState
    rw [withCursor_some _ hd', hown]
  refine ⟨?_, ?_, trigger_chooses e h hs, d, hd, htr.of_stamps rfl hl⟩
  · rw [trigger_eq e h hs, hnote]
    exact hlocal.trans (Local.notify k c.owner _ _)
  · rw [trigger_eq e h hs, htold, triggerTold, takes_append]
    rfl

/-! ### The notices of an event at several slots -/

/-- R134, R135: a flush tells BATCH_READY alone. -/
theorem flushTold_kind {k : Slot} {o : Options} {b : Buffer} {n : Notice} (h : n ∈ b.flushTold k o) :
    n.kind = .batchReady := by
  unfold Buffer.flushTold at h
  split at h
  · rw [List.mem_singleton.1 h]
    rfl
  · exact absurd h List.not_mem_nil

theorem mem_triggerTold {now : Nat} {k : Slot} {c : Cursor} {n : Notice} (h : n ∈ triggerTold now k c) :
    n.kind = .batchReady ∨ n = triggerNotice now k c := by
  rcases List.mem_append.1 h with h | h
  · split_ifs at h
    · exact absurd h List.not_mem_nil
    · exact .inl (flushTold_kind h)
  · exact .inr (List.mem_singleton.1 h)

theorem count_triggerTold (now : Nat) (k : Slot) (c : Cursor) :
    (triggerTold now k c).count (triggerNotice now k c) = 1 := by
  have hnot : triggerNotice now k c ∉ (if triggerTarget now c = none then [] else c.buffer.flushTold k c.options) := by
    split_ifs
    · exact List.not_mem_nil
    · exact fun h => nomatch flushTold_kind h
  unfold triggerTold
  rw [List.count_append, List.count_eq_zero.2 hnot, List.count_singleton_self]

theorem mem_toldTo {told : Slot → Cursor → List Notice} {l : Live} {q : PortId} {k : Slot} {n : Notice}
    (h : n ∈ toldTo told l q k) : ∃ c, l.cursor k = some c ∧ c.owner = q ∧ n ∈ told k c := by
  unfold toldTo at h
  cases hc : l.cursor k with
  | none => simp [hc] at h
  | some c =>
    simp only [hc, Option.elim_some] at h
    split_ifs at h with ho
    · exact ⟨c, rfl, ho, h⟩
    · exact absurd h List.not_mem_nil

theorem toldTo_owner {told : Slot → Cursor → List Notice} {l : Live} {q : PortId} {k : Slot} {c : Cursor}
    (h : l.cursor k = some c) (ho : c.owner = q) : toldTo told l q k = told k c := by
  simp [toldTo, h, ho]

/-- A notice that one slot alone tells, and tells once, is told once. -/
theorem count_flatMap_of_one {g : Slot → List Notice} {order : List Slot} (hnd : order.Nodup) {k : Slot}
    (hk : k ∈ order) {n : Notice} (hone : (g k).count n = 1) (hother : ∀ j, j ≠ k → n ∉ g j) :
    (order.flatMap g).count n = 1 := by
  have hsum := List.sum_map_eq_nsmul_single (l := order) k (List.count n ∘ g)
    fun j hj _ => List.count_eq_zero.2 (hother j hj)
  rw [List.count_flatMap, hsum, List.count_eq_one_of_mem hnd hk]
  simpa using hone

/-- R119, R124: the CURSOR_STATE of a triggered cursor is told once. -/
theorem count_triggerNotice {told : Slot → Cursor → List Notice} {l : Live} {order : List Slot} (hnd : order.Nodup)
    {now : Nat} {k : Slot} {c : Cursor} {q : PortId} (hk : k ∈ order) (hc : l.cursor k = some c) (ho : c.owner = q)
    (htold : told k c = triggerTold now k c)
    (hslot : ∀ j x n, n ∈ told j x → n.kind = .batchReady ∨ ∃ st cause i, n = .cursorState j st cause i) :
    (order.flatMap (toldTo told l q)).count (triggerNotice now k c) = 1 := by
  refine count_flatMap_of_one hnd hk ?_ fun j hj hn => ?_
  · rw [toldTo_owner hc ho, htold, count_triggerTold]
  · obtain ⟨x, -, -, hx⟩ := mem_toldTo hn
    rcases hslot j x _ hx with g | ⟨st, cause, i, g⟩
    · exact nomatch g
    · unfold triggerNotice at g
      cases g
      exact hj rfl

theorem triggerTold_slot (now : Nat) (j : Slot) (x : Cursor) (n : Notice) (h : n ∈ triggerTold now j x) :
    n.kind = .batchReady ∨ ∃ st cause i, n = .cursorState j st cause i :=
  (mem_triggerTold h).imp_right fun e => ⟨_, _, _, e⟩

/-- R119, R124, R134: the notices of triggers, as the statements say them. -/
theorem triggersTold_of {s : State} {l : Live} {hit : Cursor → Bool} {goal : Cursor → Prop} {order : List Slot}
    (hnd : order.Nodup) (hmem : ∀ k, k ∈ order ↔ ∃ c, s.live.cursor k = some c ∧ hit c = true)
    (hl : ∀ k ∈ order, l.cursor k = s.live.cursor k) (hgoal : ∀ c, hit c = true ↔ goal c) (now : Nat) (q : PortId) :
    TriggersTold now goal s q (order.flatMap (toldTo (triggerTold now) l q)) := by
  refine ⟨fun n hn => ?_, fun k c hc hg ho => ?_⟩
  · obtain ⟨k, hk, hn⟩ := List.mem_flatMap.1 hn
    obtain ⟨c, hc, ho, hn⟩ := mem_toldTo hn
    obtain ⟨x, hx, hh⟩ := (hmem k).1 hk
    obtain rfl := Option.some.inj (hc.symm.trans ((hl k hk).trans hx))
    exact (mem_triggerTold hn).imp_right fun g => ⟨k, c, hx, (hgoal c).1 hh, ho, g⟩
  · have hk := (hmem k).2 ⟨c, hc, (hgoal c).2 hg⟩
    exact count_triggerNotice hnd hk ((hl k hk).trans hc) ho rfl (triggerTold_slot now)

/-! ### MARK_IN (R182) -/

theorem armedFor_line (c : Cursor) : armedFor .line c = true ↔ c.state = .armed ∧ c.options.source = .line := by
  simp [armedFor]

/-- Settles O6: a rising edge of MARK_IN is a trigger at each ARMED cursor whose source is LINE. -/
theorem markInTriggersLineCursors : Obligations.MarkInTriggersLineCursors := by
  unfold Obligations.MarkInTriggersLineCursors
  intro s hreset
  have hsweep : Sweeps (trigger s.env) (armedFor .line) s.live.checkpoints (triggerRebuild s.clock.instant)
      (triggerTold s.clock.instant) (Triggered s s.clock.instant) :=
    trigger_sweeps rfl fun c hc => ((armedFor_line c).1 hc).1
  obtain ⟨order, hnd, hmem, hother, hhit, hports, hcp⟩ := hsweep.inFreeOrder (SameButStamps.refl s.live.checkpoints)
  have hexec : exec .markInEdge s = .next (s.withLive (triggerEvent s.env .line s.live)) :=
    congrArg Host.Outcome.next (if_neg (by simp [hreset]))
  refine ⟨_, hexec, ⟨rfl, rfl, rfl, rfl, rfl, rfl, rfl, rfl⟩,
    fun k c hc hs hl => hhit k c hc ((armedFor_line c).2 ⟨hs, hl⟩), fun k c hc hn => ?_,
    fun q => ⟨_, hports q, triggersTold_of hnd hmem (fun _ _ => rfl) armedFor_line _ q⟩,
    chosenInSomeOrder_of hnd hmem (fun _ _ => rfl) hcp fun c => ?_, fun k hk => ?_⟩
  · refine (hother k fun hk => ?_).trans hc
    obtain ⟨x, hx, hh⟩ := (hmem k).1 hk
    obtain rfl := Option.some.inj (hc.symm.trans hx)
    obtain ⟨h1, h2⟩ := (armedFor_line c).1 hh
    exact hn.elim (fun g => g h1) fun g => g h2
  · simp only [armedFor_line]
  · refine (hother k fun hin => ?_).trans hk
    obtain ⟨x, hx, -⟩ := (hmem k).1 hin
    exact nomatch hk.symm.trans hx

end Sys2Proof.Machine
end

section
/-!
PROOF. CLOCK_SET and the cursors that it reaches (R166, R171, R173): O48.
-/

namespace Sys2Proof.Machine

open Sys2Proof

/-! ### The control requests (R165) -/

/-- R165: a control request of the controlling port is done, and starts the lease timer. -/
theorem controlRequest_accepted {p : PortId} {s : State} (h : s.clock.controller = some p) (rule : State → State)
    (body : List Byte) :
    controlRequest p true rule body s =
      (Response.done, { rule s with clock := (rule s).clock.startLease }) := by
  unfold controlRequest
  rw [if_neg (by simp [h])]
  rfl

/-! ### The re-seek (R171) -/

theorem reseeks_iff (c : Cursor) :
    reseeks c = true ↔ c.options.pacing = .bound ∧ (c.state = .running ∨ c.state = .seeking ∧ c.chain = true) := by
  simp [reseeks, bound_iff]

theorem marked_iff (before after : Nat) (c : Cursor) :
    Machine.marked before after c = true ↔ MarkReaches before after c := by
  simp [Machine.marked, MarkReaches, and_assoc]

theorem reseeks_of_marked {before after : Nat} {c : Cursor} (h : MarkReaches before after c) : reseeks c = false := by
  obtain ⟨hs, -⟩ := h
  rw [← Bool.not_eq_true, reseeks_iff]
  simp [hs]

/-- R134, R171: what the re-seek toward an instant makes of a cursor. -/
def Reseeked (t : CheckpointTable) (now : Nat) (c d : Cursor) : Prop :=
  d.state = .seeking ∧ d.chain = c.pendingHold.isNone ∧ d.pendingHold = none ∧ d.waiting = false ∧
    d.lagging = false ∧ d.stepsLeft = 0 ∧ d.probes = c.probes ∧ d.options = c.options ∧
    RebuildBegun t .seek now none d ∧
    d.buffer = if c.state = .seeking then { c.buffer with waiting := none }
      else ({ c.buffer with waiting := none } : Buffer).flushed c.options

/-- R134, R171: the notices of the re-seek of a cursor. -/
def reseekTold (k : Slot) (c : Cursor) : List Notice :=
  if c.state = .running then
    ({ c.buffer with waiting := none } : Buffer).flushTold k c.options ++ [.cursorState k .seeking .clockSet c.instant]
  else []

/-- R134, R171: the re-seek keeps to the cursor and its owner's port. -/
theorem reseek_leaves (e : Env) {k : Slot} {l : Live} {c : Cursor} (h : l.cursor k = some c) (hr : reseeks c = true) :
    Local k c.owner l (reseek e k l) ∧ (reseek e k l).port c.owner = (l.port c.owner).takes (reseekTold k c) ∧
      ∃ d, (reseek e k l).cursor k = some d ∧ Reseeked l.checkpoints e.clock.instant c d := by
  let x : Cursor := { c with pendingHold := none }
  have hx := cursor_setCursor_same l k x
  obtain ⟨d, hd, hbegun, hst, hchain, -, hown, hopt, -, hprobes, -, -, hhold, hsteps, hlag, hwait, hbuf, -, hport⟩ :=
    startSeek_cursor e hx e.clock.instant c.pendingHold.isNone
  have hlocal : Local k c.owner l (startSeek e k e.clock.instant c.pendingHold.isNone (l.setCursor k x)) :=
    (Local.setCursor k _ l x).trans (startSeek_local e hx _ _)
  have hleaves : Reseeked l.checkpoints e.clock.instant c d :=
    ⟨hst, hchain, hhold, hwait, hlag, hsteps, hprobes, hopt, hbegun, hbuf⟩
  by_cases hs : c.state = .running
  · have hrun : reseek e k l =
        notifyState k .clockSet (startSeek e k e.clock.instant c.pendingHold.isNone (l.setCursor k x)) := by
      unfold reseek
      rw [withCursor_some _ h]
      exact if_pos hs
    refine ⟨?_, ?_, d, ?_, hleaves⟩
    · rw [hrun]
      refine hlocal.trans (Local.withCursor fun y hy => ?_)
      obtain rfl := Option.some.inj (hd.symm.trans hy)
      exact hown ▸ Local.notify k _ _ _
    · rw [reseek_port e h hs, reseekTold, if_pos hs]
    · rw [hrun, cursor_notifyState]
      exact hd
  · have hseeking : c.state = .seeking := (((reseeks_iff c).1 hr).2.resolve_left hs).1
    have hseek : reseek e k l = startSeek e k e.clock.instant c.pendingHold.isNone (l.setCursor k x) := by
      unfold reseek
      rw [withCursor_some _ h]
      exact if_neg hs
    rw [hseek, reseekTold, if_neg hs]
    rw [if_pos hseeking] at hport
    exact ⟨hlocal, hport, d, hd, hleaves⟩

/-! ### CLOCK_SET at a cursor (R171 to R173) -/

/-- R171 to R173: the notices of a CLOCK_SET at a cursor that it reaches. -/
def clockSetTold (now : Nat) (k : Slot) (c : Cursor) : List Notice :=
  if reseeks c then reseekTold k c else triggerTold now k c

/-- R171 to R173: what a CLOCK_SET makes of a cursor that it reaches. -/
def ClockSetBecomes (s : State) (now : Nat) (c d : Cursor) : Prop :=
  (reseeks c = true → Reseeked s.live.checkpoints now c d) ∧ (reseeks c = false → Triggered s now c d)

/-- R171 to R173: the event of a CLOCK_SET at each cursor that it reaches. -/
theorem clockSet_sweeps {s : State} {e : Env} (he : e.history = s.history) (before : Nat) :
    Sweeps (clockSetReaches e) (fun c => reseeks c || Machine.marked before e.clock.instant c) s.live.checkpoints
      (clockSetTarget before e.clock.instant) (clockSetTold e.clock.instant)
      (ClockSetBecomes s e.clock.instant) := by
  intro k l c h hhit hl
  have hcp := clockSetReaches_chooses e before h hhit
  cases hr : reseeks c with
  | true =>
    have hreach : clockSetReaches e k l = reseek e k l := by
      unfold clockSetReaches
      rw [withCursor_some _ h, if_pos hr]
    obtain ⟨g1, g2, d, g3, g4, g5, g6, g7, g8, g9, g10, g11, g12, g13⟩ := reseek_leaves e h hr
    rw [hreach] at hcp ⊢
    refine ⟨g1, by rw [clockSetTold, if_pos hr]; exact g2, hcp, d, g3, fun _ =>
      ⟨g4, g5, g6, g7, g8, g9, g10, g11, hl.rebuildBegun.1 g12, g13⟩, fun g => ?_⟩
    exact nomatch hr.symm.trans g
  | false =>
    have hreach : clockSetReaches e k l = trigger e k l := by
      unfold clockSetReaches
      rw [withCursor_some _ h, if_neg (by simp [hr])]
    have hmark : c.state = .armed := by
      have : Machine.marked before e.clock.instant c = true := by simpa [hr] using hhit
      exact ((marked_iff _ _ _).1 this).1
    obtain ⟨g1, g2, -, d, g3, g4⟩ := trigger_sweeps he (hit := fun c => c.state == .armed) (fun c hc => by simpa using hc)
      k l c h (by simpa using hmark) hl
    rw [hreach] at hcp ⊢
    exact ⟨g1, by rw [clockSetTold, if_neg (by simp [hr])]; exact g2, hcp, d, g3,
      fun g => (nomatch hr.symm.trans g), fun _ => g4⟩

/-- R171, R173: a CLOCK_SET gives a target to the cursors that it reaches alone. -/
theorem clockSetTarget_hit (before now : Nat) (c : Cursor) :
    clockSetTarget before now c =
      if (reseeks c || Machine.marked before now c) = true then clockSetTarget before now c else none := by
  split_ifs with hhit
  · rfl
  · rw [Bool.or_eq_true, not_or, reseeks_iff, marked_iff] at hhit
    obtain ⟨hr, hm⟩ := hhit
    rw [clockSetTarget, if_neg hr]
    exact if_neg hm

theorem clockSetTold_slot (now : Nat) (j : Slot) (x : Cursor) (n : Notice) (h : n ∈ clockSetTold now j x) :
    n.kind = .batchReady ∨ ∃ st cause i, n = .cursorState j st cause i := by
  unfold clockSetTold at h
  split_ifs at h
  · unfold reseekTold at h
    split_ifs at h
    · rcases List.mem_append.1 h with h | h
      · exact .inl (flushTold_kind h)
      · exact .inr ⟨_, _, _, List.mem_singleton.1 h⟩
    · exact absurd h List.not_mem_nil
  · exact triggerTold_slot now j x n h

/-! ### CLOCK_SET (R166) -/

/-- R167: the ports after a CLOCK notice. -/
theorem port_notifyClock (cause : ClockCause) (s : State) (q : PortId) :
    (notifyClock cause s).live.port q =
      (s.live.port q).takes (if (s.live.port q).subs.clock = true then [s.clock.notice cause] else []) := by
  unfold notifyClock
  rw [State.withLive, port_notifyWhere]
  split_ifs <;> rfl

/-- Settles O48: CLOCK_SET reaches, in some order, the cursors that re-seek and those whose clock mark it crosses. -/
theorem clockSetReseeks : Obligations.ClockSetReseeks := by
  unfold Obligations.ClockSetReseeks
  intro s p tag t body htaken hctl hgrid
  let v : State := notifyClock .set { s.popRequest p with clock := { s.clock with instant := t } }
  let r : Live := inFreeOrder (v.live.slotsWhere fun c => reseeks c || Machine.marked s.clock.instant t c)
    (clockSetReaches v.env) v.live
  let u : State := answered s p tag Response.done { v.withLive r with clock := v.clock.startLease }
  have hcursor : ∀ k, v.live.cursor k = s.live.cursor k := fun k => by
    refine (cursor_notifyWhere _ _ _ k).trans ?_
    exact cursor_popRequest s p k
  have hexec : exec (.clockSet p t) s = .next u := by
    have hok : decide (t ≤ Config.maxGrid) = true := decide_eq_true hgrid
    refine congrArg Host.Outcome.next ?_
    rw [takeRequest_taken htaken, hok, controlRequest_accepted (s := s.popRequest p) hctl]
    rfl
  have hsweep : Sweeps (clockSetReaches v.env) (fun c => reseeks c || Machine.marked s.clock.instant t c)
      s.live.checkpoints (clockSetTarget s.clock.instant t) (clockSetTold t) (ClockSetBecomes s t) :=
    clockSet_sweeps (e := v.env) rfl s.clock.instant
  obtain ⟨order, hnd, hmem, hother, hhit, hports, hcp⟩ :=
    hsweep.inFreeOrder (l := v.live) (SameButStamps.refl s.live.checkpoints)
  simp only [hcursor] at hmem hother hhit
  have hfree : ∀ k c, s.live.cursor k = some c → reseeks c = false → ¬MarkReaches s.clock.instant t c →
      u.live.cursor k = some c := by
    intro k c hc hr hm
    refine (hother k fun hk => ?_).trans hc
    obtain ⟨x, hx, hh⟩ := (hmem k).1 hk
    obtain rfl := Option.some.inj (hc.symm.trans hx)
    exact hm ((marked_iff _ _ _).1 (by simpa [hr] using hh))
  have hreseek : ∀ k c, s.live.cursor k = some c → reseeks c = true →
      ∃ d, u.live.cursor k = some d ∧ Reseeked s.live.checkpoints t c d := by
    intro k c hc hr
    obtain ⟨d, hd, hb, -⟩ := hhit k c hc (by simp [hr])
    exact ⟨d, hd, hb hr⟩
  have hnotmark : ∀ c : Cursor, c.state ≠ .armed → ¬MarkReaches s.clock.instant t c := fun c hs hm => hs hm.1
  refine ⟨u, hexec, responded_answered .., rfl, fun k c hc hs hp => ?_, fun k c hc hs hp hch => ?_,
    fun k c hc hs => ?_, fun k c hc hm => ?_, fun q => ?_, fun k c hc hp hs => ?_, fun k hk => ?_, ?_, rfl, rfl, rfl, rfl,
    rfl, rfl, rfl⟩
  · obtain ⟨d, hd, g1, g2, g3, g4, g5, g6, g7, g8, g9, g10⟩ := hreseek k c hc ((reseeks_iff c).2 ⟨hp, .inl hs⟩)
    rw [if_neg (by simp [hs])] at g10
    exact ⟨d, hd, g1, g2, g3, g4, g5, g6, g7, g8, g9, g10⟩
  · obtain ⟨d, hd, g1, g2, g3, -, -, -, g7, g8, g9, g10⟩ := hreseek k c hc ((reseeks_iff c).2 ⟨hp, .inr ⟨hs, hch⟩⟩)
    rw [if_pos hs] at g10
    exact ⟨d, hd, g1, g2, g3, g7, g8, g9, g10⟩
  · refine hfree k c hc ?_ ?_
    · rw [← Bool.not_eq_true, reseeks_iff]
      rcases hs with hs | hs | hs | hs | ⟨hs, hch⟩ | ⟨hs, -⟩ <;> simp [*]
    · rcases hs with hs | hs | hs | hs | ⟨hs, -⟩ | ⟨-, hm⟩
      case inr.inr.inr.inr.inr => exact hm
      all_goals exact hnotmark c (by simp [hs])
  · obtain ⟨d, hd, -, hb⟩ := hhit k c hc (by simp [(marked_iff s.clock.instant t c).2 hm])
    exact ⟨d, hd, hb (reseeks_of_marked hm)⟩
  · have hport : u.live.port q =
        { ((s.popRequest p).live.port q).takes
            ((if (s.live.port q).subs.clock then
                [.clock .set t s.clock.run s.clock.rate (some p) s.clock.waitList.length] else []) ++
              order.flatMap (toldTo (clockSetTold t) v.live q)) with
          response := (u.live.port q).response } := by
      have hset := port_notifyClock .set { s.popRequest p with clock := { s.clock with instant := t } } q
      rw [show ({ s.popRequest p with clock := { s.clock with instant := t } } : State).live = (s.popRequest p).live
        from rfl, subs_popRequest] at hset
      rw [takes_append, ← hctl]
      refine (port_answered_response ..).trans ?_
      exact congrArg (fun x : Port => { x with response := (u.live.port q).response })
        ((hports q).trans (congrArg (fun x : Port => x.takes _) hset))
    refine ⟨_, hport, fun n hn => ?_, fun k c hc ho hs hp => ?_, fun k c hc ho hm => ?_⟩
    · obtain ⟨j, -, hn⟩ := List.mem_flatMap.1 hn
      obtain ⟨x, -, -, hn⟩ := mem_toldTo hn
      exact (clockSetTold_slot t j x n hn).imp_right fun ⟨_, _, _, g⟩ => g ▸ rfl
    · have hr : reseeks c = true := (reseeks_iff c).2 ⟨hp, .inl hs⟩
      have hk := (hmem k).2 ⟨c, hc, by simp [hr]⟩
      have htold : toldTo (clockSetTold t) v.live q k = reseekTold k c := by
        rw [toldTo_owner ((hcursor k).trans hc) ho, clockSetTold, if_pos hr]
      rw [reseekTold, if_pos hs] at htold
      rw [← htold]
      exact List.sublist_flatten_of_mem (List.mem_map_of_mem hk)
    · have hk := (hmem k).2 ⟨c, hc, by simp [(marked_iff s.clock.instant t c).2 hm]⟩
      exact count_triggerNotice hnd hk ((hcursor k).trans hc) ho
        (by rw [clockSetTold, if_neg (by simp [reseeks_of_marked hm])]) (clockSetTold_slot t)
  · exact hfree k c hc (by rw [← Bool.not_eq_true, reseeks_iff]; simp [hp]) (hnotmark c hs)
  · refine (hother k fun hin => ?_).trans hk
    obtain ⟨x, hx, -⟩ := (hmem k).1 hin
    exact nomatch hk.symm.trans hx
  · exact chosenInSomeOrder_of hnd hmem (fun k _ => hcursor k) hcp (clockSetTarget_hit s.clock.instant t)

end Sys2Proof.Machine
end

section
/-!
PROOF. Wall time: the advance of the clock and the expiry of the lease (R160, R164): O49.
-/

namespace Sys2Proof.Machine

open Sys2Proof

/-! ### The clock (R160, R164) -/

/-- R160: an advance keeps rate, roles and lease. -/
theorem advance_keeps (c : Clock) :
    c.advance.rate = c.rate ∧ c.advance.controller = c.controller ∧ c.advance.waitList = c.waitList ∧
      c.advance.leasePeriod = c.leasePeriod ∧ c.advance.leaseLeft = c.leaseLeft := by
  unfold Clock.advance
  split_ifs <;> exact ⟨rfl, rfl, rfl, rfl, rfl⟩

theorem advance_within {c : Clock} (h : c.instant + c.rate ≤ 2 ^ 40 - 1) :
    c.advance = { c with instant := c.instant + c.rate, pacing := some 1 } := if_neg (not_lt.2 h)

theorem advance_limit {c : Clock} (h : 2 ^ 40 - 1 < c.instant + c.rate) :
    c.advance = { c with instant := 2 ^ 40 - 1, run := .stopped, pacing := none } := if_pos h

/-- R163, R164: the clock passes to no port, and the old one is told. -/
theorem passClock_free {s : State} (h : s.clock.waitList = []) (p : PortId) :
    passClock (some p) s =
      notifyClock .control
        { s with
          clock := { s.clock with controller := none, leaseLeft := none }
          live := s.live.notify p (.clockLost s.clock.instant none) } := by
  have hpass : s.clock.passOn = { s.clock with controller := none, leaseLeft := none } := by
    unfold Clock.passOn
    split
    · rfl
    · rename_i q rest hq
      exact nomatch h.symm.trans hq
  unfold passClock
  rw [hpass]
  rfl

/-- R163, R164: the clock passes to the head of the waiting list, and both ports are told. -/
theorem passClock_promotes {s : State} {q : PortId} {rest : List PortId} (h : s.clock.waitList = q :: rest)
    (p : PortId) :
    passClock (some p) s =
      notifyClock .control
        { s with
          clock :=
            { s.clock with
              controller := some q, waitList := rest, leaseLeft := some (s.clock.leasePeriod * 1000) }
          live := (s.live.notify p (.clockLost s.clock.instant (some q))).notify q
            (.clockGranted s.clock.instant s.clock.run s.clock.rate s.clock.leasePeriod) } := by
  have hpass : s.clock.passOn =
      { s.clock with controller := some q, waitList := rest, leaseLeft := some (s.clock.leasePeriod * 1000) } := by
    unfold Clock.passOn
    rw [h]
    rfl
  unfold passClock
  rw [hpass]
  rfl

/-! ### The clock's new instant at a cursor (R169, R170) -/

theorem followClock_free {e : Env} {c : Cursor} (h : c.state ≠ .running ∨ c.options.pacing = .freeRun) :
    c.followClock e = c := by
  refine if_neg ?_
  rw [bound_iff]
  rintro ⟨hs, hp⟩
  rcases h with h | h
  · exact h hs
  · exact nomatch h.symm.trans hp

/-- R169, R170: a WAITING cursor with no operation takes the clock instant and reads afresh. -/
theorem followClock_waiting {e : Env} {c : Cursor} (hs : c.state = .running) (hp : c.options.pacing = .bound)
    (hw : c.waiting = true) (ho : c.op = .none) :
    ∃ lag : Bool, LagTested e.history.records e.clock.instant c lag ∧
      c.followClock e = { c with instant := some e.clock.instant, parked := false, lagging := lag } := by
  obtain ⟨lag, hlag, ht⟩ := lagTest_after e { c with instant := some e.clock.instant, parked := false }
  refine ⟨lag, ?_, ?_⟩
  · unfold LagTested at ht ⊢
    simpa [ho] using ht
  · unfold Cursor.followClock
    rw [if_pos ⟨hs, (bound_iff c).2 hp⟩, if_pos ⟨hw, ho⟩]
    exact hlag

/-- R170: any other RUNNING bound cursor is tested alone. -/
theorem followClock_tested {e : Env} {c : Cursor} (hs : c.state = .running) (hp : c.options.pacing = .bound)
    (h : c.waiting = false ∨ c.op ≠ .none) :
    ∃ lag : Bool, LagTested e.history.records e.clock.instant c lag ∧ c.followClock e = { c with lagging := lag } := by
  obtain ⟨lag, hlag, ht⟩ := lagTest_after e c
  refine ⟨lag, ht, ?_⟩
  have hn : ¬(c.waiting = true ∧ c.op = .none) := fun g => h.elim (fun x => nomatch g.1.symm.trans x) fun x => x g.2
  unfold Cursor.followClock
  rw [if_pos ⟨hs, (bound_iff c).2 hp⟩, if_neg hn]
  exact hlag

/-- R170: the LAGGING test that an advance makes, whatever else it makes of the cursor. -/
theorem followClock_lag {e : Env} {c : Cursor} (hs : c.state = .running) (hp : c.options.pacing = .bound) :
    LagTested e.history.records e.clock.instant c (c.followClock e).lagging := by
  by_cases h : c.waiting = true ∧ c.op = .none
  · obtain ⟨lag, ht, hf⟩ := followClock_waiting (e := e) hs hp h.1 h.2
    rw [hf]
    exact ht
  · obtain ⟨lag, ht, hf⟩ := followClock_tested (e := e) hs hp (by rw [← Bool.not_eq_true]; tauto)
    rw [hf]
    exact ht

theorem followClock_state (e : Env) (c : Cursor) : (c.followClock e).state = c.state := by
  by_cases h : c.state = .running ∧ c.options.pacing = .bound
  · by_cases hw : c.waiting = true ∧ c.op = .none
    · obtain ⟨_, -, hf⟩ := followClock_waiting (e := e) h.1 h.2 hw.1 hw.2
      rw [hf]
    · obtain ⟨_, -, hf⟩ := followClock_tested (e := e) h.1 h.2 (by rw [← Bool.not_eq_true]; tauto)
      rw [hf]
  · rw [followClock_free]
    cases hp : c.options.pacing <;> simp_all

theorem cursor_followClockAll (e : Env) (l : Live) (k : Slot) :
    (followClockAll e l).cursor k = (l.cursor k).map (Cursor.followClock e) := by
  simp [followClockAll, Live.cursor]

/-- R173: the clock mark of an advance finds an ARMED cursor as it stood. -/
theorem marked_followClock {e : Env} {before after : Nat} {c : Cursor}
    (h : Machine.marked before after (c.followClock e) = true) :
    c.followClock e = c ∧ MarkReaches before after c := by
  have hm := (marked_iff _ _ _).1 h
  have hsame : c.followClock e = c := followClock_free (.inl fun hs => by
    have := hm.1
    rw [followClock_state, hs] at this
    exact nomatch this)
  exact ⟨hsame, hsame ▸ hm⟩

theorem followClock_of_reached {e : Env} {before after : Nat} {c : Cursor} (h : MarkReaches before after c) :
    c.followClock e = c := followClock_free (.inl fun hs => nomatch h.1.symm.trans hs)

/-- R173: the clock marks of an advance are those of the cursors as they stood. -/
theorem marked_map_followClock (e : Env) (before after : Nat) (x : Option Cursor) :
    (∃ c, x.map (Cursor.followClock e) = some c ∧ Machine.marked before after c = true) ↔
      ∃ c, x = some c ∧ MarkReaches before after c := by
  cases x with
  | none => simp
  | some c =>
    constructor
    · rintro ⟨d, hd, hm⟩
      obtain rfl := Option.some.inj hd
      exact ⟨c, rfl, (marked_followClock hm).2⟩
    · rintro ⟨d, hd, hm⟩
      obtain rfl := Option.some.inj hd
      exact ⟨c, by rw [Option.map_some, followClock_of_reached hm], (marked_iff _ _ _).2 hm⟩

/-! ### An advance (R160) -/

theorem live_notifyClock_cursor (cause : ClockCause) (s : State) (k : Slot) :
    (notifyClock cause s).live.cursor k = s.live.cursor k := cursor_notifyWhere _ _ _ k

/-- R160, R167: the state in which an advance reaches the cursors: the clock moved, and LIMIT told where it is met. -/
def advanced (s : State) : State :=
  let t := { s with clock := s.clock.advance }
  if decide (Config.maxGrid < s.clock.instant + s.clock.rate) then notifyClock .limit t else t

theorem advanced_keeps (s : State) :
    (advanced s).clock = s.clock.advance ∧ (advanced s).history = s.history ∧ (advanced s).tables = s.tables ∧
      (advanced s).contexts = s.contexts ∧ (advanced s).gaps = s.gaps ∧ (advanced s).merge = s.merge ∧
      (advanced s).resetLow = s.resetLow ∧ (advanced s).pending = s.pending ∧
      (advanced s).live.checkpoints = s.live.checkpoints ∧
      ∀ k, (advanced s).live.cursor k = s.live.cursor k := by
  unfold advanced
  dsimp only
  split_ifs
  · exact ⟨rfl, rfl, rfl, rfl, rfl, rfl, rfl, rfl, rfl, fun k => live_notifyClock_cursor _ _ k⟩
  · exact ⟨rfl, rfl, rfl, rfl, rfl, rfl, rfl, rfl, rfl, fun _ => rfl⟩

theorem advanced_port (s : State) (q : PortId) :
    (advanced s).live.port q = (s.live.port q).takes
      (if (s.live.port q).subs.clock ∧ 2 ^ 40 - 1 < s.clock.instant + s.clock.rate then
        [.clock .limit (2 ^ 40 - 1) .stopped s.clock.rate s.clock.controller s.clock.waitList.length] else []) := by
  unfold advanced
  dsimp only
  by_cases hlim : 2 ^ 40 - 1 < s.clock.instant + s.clock.rate
  · have hd : decide (Config.maxGrid < s.clock.instant + s.clock.rate) = true := decide_eq_true hlim
    rw [hd, if_pos rfl, port_notifyClock, advance_limit hlim]
    simp only [hlim, and_true]
    rfl
  · have hd : decide (Config.maxGrid < s.clock.instant + s.clock.rate) = false := decide_eq_false hlim
    rw [hd, if_neg (by simp), if_neg (fun g => hlim g.2)]
    rfl

theorem clockAdvance_eq (s : State) : clockAdvance s = clockMarks s.clock.instant (followers (advanced s)) := rfl

/-- R160, R173: an advance at the cursors: the followers, and then the clock marks in some order. -/
theorem clockAdvance_reaches (s : State) :
    let n := s.clock.advance.instant
    let e := (advanced s).env
    ∃ order : List Slot, order.Nodup ∧
      (∀ k, k ∈ order ↔ ∃ c, s.live.cursor k = some c ∧ MarkReaches s.clock.instant n c) ∧
      (∀ k, k ∉ order → (clockAdvance s).live.cursor k = (s.live.cursor k).map (Cursor.followClock e)) ∧
      (∀ k c, s.live.cursor k = some c → MarkReaches s.clock.instant n c →
        ∃ d, (clockAdvance s).live.cursor k = some d ∧ Triggered s n c d) ∧
      (∀ q, (clockAdvance s).live.port q =
        ((advanced s).live.port q).takes (order.flatMap (toldTo (triggerTold n) (followers (advanced s)).live q))) ∧
      (clockAdvance s).live.checkpoints =
        order.foldl (chosenAt (triggerRebuild n) (followers (advanced s)).live) s.live.checkpoints ∧
      ∀ k ∈ order, (followers (advanced s)).live.cursor k = s.live.cursor k := by
  intro n e
  obtain ⟨hclock, hhist, -, -, -, -, -, -, hcp0, hcur⟩ := advanced_keeps s
  have hfollow : ∀ k, (followers (advanced s)).live.cursor k = (s.live.cursor k).map (Cursor.followClock e) := fun k => by
    rw [← hcur k]
    exact cursor_followClockAll e _ k
  have hsweep : Sweeps (trigger (followers (advanced s)).env) (Machine.marked s.clock.instant n) s.live.checkpoints
      (triggerRebuild n) (triggerTold n) (Triggered s n) := by
    have := trigger_sweeps (s := s) (e := (followers (advanced s)).env) hhist (hit := Machine.marked s.clock.instant n)
      fun c hc => ((marked_iff _ _ _).1 hc).1
    rwa [show (followers (advanced s)).env.clock.instant = n from congrArg Clock.instant hclock] at this
  obtain ⟨order, hnd, hmem, hother, hhit, hports, hcp⟩ := hsweep.inFreeOrder (l := (followers (advanced s)).live)
    (hcp0 ▸ SameButStamps.refl _)
  have hmarks : ∀ k, k ∈ order ↔ ∃ c, s.live.cursor k = some c ∧ MarkReaches s.clock.instant n c := fun k => by
    rw [hmem k, hfollow k]
    exact marked_map_followClock e _ _ _
  have hstood : ∀ k c, s.live.cursor k = some c → MarkReaches s.clock.instant n c →
      (followers (advanced s)).live.cursor k = some c := fun k c hc hm => by
    rw [hfollow k, hc, Option.map_some, followClock_of_reached hm]
  have hadvance : clockAdvance s = (followers (advanced s)).withLive (inFreeOrder
      ((followers (advanced s)).live.slotsWhere (Machine.marked s.clock.instant n))
      (trigger (followers (advanced s)).env) (followers (advanced s)).live) := by
    rw [clockAdvance_eq, clockMarks, show (followers (advanced s)).clock.instant = n from congrArg Clock.instant hclock]
  rw [hadvance]
  refine ⟨order, hnd, hmarks, fun k hk => (hother k hk).trans (hfollow k),
    fun k c hc hm => hhit k c (hstood k c hc hm) ((marked_iff _ _ _).2 hm), hports, hcp.trans (by rw [← hcp0]; rfl),
    fun k hk => ?_⟩
  obtain ⟨c, hc, hm⟩ := (hmarks k).1 hk
  exact (hstood k c hc hm).trans hc.symm

theorem clockAdvance_keeps (s : State) :
    (clockAdvance s).clock = s.clock.advance ∧ (clockAdvance s).history = s.history ∧
      (clockAdvance s).tables = s.tables ∧ (clockAdvance s).contexts = s.contexts ∧
      (clockAdvance s).gaps = s.gaps ∧ (clockAdvance s).merge = s.merge ∧
      (clockAdvance s).resetLow = s.resetLow ∧ (clockAdvance s).pending = s.pending := by
  obtain ⟨h1, h2, h3, h4, h5, h6, h7, h8, -⟩ := advanced_keeps s
  exact ⟨h1, h2, h3, h4, h5, h6, h7, h8⟩

theorem step_idle {s : State} (h : s.pending = []) : Machine.step s = .next (idle s) := by
  unfold Machine.step
  split
  · rfl
  · rename_i c rest hc
    exact nomatch h.symm.trans hc

/-- Settles O49: a step lets a millisecond pass or takes a timer's event; an advance reaches the followers and then the
clock marks; a lease expiry passes the clock on. -/
theorem wallTimePasses : Obligations.WallTimePasses := by
  unfold Obligations.WallTimePasses
  refine ⟨fun s hp => ?_, fun s hreset hrun => ?_, fun s p hreset hlease hctl => ?_⟩
  · exact step_idle hp
  · let v : State := { s with clock := s.clock.spend (s.clock.pacing.getD 0) }
    have hexec : exec .clockAdvance s = .next (clockAdvance v) :=
      congrArg Host.Outcome.next (if_neg (by simp [hreset, hrun]))
    obtain ⟨hrate, hctl, hwaits, hperiod, hlease⟩ := advance_keeps v.clock
    obtain ⟨hclock, hkeeps⟩ := clockAdvance_keeps v
    obtain ⟨order, hnd, hmem, hother, hhit, hports, hcp, hstood⟩ := clockAdvance_reaches v
    have hinst : (advanced v).env.clock.instant = v.clock.advance.instant := congrArg Clock.instant (advanced_keeps v).1
    have hrecords : (advanced v).env.history = s.history := (advanced_keeps v).2.1
    have hfollow : ∀ k c, s.live.cursor k = some c → ¬MarkReaches s.clock.instant v.clock.advance.instant c →
        (clockAdvance v).live.cursor k = some (c.followClock (advanced v).env) := by
      intro k c hc hm
      refine (hother k fun hk => ?_).trans (congrArg (Option.map _) hc)
      obtain ⟨x, hx, hm'⟩ := (hmem k).1 hk
      obtain rfl := Option.some.inj (hc.symm.trans hx)
      exact hm hm'
    have hnot : ∀ c : Cursor, c.state = .running → ¬MarkReaches s.clock.instant v.clock.advance.instant c :=
      fun c hs hm => nomatch hm.1.symm.trans hs
    refine ⟨_, hexec, ?_⟩
    rw [hclock]
    refine ⟨hrate, hctl, hwaits, hperiod, hlease, fun hw => ?_, fun hl => ?_, fun k c hc hs hm => ?_, hhit, fun q => ?_,
      ?_, fun k hk => ?_, fun k c hc hs hp hw ho => ?_, fun k c hc hs hp => ?_, hkeeps⟩
    · rw [advance_within (c := v.clock) hw]
      exact ⟨rfl, hrun, rfl⟩
    · rw [advance_limit (c := v.clock) hl]
      exact ⟨rfl, rfl, rfl⟩
    · rw [hfollow k c hc hm, followClock_free hs]
    · refine ⟨_, ?_, triggersTold_of hnd (hit := Machine.marked s.clock.instant v.clock.advance.instant) (fun k => ?_)
        hstood (marked_iff _ _) _ q⟩
      · rw [hports q, advanced_port, takes_append]
        rfl
      · simp only [marked_iff]
        exact hmem k
    · refine chosenInSomeOrder_of hnd (hit := Machine.marked s.clock.instant v.clock.advance.instant) (fun k => ?_)
        hstood hcp fun c => ?_
      · simp only [marked_iff]
        exact hmem k
      · by_cases hm : MarkReaches s.clock.instant v.clock.advance.instant c
        · rw [if_pos ((marked_iff _ _ c).2 hm)]
          exact if_pos hm
        · rw [if_neg fun g => hm ((marked_iff _ _ c).1 g)]
          exact if_neg hm
    · refine (hother k fun hin => ?_).trans (congrArg (Option.map _) hk)
      obtain ⟨x, hx, -⟩ := (hmem k).1 hin
      exact nomatch hk.symm.trans hx
    · obtain ⟨lag, -, hf⟩ := followClock_waiting (e := (advanced v).env) hs hp hw ho
      rw [hfollow k c hc (hnot c hs), hf, hinst]
      exact ⟨_, rfl, rfl, rfl, rfl, rfl, hs⟩
    · have hlag := followClock_lag (e := (advanced v).env) hs hp
      rw [hinst, hrecords] at hlag
      refine ⟨_, hfollow k c hc (hnot c hs), hlag, fun h => ?_⟩
      obtain ⟨lag, -, hf⟩ := followClock_tested (e := (advanced v).env) hs hp h
      rw [hf]
  · have hexec : exec .leaseExpiry s = .next (passClock (some p) s) := by
      refine congrArg Host.Outcome.next ?_
      rw [if_neg (by simp [hreset, hlease]), expireLease, hctl]
    refine ⟨fun hw => ?_, fun q rest hw => ?_⟩
    · rw [hexec, passClock_free hw]
      rfl
    · rw [hexec, passClock_promotes hw]
      rfl

end Sys2Proof.Machine
end

section
/-!
PROOF. The reads of a probe and the items of a snapshot (R123, R155 to R157): O53.
-/

namespace Sys2Proof.Machine

open Sys2Proof

/-! ### An event at one slot -/

/-- What an event leaves that changes the live part at one cursor and its owner's port. -/
theorem withLive_leaves {s : State} {k : Slot} {p : PortId} {l : Live} (h : Local k p s.live l) :
    SameStore s (s.withLive l) ∧ OthersSame s (s.withLive l) k p :=
  ⟨⟨rfl, rfl, rfl, rfl, rfl, rfl, rfl, rfl⟩, h⟩

theorem SameSetting.refl (c : Cursor) : SameSetting c c := ⟨rfl, rfl, rfl, rfl, rfl, rfl⟩

theorem SameSetting.trans {a b c : Cursor} (h : SameSetting a b) (g : SameSetting b c) : SameSetting a c := by
  obtain ⟨h1, h2, h3, h4, h5, h6⟩ := h
  obtain ⟨g1, g2, g3, g4, g5, g6⟩ := g
  exact ⟨g1.trans h1, g2.trans h2, g3.trans h3, g4.trans h4, g5.trans h5, g6.trans h6⟩

/-- An event at one slot that keeps the cursor's setting, and tells completed batches alone. -/
def Proceeds (k : Slot) (c : Cursor) (l m : Live) : Prop :=
  Local k c.owner l m ∧ BatchesTold (· = c.owner) l m ∧ ∃ d, m.cursor k = some d ∧ SameSetting c d

theorem Proceeds.rests {k : Slot} {c : Cursor} {l : Live} (h : l.cursor k = some c) : Proceeds k c l l :=
  ⟨Local.refl k _ l, BatchesTold.of_ports rfl, c, h, SameSetting.refl c⟩

/-- The cursor may be changed first. -/
theorem Proceeds.after {k : Slot} {c x : Cursor} {l m : Live} (h : Proceeds k x (l.setCursor k x) m)
    (hx : SameSetting c x) : Proceeds k c l m := by
  obtain ⟨h1, h2, d, h3, h4⟩ := h
  rw [hx.1] at h1 h2
  exact ⟨(Local.setCursor k _ l x).trans h1, (BatchesTold.of_ports rfl).trans h2, d, h3, hx.trans h4⟩

theorem atBoundary_proceeds (e : Env) {k : Slot} {l : Live} {c : Cursor} (h : l.cursor k = some c) :
    Proceeds k c l (atBoundary e k l) := ⟨atBoundary_local e h, atBoundary_told e h, atBoundary_setting e h⟩

theorem becomeHeld_proceeds {k : Slot} {l : Live} {c : Cursor} (h : l.cursor k = some c) :
    Proceeds k c l (becomeHeld k l) := by
  refine ⟨becomeHeld_local h, ?_, _, (becomeHeld_cursor h).1, rfl, rfl, rfl, rfl, rfl, rfl⟩
  unfold becomeHeld
  rw [modify_some _ h]
  have told := flush_told (cursor_setCursor_same l k
    { c.leaveRunning with state := .held, op := .none, pendingHold := none, chain := false })
  exact (BatchesTold.of_ports rfl).trans told

theorem kickProbe_proceeds (e : Env) {k : Slot} {l : Live} {c : Cursor} (h : l.cursor k = some c) :
    Proceeds k c l (kickProbe e k l) := by
  obtain ⟨ps, hps, -, hports, hlocal⟩ := kickProbe_cursor e h c.owner
  exact ⟨hlocal, BatchesTold.of_ports hports, _, hps, rfl, rfl, rfl, rfl, rfl, rfl⟩

/-! ### What follows the last probe (R156, R157) -/

/-- R108: a seek with its probes served leads to the step boundary where it is chained, and else to HELD. -/
theorem finishSeek_chained (e : Env) {k : Slot} {l : Live} {c : Cursor} (h : l.cursor k = some c) (hc : c.chain = true) :
    finishSeek e k l =
      atBoundary e k (l.setCursor k { c with state := .running, chain := false, op := .none }) := by
  unfold finishSeek
  rw [withCursor_some _ h, if_pos hc]

theorem finishSeek_unchained (e : Env) {k : Slot} {l : Live} {c : Cursor} (h : l.cursor k = some c)
    (hc : c.chain = false) : finishSeek e k l = becomeHeld k l := by
  unfold finishSeek
  rw [withCursor_some _ h, if_neg (by simp [hc])]

theorem finishSeek_proceeds (e : Env) {k : Slot} {l : Live} {c : Cursor} (h : l.cursor k = some c) :
    Proceeds k c l (finishSeek e k l) := by
  cases hc : c.chain with
  | true =>
    rw [finishSeek_chained e h hc]
    exact Proceeds.after (atBoundary_proceeds e (cursor_setCursor_same l k _)) ⟨rfl, rfl, rfl, rfl, rfl, rfl⟩
  | false =>
    rw [finishSeek_unchained e h hc]
    exact becomeHeld_proceeds h

theorem afterProbes_seeks (e : Env) {k : Slot} {l : Live} {c : Cursor} (h : l.cursor k = some c)
    (hs : c.state = .seeking) (ho : c.op = .serving) : afterProbes e k l = finishSeek e k l := by
  unfold afterProbes
  rw [withCursor_some _ h, hs, ho]

theorem afterProbes_runs (e : Env) {k : Slot} {l : Live} {c : Cursor} (h : l.cursor k = some c)
    (hs : c.state = .running) (ho : c.op = .none) : afterProbes e k l = atBoundary e k l := by
  unfold afterProbes
  rw [withCursor_some _ h, hs, ho]

theorem afterProbes_rests (e : Env) {k : Slot} {l : Live} {c : Cursor} (h : l.cursor k = some c)
    (h1 : ¬(c.state = .seeking ∧ c.op = .serving)) (h2 : ¬(c.state = .running ∧ c.op = .none)) :
    afterProbes e k l = l := by
  unfold afterProbes
  rw [withCursor_some _ h]
  split
  · rename_i hs ho
    exact absurd ⟨hs, ho⟩ h1
  · rename_i hs ho
    exact absurd ⟨hs, ho⟩ h2
  · rfl

theorem afterProbes_proceeds (e : Env) {k : Slot} {l : Live} {c : Cursor} (h : l.cursor k = some c) :
    Proceeds k c l (afterProbes e k l) := by
  by_cases h1 : c.state = .seeking ∧ c.op = .serving
  · rw [afterProbes_seeks e h h1.1 h1.2]
    exact finishSeek_proceeds e h
  · by_cases h2 : c.state = .running ∧ c.op = .none
    · rw [afterProbes_runs e h h2.1 h2.2]
      exact atBoundary_proceeds e h
    · rw [afterProbes_rests e h h1 h2]
      exact Proceeds.rests h

/-! ### The read of a probe (R155) -/

theorem exec_probeRead {s : State} (h : s.resetLow = false) (k : Slot) :
    exec (.probeRead k) s = .next (s.withLive (probeRead s.env k s.live)) :=
  congrArg Host.Outcome.next (if_neg (by simp [h]))

/-- R155: a computing probe that has a record to read reads it. -/
theorem probeRead_reads {e : Env} {k : Slot} {l : Live} {c : Cursor} {q : Probe} {rest : List Probe} {w : ProbeWork}
    {r : Record} (h : l.cursor k = some c) (hp : c.probes = q :: rest) (hw : q.work = some w)
    (hr : probeNext e q w = some r) :
    probeRead e k l = l.setCursor k
      { c with
        probes :=
          { q with
            work := some
              { w with
                lastRead := some r.key
                answer := { state := .known r.state, time := some r.time, commit := some r.commit
                            quality := some r.quality } } } :: rest } := by
  unfold probeRead
  rw [withCursor_some _ h, hp]
  dsimp only
  rw [hw]
  dsimp only
  rw [hr]

/-- R155: the live part once the front probe has answered and left the queue. -/
def probeAnswered (e : Env) (k : Slot) (c : Cursor) (q : Probe) (rest : List Probe) (w : ProbeWork) (l : Live) : Live :=
  (l.setCursor k { c with probes := rest }).notify c.owner
    (.probeResult k q.tag q.point q.instant (probeAnswer e w))

theorem probeAnswered_leaves (e : Env) (k : Slot) (c : Cursor) (q : Probe) (rest : List Probe) (w : ProbeWork) (l : Live) :
    let m := probeAnswered e k c q rest w l
    m.cursor k = some { c with probes := rest } ∧ m.checkpoints = l.checkpoints ∧ Local k c.owner l m ∧
      m.port c.owner = (l.port c.owner).push (.probeResult k q.tag q.point q.instant (probeAnswer e w)) :=
  ⟨cursor_setCursor_same l k _, rfl, (Local.setCursor k _ l _).trans (Local.notify k _ _ _), by
    unfold probeAnswered
    rw [port_notify, if_pos rfl]
    rfl⟩

/-- R155, R156: a computing probe with no record left answers; the next one begins, or what follows the last. -/
theorem probeRead_answers {e : Env} {k : Slot} {l : Live} {c : Cursor} {q : Probe} {rest : List Probe} {w : ProbeWork}
    (h : l.cursor k = some c) (hp : c.probes = q :: rest) (hw : q.work = some w) (hr : probeNext e q w = none) :
    probeRead e k l =
      if rest = [] then afterProbes e k (probeAnswered e k c q rest w l)
      else kickProbe e k (probeAnswered e k c q rest w l) := by
  unfold probeRead
  rw [withCursor_some _ h, hp]
  dsimp only
  rw [hw]
  dsimp only
  rw [hr]
  rfl

theorem probeRead_proceeds {e : Env} {k : Slot} {l : Live} {c : Cursor} {q : Probe} {rest : List Probe} {w : ProbeWork}
    (h : l.cursor k = some c) (hp : c.probes = q :: rest) (hw : q.work = some w) (hr : probeNext e q w = none) :
    Proceeds k { c with probes := rest } (probeAnswered e k c q rest w l) (probeRead e k l) := by
  obtain ⟨hm, -⟩ := probeAnswered_leaves e k c q rest w l
  rw [probeRead_answers h hp hw hr]
  split_ifs
  · exact afterProbes_proceeds e hm
  · exact kickProbe_proceeds e hm

/-! ### The record that a probe reads, and its answer (R97, R155) -/

/-- R97, R155: a record that a probe reads. -/
def ProbeFits (q : Probe) (w : ProbeWork) (r : Record) : Prop :=
  r.point = q.point ∧ keyAfter r.key w.lastRead = true ∧ (∀ x ∈ w.chosen, x < r.time) ∧ r.time ≤ q.instant

theorem probeFits_iff (q : Probe) (w : ProbeWork) (r : Record) :
    (r.point == q.point && keyAfter r.key w.lastRead && (w.chosen.elim true fun t => decide (t < r.time)) &&
      decide (r.time ≤ q.instant)) = true ↔ ProbeFits q w r := by
  unfold ProbeFits
  cases w.chosen <;> simp [and_assoc]

theorem probeNext_none {e : Env} {q : Probe} {w : ProbeWork} :
    probeNext e q w = none ↔ ∀ r ∈ e.history.records, ¬ProbeFits q w r := by
  unfold probeNext
  simp only [List.find?_eq_none, probeFits_iff]

/-- R155: the record that a probe reads is the first that it may read, in key order. -/
theorem probeNext_some {e : Env} {q : Probe} {w : ProbeWork} {r : Record}
    (hrs : e.history.records.Pairwise fun a b => keyBefore a.key b.key = true) (h : probeNext e q w = some r) :
    r ∈ e.history.records ∧ ProbeFits q w r ∧
      ∀ x ∈ e.history.records, ProbeFits q w x → x = r ∨ keyBefore r.key x.key = true := by
  obtain ⟨hfits, front, back, hsplit, hfront⟩ := List.find?_eq_some_iff_append.1 h
  rw [hsplit] at hrs ⊢
  refine ⟨by simp, (probeFits_iff q w r).1 hfits, fun x hx hf => ?_⟩
  rcases List.mem_append.1 hx with hx | hx
  · have := hfront x hx
    rw [(probeFits_iff q w x).2 hf] at this
    exact nomatch this
  · rcases List.mem_cons.1 hx with hx | hx
    · exact .inl hx
    · exact .inr ((List.pairwise_cons.1 (List.pairwise_append.1 hrs).2.1).1 x hx)

/-- R155: a probe that has read a record answers its quality. -/
theorem probeAnswer_read (e : Env) {w : ProbeWork} (h : w.answer.quality ≠ none) : probeAnswer e w = w.answer := by
  unfold probeAnswer
  split
  · rfl
  · exact absurd ‹_› h

/-- R155: a probe that has read none answers the quality of the record it copied. -/
theorem probeAnswer_copied (e : Env) {w : ProbeWork} (h : w.answer.quality = none) :
    probeAnswer e w =
      { w.answer with
        quality := w.answer.commit.bind fun n =>
          (e.history.records.find? fun r => r.commit == n).map Record.quality } := by
  unfold probeAnswer
  rw [h]

/-- R155: the answer keeps state, time and commit number. -/
theorem probeAnswer_keeps (e : Env) (w : ProbeWork) :
    (probeAnswer e w).state = w.answer.state ∧ (probeAnswer e w).time = w.answer.time ∧
      (probeAnswer e w).commit = w.answer.commit := by
  unfold probeAnswer
  split <;> exact ⟨rfl, rfl, rfl⟩

/-- R155: the quality of the one record of a commit number. -/
theorem quality_of_commit {rs : List Record} {r : Record} (h : r ∈ rs)
    (huniq : ∀ x ∈ rs, x.commit = r.commit → x = r) :
    ((some r.commit).bind fun n => (rs.find? fun x => x.commit == n).map Record.quality) = some r.quality := by
  cases hf : rs.find? fun x => x.commit == r.commit with
  | none => exact absurd (List.find?_eq_none.1 hf r h) (by simp)
  | some x =>
    have hx : x.commit = r.commit := by simpa using List.find?_some hf
    rw [Option.bind_some, hf, huniq x (List.mem_of_find?_eq_some hf) hx]
    rfl

/-! ### The next probe, and what follows the last (R155 to R157) -/

theorem probesMayBegin_settled {c : Cursor} (h1 : c.state ≠ .seeking) (h2 : c.state ≠ .running) :
    probesMayBegin c = true := by
  unfold probesMayBegin
  cases hs : c.state <;> simp_all

/-- R156, R157: a probe waits for a rebuild, a step and a marker. -/
theorem probesMayBegin_busy {c : Cursor}
    (h : c.state = .seeking ∧ c.op ≠ .serving ∨ c.state = .running ∧ c.op ≠ .none) : probesMayBegin c = false := by
  unfold probesMayBegin
  rcases h with ⟨hs, ho⟩ | ⟨hs, ho⟩ <;> simp [hs, ho]

theorem probesMayBegin_of {c : Cursor}
    (h : c.state ≠ .seeking ∧ c.state ≠ .running ∨ c.state = .seeking ∧ c.op = .serving ∨
      c.state = .running ∧ c.op = .none) : probesMayBegin c = true := by
  rcases h with ⟨h1, h2⟩ | ⟨hs, ho⟩ | ⟨hs, ho⟩
  · exact probesMayBegin_settled h1 h2
  · simp [probesMayBegin, hs, ho]
  · simp [probesMayBegin, hs, ho]

theorem kickProbe_waits (e : Env) {k : Slot} {l : Live} {c : Cursor} (h : l.cursor k = some c)
    (hb : probesMayBegin c = false) : kickProbe e k l = l := by
  unfold kickProbe
  rw [withCursor_some _ h]
  split
  · rfl
  · simp [hb]

/-- R97, R155: the front probe begins with its choice. -/
theorem kickProbe_starts {s : State} {l : Live} {k : Slot} {c : Cursor} {q : Probe} {rest : List Probe}
    (h : l.cursor k = some c) (hc : l.checkpoints = s.live.checkpoints) (hp : c.probes = q :: rest)
    (hw : q.work = none) (hb : probesMayBegin c = true) :
    ∃ v, (kickProbe s.env k l).cursor k = some { c with probes := { q with work := some v } :: rest } ∧
      v.lastRead = none ∧ v.chosen = (s.live.checkpoints.choose q.instant).1.map Checkpoint.instant ∧
      (kickProbe s.env k l).checkpoints = (s.live.checkpoints.choose q.instant).2 := by
  obtain ⟨d, hd, heq, hbegins, hchose⟩ := kickProbe_begins (s := s) h (hc ▸ SameButStamps.refl _) hb
  simp only [ProbeBegins, ProbeChose, hp, hw, if_true, forall_const] at hbegins hchose
  rw [hbegins.2] at heq
  exact ⟨_, hd.trans (congrArg some heq), rfl, rfl, hc ▸ hchose⟩

/-- R108, R122: what the last probe of a seek leads to. -/
theorem afterProbes_seek {s : State} {k : Slot} {l : Live} {c : Cursor} (h : l.cursor k = some c)
    (hcp : l.checkpoints = s.live.checkpoints) (hp : c.probes = []) (hs : c.state = .seeking) (ho : c.op = .serving) :
    ∃ d, (afterProbes s.env k l).cursor k = some d ∧
      (c.chain = false → d.state = .held ∧ d.op = .none ∧ d.probes = [] ∧ d.image = c.image ∧
        d.instant = c.instant ∧ d.overtaken = c.overtaken) ∧
      (c.chain = true → d.chain = false ∧ AtBoundary s c d) := by
  rw [afterProbes_seeks _ h hs ho]
  cases hch : c.chain with
  | false =>
    rw [finishSeek_unchained _ h hch]
    exact ⟨_, (becomeHeld_cursor h).1, fun _ => ⟨rfl, rfl, hp, rfl, rfl, rfl⟩, fun g => nomatch g⟩
  | true =>
    rw [finishSeek_chained _ h hch]
    let x : Cursor := { c with state := .running, chain := false, op := .none }
    obtain ⟨d, hd, hcomes, hchain⟩ := atBoundary_comes (s := s) (t := s.withLive (atBoundary s.env k (l.setCursor k x)))
      (cursor_setCursor_same l k x) hcp rfl rfl rfl
    exact ⟨d, hd, fun g => (nomatch g), fun _ => ⟨hchain rfl, (hcomes.2 hp).1⟩⟩

/-- R114, R122: what the last probe of a RUNNING cursor leads to. -/
theorem afterProbes_run {s : State} {k : Slot} {l : Live} {c : Cursor} (h : l.cursor k = some c)
    (hcp : l.checkpoints = s.live.checkpoints) (hp : c.probes = []) (hs : c.state = .running) (ho : c.op = .none) :
    ∃ d, (afterProbes s.env k l).cursor k = some d ∧
      (c.redo = true ∨ ¬(c.pendingHold ≠ none ∨ c.underStep = true ∧ c.stepsLeft = 0) ∧ c.overtaken = none → d = c) ∧
      AtBoundary s c d := by
  rw [afterProbes_runs _ h hs ho]
  obtain ⟨d, hd, hbound⟩ := atBoundary_spec (s := s) h hcp hs ho hp
  refine ⟨d, hd, fun hq => ?_, hbound⟩
  rw [atBoundary_still s.env h (.inr (.inr ⟨hp, hq⟩)), h] at hd
  exact (Option.some.inj hd).symm

/-! ### The obligation -/

/-- R123, R127, R128: a SNAP item of a cursor in PUSH mode, with room, joins the outgoing queue. -/
theorem snapItem_pushed {s : State} {k : Slot} {c : Cursor} {x : PointId} {rest : List PointId} (hreset : s.resetLow = false)
    (h : s.live.cursor k = some c) (hop : c.op = .none) (hw : c.buffer.waiting = none)
    (hs : c.snap = some { todo := x :: rest, opening := false }) (hm : c.options.mode = .push)
    (hroom : c.buffer.outgoing.length < 16) :
    ∃ t, exec (.itemWritten k) s = .next t ∧ SameStore s t ∧ OthersSame s t k c.owner ∧
      t.live.cursor k = some
        { c with
          snap := if rest = [] then none else some { todo := rest, opening := false }
          buffer := c.buffer.delivered c.options rest.isEmpty (renderItem s.env c (.snap x)) } ∧
      t.live.checkpoints = s.live.checkpoints := by
  have hdue : itemDue c = true := by simp [itemDue, hw, hop, hs]
  have hitem : itemWritten s.env k s.live = writeNext s.env k s.live := by
    unfold itemWritten
    rw [withCursor_some _ h, if_pos hdue]
  have hfree : c.buffer.hasRoom c.options = true := by
    unfold Buffer.hasRoom
    rw [hm]
    exact decide_eq_true hroom
  obtain ⟨d, hd, hcp, hlocal, hwritten, -⟩ := writeNext_snap h hop hs rfl
  obtain ⟨rfl, -⟩ := hwritten hfree
  obtain ⟨h1, h2⟩ := withLive_leaves hlocal
  refine ⟨_, ?_, h1, h2, hd, hcp⟩
  rw [← hitem]
  exact congrArg Host.Outcome.next (if_neg (by simp [hreset]))

/-- R131: an item delivered in PUSH mode. -/
theorem delivered_push {o : Options} (hm : o.mode = .push) (f : Bool) (x : ItemBody) (b : Buffer) :
    b.delivered o f x =
      { b with
        waiting := none, nextNumber := (b.nextNumber + 1) % 65536
        outgoing := b.outgoing ++ [{ number := b.nextNumber, body := x }] } := if_pos hm

/-- Settles O53: a probe's read applies a record to its answer or ends it; a SNAP item is delivered. -/
theorem probesAndSnapshotsProceed : Obligations.ProbesAndSnapshotsProceed := by
  unfold Obligations.ProbesAndSnapshotsProceed
  refine ⟨fun s k c q rest w hreset hc hp hw => ⟨fun r hr => ?_, fun hr hs => ?_⟩,
    fun s k c x rest hreset hc hop hwait _ hsnap hm hroom => ?_,
    fun s q w hrs => ⟨probeNext_none, fun r hr => probeNext_some hrs hr⟩, fun s w => ?_,
    fun s k c q rest w hreset hc hp hw hr => ?_⟩
  · rw [exec_probeRead hreset, probeRead_reads hc hp hw hr]
    rfl
  · obtain ⟨hm, -, hlocal, hport⟩ := probeAnswered_leaves s.env k c q rest w s.live
    have hns : c.state ≠ .seeking ∧ c.state ≠ .running := by rcases hs with hs | hs | hs | hs <;> simp [hs]
    obtain ⟨ps, hps, hlen, hports, hkick⟩ := kickProbe_cursor s.env hm c.owner
    have hread := probeRead_answers hc hp hw hr
    by_cases hrest : rest = []
    · rw [if_pos hrest, afterProbes_rests s.env hm (fun g => hns.1 g.1) fun g => hns.2 g.1] at hread
      obtain ⟨h1, h2⟩ := withLive_leaves (hread ▸ hlocal)
      refine ⟨_, { c with probes := rest }, exec_probeRead hreset k, h1, h2, ?_,
        (congrArg (fun l => l.cursor k) hread).trans hm, rfl, rfl, rfl, rfl, rfl, rfl, rfl, rfl⟩
      exact (congrArg (fun l => l.port c.owner) hread).trans hport
    · rw [if_neg hrest] at hread
      obtain ⟨h1, h2⟩ := withLive_leaves (hread ▸ hlocal.trans hkick)
      refine ⟨_, { c with probes := ps }, exec_probeRead hreset k, h1, h2, ?_,
        (congrArg (fun l => l.cursor k) hread).trans hps, hlen, rfl, rfl, rfl, rfl, rfl, rfl, rfl⟩
      refine (congrArg (fun l => l.port c.owner) hread).trans (Eq.trans ?_ hport)
      unfold Live.port
      rw [hports]
  · obtain ⟨t, hexec, h1, h2, hd, hcp⟩ := snapItem_pushed hreset hc hop hwait hsnap hm hroom
    refine ⟨t, _, hexec, h1, h2, hd, ?_, ?_, rfl, rfl, rfl, rfl, rfl, rfl, hcp⟩
    · rw [delivered_push hm]
      rfl
    · rw [delivered_push hm]
  · obtain ⟨hstate, htime, hcommit⟩ := probeAnswer_keeps s.env w
    refine ⟨hstate, htime, hcommit, fun hq => by rw [probeAnswer_read _ hq], fun hq hn => ?_,
      fun r hmem hq hn huniq => ?_⟩
    · rw [probeAnswer_copied _ hq, hn]
      rfl
    · rw [probeAnswer_copied _ hq, hn]
      exact quality_of_commit hmem huniq
  · obtain ⟨hm, hcp, hlocal, hport⟩ := probeAnswered_leaves s.env k c q rest w s.live
    obtain ⟨hloc, htold, d, hd, hown, hopt, hwatch, -⟩ := probeRead_proceeds hc hp hw hr
    obtain ⟨h1, h2⟩ := withLive_leaves (hlocal.trans hloc)
    obtain ⟨more, hmore, hkind, -⟩ := htold c.owner
    have hread := probeRead_answers hc hp hw hr
    refine ⟨_, d, exec_probeRead hreset k, h1, h2, hd, hopt, hwatch, hown, ⟨more, ?_, hkind⟩, ?_, ?_, ?_, ?_, ?_⟩
    · rw [takes_cons, ← hport]
      exact hmore
    · rintro rfl h1 h2
      rw [if_pos rfl, afterProbes_rests s.env hm (fun g => h1 g.1) fun g => h2 g.1] at hread
      rw [hread, hm] at hd
      exact (Option.some.inj hd).symm
    · rintro x xs rfl hx
      rw [if_neg (List.cons_ne_nil x xs)] at hread
      rw [State.withLive, hread]
      rw [hread] at hd
      refine ⟨fun hb => ?_, fun hb => ?_⟩
      · obtain ⟨v, hv, hlast, hchosen, htable⟩ :=
          kickProbe_starts (s := s) hm hcp rfl hx (probesMayBegin_of (c := { c with probes := x :: xs }) hb)
        exact ⟨v, Option.some.inj (hd.symm.trans hv), hlast, hchosen, htable⟩
      · have hwaits := kickProbe_waits s.env hm (probesMayBegin_busy (c := { c with probes := x :: xs }) hb)
        rw [hwaits] at hd ⊢
        exact ⟨Option.some.inj (hd.symm.trans hm), hcp⟩
    · rintro rfl hs ho
      rw [if_pos rfl] at hread
      obtain ⟨y, hy, hheld, hchained⟩ := afterProbes_seek (s := s) hm hcp rfl hs ho
      rw [hread, hy] at hd
      obtain rfl := Option.some.inj hd
      exact ⟨hheld, hchained⟩
    · rintro rfl hs ho
      rw [if_pos rfl] at hread
      obtain ⟨y, hy, hquiet, hbound⟩ := afterProbes_run (s := s) hm hcp rfl hs ho
      rw [hread, hy] at hd
      obtain rfl := Option.some.inj hd
      exact ⟨hquiet, hbound⟩
    · rintro rfl hb
      have h1 : ¬(c.state = .seeking ∧ c.op = .serving) := by rcases hb with ⟨g, h⟩ | ⟨g, h⟩ <;> simp [g, h]
      have h2 : ¬(c.state = .running ∧ c.op = .none) := by rcases hb with ⟨g, h⟩ | ⟨g, h⟩ <;> simp [g, h]
      rw [if_pos rfl, afterProbes_rests s.env hm h1 h2] at hread
      rw [hread, hm] at hd
      exact (Option.some.inj hd).symm

end Sys2Proof.Machine
end

section
/-!
PROOF. The checkpoint that a read creates (R84 to R87).
-/

namespace Sys2Proof.Machine

open Sys2Proof

/-- R87: the smallest stamp so far stays at or below every stamp that has been seen. -/
theorem foldl_smallerStamp_le (t : CheckpointTable) (xs : List CkptId) (b : CkptId) :
    (t.entries.get (xs.foldl (smallerStamp t) b)).stamp ≤ (t.entries.get b).stamp ∧
      ∀ j ∈ xs, (t.entries.get (xs.foldl (smallerStamp t) b)).stamp ≤ (t.entries.get j).stamp := by
  induction xs generalizing b with
  | nil => exact ⟨le_rfl, fun _ hj => absurd hj List.not_mem_nil⟩
  | cons x xs ih =>
    obtain ⟨hb, hxs⟩ := ih (smallerStamp t b x)
    have hstep : (t.entries.get (smallerStamp t b x)).stamp ≤ (t.entries.get b).stamp ∧
        (t.entries.get (smallerStamp t b x)).stamp ≤ (t.entries.get x).stamp := by
      unfold smallerStamp
      split_ifs with h
      · exact ⟨h.le, le_rfl⟩
      · exact ⟨le_rfl, not_lt.1 h⟩
    refine ⟨hb.trans hstep.1, fun j hj => ?_⟩
    rcases List.mem_cons.1 hj with rfl | hj
    · exact hb.trans hstep.2
    · exact hxs j hj

/-- R87: the victim is the invalid entry of lowest index, or, with every entry valid, one of smallest stamp. -/
theorem victim_cases (t : CheckpointTable) :
    ((t.entries.get t.victim).valid = false ∧ ∀ j : CkptId, j.val < t.victim.val → (t.entries.get j).valid = true) ∨
      (∀ j : CkptId, (t.entries.get j).valid = true) ∧
        ∀ j : CkptId, (t.entries.get t.victim).stamp ≤ (t.entries.get j).stamp := by
  unfold CheckpointTable.victim
  cases hf : allCheckpoints.find? fun i => !(t.entries.get i).valid with
  | none =>
    have hall := List.find?_eq_none.1 hf
    exact .inr ⟨fun j => by simpa using hall j (mem_allCheckpoints j),
      fun j => (foldl_smallerStamp_le t allCheckpoints 0).2 j (mem_allCheckpoints j)⟩
  | some i =>
    obtain ⟨hi, front, back, hsplit, hfront⟩ := List.find?_eq_some_iff_append.1 hf
    have hasc : (front ++ i :: back).Pairwise (· < ·) := hsplit ▸ List.pairwise_lt_finRange 64
    refine .inl ⟨by simpa using hi, fun j hj => ?_⟩
    rcases List.mem_append.1 (hsplit ▸ mem_allCheckpoints j) with h | h
    · simpa using hfront j h
    · exfalso
      rcases List.mem_cons.1 h with rfl | h
      · exact lt_irrefl _ hj
      · exact lt_asymm hj ((List.pairwise_cons.1 (List.pairwise_append.1 hasc).2.1).1 j h)

/-- R84, R86, R87: the creation of a checkpoint, as the statements say it. -/
theorem create_created (t : CheckpointTable) (b : Nat) (image : Image) (position : Option Key) :
    Created b image position t (t.create b image position) := by
  refine ⟨t.ready, ready_advancing t, rfl, t.victim, victim_cases t, ?_, fun j hj => ?_⟩
  · rw [create_entry, if_pos rfl]
  · rw [create_entry, if_neg hj]
    exact (ready_entry t j).symm

/-- R85: the eligible boundary is the least one, where it lies within the limit. -/
theorem eligible_iff {iv : Nat} (hiv : 1 ≤ iv) {standing : Option Nat} {within : Nat → Prop}
    (hdown : ∀ a b, a ≤ b → within b → within a) (b : Nat) :
    Eligible iv standing within b ↔ b = leastBoundary iv standing ∧ within b := by
  obtain ⟨hdvd, hstand, hleast⟩ := leastBoundary_least hiv standing
  constructor
  · rintro ⟨h1, h2, h3, h4⟩
    have hle := hleast b h1 h2
    exact ⟨le_antisymm (h4 _ hdvd hstand (hdown _ b hle h3)) hle, h3⟩
  · rintro ⟨rfl, h⟩
    exact ⟨hdvd, hstand, h, fun d hd hs _ => hleast d hd hs⟩

/-- R84 to R87: the creation at a read, by what the read finds eligible. -/
theorem checkpointAtRead_rule {study : Study} {c : Cursor} {standing : Option Nat} {within : Nat → Prop}
    (hdown : ∀ a b, a ≤ b → within b → within a) {boundary : Option Nat}
    (hb : ∀ b, boundary = some b ↔ b = leastBoundary study.intervalMicros standing ∧ within b) (l : Live) :
    CheckpointRule study c standing within l.checkpoints (checkpointAtRead boundary c l).checkpoints := by
  intro hinterval
  have hiv : 1 ≤ study.interval * 1000000 := by omega
  have hel : ∀ b, Eligible (study.interval * 1000000) standing within b ↔ boundary = some b := fun b =>
    (eligible_iff hiv hdown b).trans (hb b).symm
  simp only [hel]
  refine ⟨fun b hbound ho hfree => ?_, fun hnot => ?_⟩
  · have hholds : l.checkpoints.holds b = false := by
      rw [← Bool.not_eq_true, holds_iff]
      rintro ⟨i, hv, hi⟩
      exact hfree i hv hi
    rw [hbound]
    unfold checkpointAtRead
    dsimp only
    rw [if_neg (by simp [ho, hholds])]
    exact create_created ..
  · unfold checkpointAtRead
    split
    · rfl
    · rename_i b
      refine congrArg Live.checkpoints (if_pos ?_)
      rw [Bool.or_eq_true, holds_iff, Option.isSome_iff_ne_none]
      rcases hnot with h | h | ⟨d, hd, hi⟩
      · exact .inl h
      · exact absurd rfl (h b)
      · obtain rfl := Option.some.inj hd
        exact .inr hi

theorem checkpointAtRead_before (study : Study) (c : Cursor) (standing : Option Nat) (t : Nat) (l : Live) :
    CheckpointRule study c standing (· < t) l.checkpoints
      (checkpointAtRead (boundaryBefore study.intervalMicros standing t) c l).checkpoints :=
  checkpointAtRead_rule (fun _ _ h g => lt_of_le_of_lt h g) (fun _ => boundaryBefore_iff) l

theorem checkpointAtRead_upTo (study : Study) (c : Cursor) (standing : Option Nat) (t : Nat) (l : Live) :
    CheckpointRule study c standing (· ≤ t) l.checkpoints
      (checkpointAtRead (boundaryUpTo study.intervalMicros standing t) c l).checkpoints :=
  checkpointAtRead_rule (fun _ _ h g => le_trans h g) (fun _ => boundaryUpTo_iff) l

/-- R86: an overtaken cursor creates none. -/
theorem checkpointAtRead_overtaken (boundary : Option Nat) {c : Cursor} (h : c.overtaken ≠ none) (l : Live) :
    checkpointAtRead boundary c l = l := by
  unfold checkpointAtRead
  split
  · rfl
  · exact if_pos (by simp [Option.isSome_iff_ne_none.2 h])

/-- R86: the creation changes the Checkpoint Table alone. -/
theorem checkpointAtRead_ports (boundary : Option Nat) (c : Cursor) (l : Live) :
    (checkpointAtRead boundary c l).ports = l.ports := by
  unfold checkpointAtRead
  split
  · rfl
  · split_ifs <;> rfl

theorem checkpointAtRead_local (boundary : Option Nat) (c : Cursor) (k : Slot) (p : PortId) (l : Live) :
    Local k p l (checkpointAtRead boundary c l) :=
  ⟨fun j _ => checkpointAtRead_cursor boundary c l j, fun q _ => by
    unfold Live.port
    rw [checkpointAtRead_ports]⟩

end Sys2Proof.Machine
end

section
/-!
PROOF. The reads of a rebuild and its completion (R92, R93, R108, R116, R122): O52.
-/

namespace Sys2Proof.Machine

open Sys2Proof

/-! ### The reference time and delivery (R129) -/

theorem delivered_refTime (o : Options) (f : Bool) (x : ItemBody) (b : Buffer) (r : Option Nat) :
    ({ b with refTime := r } : Buffer).delivered o f x = { b.delivered o f x with refTime := r } := by
  unfold Buffer.delivered Buffer.completes Buffer.batchWith
  dsimp only
  split_ifs <;> rfl

theorem flushed_refTime (o : Options) (b : Buffer) (r : Option Nat) :
    ({ b with refTime := r } : Buffer).flushed o = { b.flushed o with refTime := r } := by
  unfold Buffer.flushed
  dsimp only
  split_ifs <;> rfl

/-! ### The read of a rebuild (R92) -/

theorem exec_rebuildRead {s : State} (h : s.resetLow = false) (k : Slot) :
    exec (.rebuildRead k) s = .next (s.withLive (rebuildRead s.env k s.live)) :=
  congrArg Host.Outcome.next (if_neg (by simp [h]))

theorem nextUpTo_of_le {pos : Option Key} {t : Nat} {rs : List Record} {r : Record} (h : nextAfter pos rs = some r)
    (hle : r.time ≤ t) : nextUpTo pos t rs = some r := by
  unfold nextUpTo
  rw [h]
  exact if_pos hle

theorem nextUpTo_of_lt {pos : Option Key} {t : Nat} {rs : List Record} (h : ∀ r ∈ nextAfter pos rs, t < r.time) :
    nextUpTo pos t rs = none := by
  unfold nextUpTo
  split
  · rfl
  · rename_i r hr
    exact if_neg (not_le.2 (h r hr))

/-- R92: a rebuild reads a record. -/
theorem rebuildRead_applies {e : Env} {k : Slot} {l : Live} {c : Cursor} {f : Rebuild} {r : Record}
    (h : l.cursor k = some c) (hop : c.op = .rebuild f) (hn : nextUpTo c.position f.target e.history.records = some r) :
    rebuildRead e k l =
      (checkpointAtRead (boundaryBefore e.tables.study.intervalMicros f.standing r.time) c l).setCursor k
        (c.rebuildApply f r) := by
  unfold rebuildRead
  rw [withCursor_some _ h, hop]
  dsimp only
  rw [hn]

/-- R93: a rebuild finds no further record. -/
theorem rebuildRead_completes {e : Env} {k : Slot} {l : Live} {c : Cursor} {f : Rebuild} (h : l.cursor k = some c)
    (hop : c.op = .rebuild f) (hn : nextUpTo c.position f.target e.history.records = none) :
    rebuildRead e k l =
      completeRebuild e k f
        (checkpointAtRead (boundaryUpTo e.tables.study.intervalMicros f.standing f.target) c l) := by
  unfold rebuildRead
  rw [withCursor_some _ h, hop]
  dsimp only
  rw [hn]

/-! ### The completion of a rebuild (R93) -/

/-- R93, R129, Table 7-2: the marker that completes a seek or a rebase. -/
def rebuildMarker (f : Rebuild) : Marker :=
  if f.kind = .seek then .seekDone f.target
  else .rebase ((f.kept.map Overtake.earliest).getD 0) ((f.kept.map Overtake.count).getD 0)

/-- R93, R129: the buffer once a rebuild has completed with room. -/
def completedBuffer (c : Cursor) (f : Rebuild) (flushes : Bool) : Buffer :=
  if f.kind = .wrap then { c.buffer with refTime := some f.target }
  else { c.buffer.delivered c.options flushes (.marker (rebuildMarker f)) with refTime := some f.target }

/-- R93, R135: the notices of the marker that completes a rebuild. -/
def completedTold (k : Slot) (c : Cursor) (f : Rebuild) (flushes : Bool) : List Notice :=
  if f.kind = .wrap then [] else c.buffer.announced k c.options flushes (.marker (rebuildMarker f))

/-- R93: the cursor once a rebuild has completed with room, its operation over. -/
def Cursor.rebuilt (c : Cursor) (f : Rebuild) : Cursor :=
  { c.completeRebuild f with op := .none, buffer := completedBuffer c f false }

/-- R108, R116, R122: how the operation of a completed rebuild goes on. -/
def rebuildGoesOn (e : Env) (k : Slot) (f : Rebuild) (l : Live) : Live :=
  if f.kind = .seek then seekWritten e k l else rebaseWritten e k l

/-- R93: a completed seek or rebase writes its marker. -/
theorem completeRebuild_emits (e : Env) {k : Slot} {l : Live} {c : Cursor} {f : Rebuild} (h : l.cursor k = some c)
    (hk : f.kind ≠ .wrap) :
    completeRebuild e k f l =
      emit e k (if f.kind = .seek then .seekDone else .rebaseDone) (.marker (rebuildMarker f)) (rebuildGoesOn e k f)
        (l.setCursor k (c.completeRebuild f)) := by
  unfold completeRebuild rebuildMarker
  rw [withCursor_some _ h]
  cases hkind : f.kind with
  | seek =>
    have hgoes : rebuildGoesOn e k f = seekWritten e k := funext fun _ => if_pos hkind
    simp [hgoes]
  | rebase =>
    have hgoes : rebuildGoesOn e k f = rebaseWritten e k := funext fun _ => if_neg (by simp [hkind])
    simp [hgoes]
  | wrap => exact absurd hkind hk

/-- R93: the live part with the marker of a rebuild written, its cursor standing as `x`. -/
def RebuildWritten (k : Slot) (c : Cursor) (f : Rebuild) (l n : Live) (x : Cursor) : Prop :=
  n.cursor k = some x ∧ n.checkpoints = l.checkpoints ∧ Local k c.owner l n ∧
    n.port c.owner = (l.port c.owner).takes (completedTold k c f false)

theorem RebuildWritten.setCursor {k : Slot} {c x : Cursor} {f : Rebuild} {l n : Live} (h : RebuildWritten k c f l n x)
    (y : Cursor) : RebuildWritten k c f l (n.setCursor k y) y := by
  obtain ⟨-, hcp, hlocal, hport⟩ := h
  exact ⟨cursor_setCursor_same n k y, hcp, hlocal.trans (Local.setCursor k _ n y), hport⟩

/-- R93, R108, R116, R122: with room a completed rebuild goes on from its marker written. -/
theorem completeRebuild_goesOn (e : Env) {k : Slot} {l : Live} {c : Cursor} {f : Rebuild} (h : l.cursor k = some c)
    (hroom : f.kind = .wrap ∨ c.buffer.hasRoom c.options = true) :
    ∃ (n : Live) (op : Op), completeRebuild e k f l = rebuildGoesOn e k f n ∧
      RebuildWritten k c f l n { c.rebuilt f with op := op } := by
  have hset : (l.setCursor k (c.completeRebuild f)).cursor k = some (c.completeRebuild f) := cursor_setCursor_same _ _ _
  by_cases hk : f.kind = .wrap
  · refine ⟨l.setCursor k (c.completeRebuild f), c.op, ?_, ?_, rfl, Local.setCursor k _ l _, ?_⟩
    · unfold completeRebuild
      rw [withCursor_some _ h]
      simp [rebuildGoesOn, hk, rebaseWritten]
    · rw [hset, Cursor.rebuilt, completedBuffer, if_pos hk]
      rfl
    · rw [completedTold, if_pos hk]
      rfl
  · obtain ⟨n, hn, hcur, hport, hcp, hlocal⟩ := emit_delivers e hset
      (if f.kind = .seek then .seekDone else .rebaseDone) (.marker (rebuildMarker f)) (rebuildGoesOn e k f)
      (hroom.resolve_left hk)
    have hflush : flushesOn (c.completeRebuild f) (.marker (rebuildMarker f)) = false := by
      unfold rebuildMarker
      split_ifs <;> rfl
    rw [hflush] at hcur hport
    refine ⟨n, (if f.kind = .seek then Op.seekDone else .rebaseDone).wrote, (completeRebuild_emits e h hk).trans hn, hcur.trans ?_, hcp, (Local.setCursor k _ l _).trans hlocal, ?_⟩
    · have hbuf := (delivered_keeps c.options false (.marker (rebuildMarker f)) (c.completeRebuild f).buffer).trans
        (delivered_refTime c.options false (.marker (rebuildMarker f)) c.buffer (some f.target))
      rw [Cursor.rebuilt, completedBuffer, if_neg hk, ← hbuf]
      rfl
    · rw [completedTold, if_neg hk]
      exact hport

/-- R134: a flush after the marker leaves what a marker that flushes leaves. -/
theorem completedBuffer_flushed (c : Cursor) {f : Rebuild} (hk : f.kind ≠ .wrap) :
    (completedBuffer c f false).flushed c.options = completedBuffer c f true := by
  rw [completedBuffer, if_neg hk, flushed_refTime, delivered_flushed, completedBuffer, if_neg hk]

theorem completedTold_flushed (k : Slot) (c : Cursor) {f : Rebuild} (hk : f.kind ≠ .wrap) :
    completedTold k c f false ++ (completedBuffer c f false).flushTold k c.options = completedTold k c f true := by
  rw [completedTold, if_neg hk, completedTold, if_neg hk, completedBuffer, if_neg hk, ← announced_flushed k c.options false]
  rfl

/-- R134, R135: the notices of a cursor that becomes HELD. -/
theorem becomeHeld_port {k : Slot} {l : Live} {c : Cursor} (h : l.cursor k = some c) :
    (becomeHeld k l).port c.owner = (l.port c.owner).takes (c.buffer.flushTold k c.options) := by
  unfold becomeHeld
  rw [modify_some _ h]
  obtain ⟨-, h2, -⟩ := flush_flushed (cursor_setCursor_same l k
    { c.leaveRunning with state := .held, op := .none, pendingHold := none, chain := false })
  exact h2

/-- R131: without room the marker waits. -/
theorem completeRebuild_waits {s : State} {k : Slot} {l : Live} {c : Cursor} {f : Rebuild} (h : l.cursor k = some c)
    (hk : f.kind ≠ .wrap) (hroom : c.buffer.hasRoom c.options = false) :
    ∃ d, (completeRebuild s.env k f l).cursor k = some d ∧
      Stalls s
        { c with
          op := if f.kind = .seek then .seekDone else .rebaseDone
          instant := some f.target, stepBase := some f.target, applied := false
          buffer := { c.buffer with waiting := some (.marker (rebuildMarker f)), refTime := some f.target }
          rebuildRecord := c.rebuildRecord.map fun x => { x with outcome := .completed } } d ∧
      (completeRebuild s.env k f l).ports = l.ports ∧
      (completeRebuild s.env k f l).checkpoints = l.checkpoints ∧ Local k c.owner l (completeRebuild s.env k f l) := by
  have hset : (l.setCursor k (c.completeRebuild f)).cursor k = some (c.completeRebuild f) := cursor_setCursor_same _ _ _
  rw [completeRebuild_emits s.env h hk]
  obtain ⟨d, hd, hstalls⟩ := emit_stalls (s := s) hset (if f.kind = .seek then .seekDone else .rebaseDone)
    (.marker (rebuildMarker f)) (rebuildGoesOn s.env k f) hroom
  obtain ⟨h1, h2, h3⟩ := emit_stalls_keeps s.env hset (if f.kind = .seek then .seekDone else .rebaseDone)
    (.marker (rebuildMarker f)) (rebuildGoesOn s.env k f) hroom
  exact ⟨d, hd, hstalls, h1, h2, (Local.setCursor k _ l _).trans h3⟩

/-! ### What a completed rebuild goes on to (R108, R114, R122) -/

theorem seekWritten_served (e : Env) {k : Slot} {l : Live} {c : Cursor} (h : l.cursor k = some c) (hp : c.probes = []) :
    seekWritten e k l = finishSeek e k (l.setCursor k { c with op := .serving }) := by
  unfold seekWritten
  rw [withCursor_some _ h]
  exact if_pos hp

theorem seekWritten_serves (e : Env) {k : Slot} {l : Live} {c : Cursor} (h : l.cursor k = some c) (hp : c.probes ≠ []) :
    seekWritten e k l = kickProbe e k (l.setCursor k { c with op := .serving }) := by
  unfold seekWritten
  rw [withCursor_some _ h]
  exact if_neg hp

theorem rebaseWritten_eq (e : Env) {k : Slot} {l : Live} {c : Cursor} (h : l.cursor k = some c) :
    rebaseWritten e k l = atBoundary e k (l.setCursor k { c with op := .none }) := by
  unfold rebaseWritten
  rw [modify_some _ h]

/-- R122: the rebase of a snapshot leaves its cursor as it is. -/
theorem completeRebuild_settled (e : Env) {k : Slot} {l : Live} {c : Cursor} {f : Rebuild} (h : l.cursor k = some c)
    (hroom : f.kind = .wrap ∨ c.buffer.hasRoom c.options = true) (hk : f.kind ≠ .seek) (hs : c.state ≠ .running) :
    RebuildWritten k c f l (completeRebuild e k f l) (c.rebuilt f) := by
  obtain ⟨n, op, hgo, hn⟩ := completeRebuild_goesOn e h hroom
  rw [hgo, rebuildGoesOn, if_neg hk, rebaseWritten_eq e hn.1]
  have hset := hn.setCursor (c.rebuilt f)
  exact (atBoundary_of_ne e hset.1 hs).symm ▸ hset

/-- R108: an unchained seek with no probe leads to HELD. -/
theorem completeRebuild_held (e : Env) {k : Slot} {l : Live} {c : Cursor} {f : Rebuild} (h : l.cursor k = some c)
    (hroom : f.kind = .wrap ∨ c.buffer.hasRoom c.options = true) (hk : f.kind = .seek) (hp : c.probes = [])
    (hc : c.chain = false) :
    ∃ n, completeRebuild e k f l = becomeHeld k n ∧ RebuildWritten k c f l n { c.rebuilt f with op := .serving } := by
  obtain ⟨n, op, hgo, hn⟩ := completeRebuild_goesOn e h hroom
  have hset := hn.setCursor { c.rebuilt f with op := .serving }
  refine ⟨_, ?_, hset⟩
  rw [hgo, rebuildGoesOn, if_pos hk, seekWritten_served e hn.1 hp]
  exact finishSeek_unchained e hset.1 hc

/-- R108, R122: the cursor that a completed rebuild leaves RUNNING. -/
def Cursor.runsOn (c : Cursor) (f : Rebuild) : Cursor :=
  { c.rebuilt f with state := .running, chain := if f.kind = .seek then false else c.chain }

/-- R108, R114, R122: a chained seek with no probe, and a rebase or wrap in RUNNING, lead to the step boundary. -/
theorem completeRebuild_boundary (e : Env) {k : Slot} {l : Live} {c : Cursor} {f : Rebuild} (h : l.cursor k = some c)
    (hroom : f.kind = .wrap ∨ c.buffer.hasRoom c.options = true)
    (hb : f.kind = .seek ∧ c.probes = [] ∧ c.chain = true ∨ f.kind ≠ .seek ∧ c.state = .running) :
    ∃ n, completeRebuild e k f l = atBoundary e k n ∧ RebuildWritten k c f l n (c.runsOn f) := by
  obtain ⟨n, op, hgo, hn⟩ := completeRebuild_goesOn e h hroom
  refine ⟨_, ?_, hn.setCursor (c.runsOn f)⟩
  rw [hgo, Cursor.runsOn]
  rcases hb with ⟨hk, hp, hc⟩ | ⟨hk, hs⟩
  · have hset := cursor_setCursor_same n k { c.rebuilt f with op := .serving }
    have hfinish := finishSeek_chained e hset hc
    rw [rebuildGoesOn, if_pos hk, seekWritten_served e hn.1 hp, if_pos hk]
    rw [setCursor_setCursor] at hfinish
    exact hfinish
  · rw [rebuildGoesOn, if_neg hk, rebaseWritten_eq e hn.1, if_neg hk, ← hs]
    rfl

/-- R156: probes that wait are served before a seek goes on. -/
theorem completeRebuild_serves (e : Env) {k : Slot} {l : Live} {c : Cursor} {f : Rebuild} (h : l.cursor k = some c)
    (hroom : f.kind = .wrap ∨ c.buffer.hasRoom c.options = true) (hk : f.kind = .seek) (hp : c.probes ≠ []) :
    ∃ n, completeRebuild e k f l = kickProbe e k n ∧ RebuildWritten k c f l n { c.rebuilt f with op := .serving } := by
  obtain ⟨n, op, hgo, hn⟩ := completeRebuild_goesOn e h hroom
  refine ⟨_, ?_, hn.setCursor { c.rebuilt f with op := .serving }⟩
  rw [hgo, rebuildGoesOn, if_pos hk, seekWritten_serves e hn.1 hp]

theorem rebuildGoesOn_proceeds (e : Env) {k : Slot} {l : Live} {c : Cursor} (h : l.cursor k = some c) (f : Rebuild) :
    Proceeds k c l (rebuildGoesOn e k f l) := by
  unfold rebuildGoesOn
  split_ifs
  · by_cases hp : c.probes = []
    · rw [seekWritten_served e h hp]
      exact Proceeds.after (finishSeek_proceeds e (cursor_setCursor_same l k _)) ⟨rfl, rfl, rfl, rfl, rfl, rfl⟩
    · rw [seekWritten_serves e h hp]
      exact Proceeds.after (kickProbe_proceeds e (cursor_setCursor_same l k _)) ⟨rfl, rfl, rfl, rfl, rfl, rfl⟩
  · rw [rebaseWritten_eq e h]
    exact Proceeds.after (atBoundary_proceeds e (cursor_setCursor_same l k _)) ⟨rfl, rfl, rfl, rfl, rfl, rfl⟩

/-! ### The obligation -/

/-- R92, R93: the event of a rebuild's last read, whole. -/
theorem rebuildRead_last {s : State} {k : Slot} {c : Cursor} {f : Rebuild} (hreset : s.resetLow = false)
    (h : s.live.cursor k = some c) (hop : c.op = .rebuild f)
    (hlast : ∀ r ∈ nextAfter c.position s.history.records, f.target < r.time) :
    ∃ m : Live, exec (.rebuildRead k) s = .next (s.withLive (completeRebuild s.env k f m)) ∧
      m.cursor k = some c ∧ m.ports = s.live.ports ∧ Local k c.owner s.live m ∧
      CheckpointRule s.tables.study c f.standing (· ≤ f.target) s.live.checkpoints m.checkpoints := by
  refine ⟨checkpointAtRead (boundaryUpTo s.tables.study.intervalMicros f.standing f.target) c s.live, ?_, ?_,
    checkpointAtRead_ports _ c _, checkpointAtRead_local _ c k _ _, checkpointAtRead_upTo _ c _ _ _⟩
  · rw [exec_rebuildRead hreset, rebuildRead_completes h hop (nextUpTo_of_lt hlast)]
    rfl
  · rw [checkpointAtRead_cursor]
    exact h

theorem delivered_nextNumber (o : Options) (f : Bool) (x : ItemBody) (b : Buffer) :
    (b.delivered o f x).nextNumber = (b.nextNumber + 1) % 65536 := by
  unfold Buffer.delivered
  dsimp only
  split_ifs <;> rfl

/-- R93: the completion of a rebuild keeps to the cursor and its owner's port. -/
theorem completeRebuild_local {s : State} {k : Slot} {l : Live} {c : Cursor} {f : Rebuild} (h : l.cursor k = some c) :
    Local k c.owner l (completeRebuild s.env k f l) := by
  by_cases hroom : f.kind = .wrap ∨ c.buffer.hasRoom c.options = true
  · obtain ⟨n, op, hgo, hn, -, hlocal, -⟩ := completeRebuild_goesOn s.env h hroom
    rw [hgo]
    exact hlocal.trans (rebuildGoesOn_proceeds s.env hn f).1
  · rw [not_or, Bool.not_eq_true] at hroom
    obtain ⟨_, -, -, -, -, hlocal⟩ := completeRebuild_waits (s := s) h hroom.1 hroom.2
    exact hlocal

/-- R93: the completion of a rebuild keeps the cursor's setting, but for its instant, which is the target. -/
theorem completeRebuild_setting {s : State} {k : Slot} {l : Live} {c : Cursor} {f : Rebuild} (h : l.cursor k = some c) :
    ∃ d, (completeRebuild s.env k f l).cursor k = some d ∧ SameSetting { c with instant := some f.target } d := by
  by_cases hroom : f.kind = .wrap ∨ c.buffer.hasRoom c.options = true
  · obtain ⟨n, op, hgo, hn, -, -, -⟩ := completeRebuild_goesOn s.env h hroom
    obtain ⟨-, -, d, hd, hset⟩ := rebuildGoesOn_proceeds s.env hn f
    rw [hgo]
    exact ⟨d, hd, hset⟩
  · rw [not_or, Bool.not_eq_true] at hroom
    obtain ⟨d, hd, ⟨-, heq⟩, -⟩ := completeRebuild_waits (s := s) h hroom.1 hroom.2
    rw [heq] at hd
    exact ⟨_, hd, rfl, rfl, rfl, rfl, rfl, rfl⟩

/-- R93, R108, R122: a rebuild that completes with room, at a step boundary that does nothing or with an unchained seek
to finish. -/
theorem completeRebuild_quiet {s : State} {k : Slot} {l : Live} {c : Cursor} {f : Rebuild} (h : l.cursor k = some c)
    (hroom : c.buffer.hasRoom c.options = true) (hp : c.probes = []) (ho : c.overtaken = none)
    (hh : c.pendingHold = none) (hu : c.underStep = true → c.stepsLeft ≠ 0) (hs : c.state = .running ∨ f.kind = .seek) :
    ∃ d, (completeRebuild s.env k f l).cursor k = some d ∧ d.op = .none ∧ d.instant = some f.target ∧
      d.stepBase = some f.target ∧ d.image = c.image ∧ d.position = c.position ∧
      d.rebuildRecord = (c.rebuildRecord.map fun x => { x with outcome := .completed }) ∧
      (f.kind = .seek → d.state = (if c.chain then .running else .held) ∧ d.chain = false) ∧
      (f.kind ≠ .seek → d.state = .running) ∧
      d.buffer = completedBuffer c f (decide (f.kind = .seek) && !c.chain) ∧
      (completeRebuild s.env k f l).checkpoints = l.checkpoints ∧
      (completeRebuild s.env k f l).port c.owner =
        (l.port c.owner).takes (completedTold k c f (decide (f.kind = .seek) && !c.chain)) := by
  by_cases hheld : f.kind = .seek ∧ c.chain = false
  · obtain ⟨hk, hch⟩ := hheld
    have hnw : f.kind ≠ .wrap := by simp [hk]
    have hflag : (decide (f.kind = .seek) && !c.chain) = true := by simp [hk, hch]
    obtain ⟨n, hgo, hn, hcp, -, hport⟩ := completeRebuild_held s.env h (.inr hroom) hk hp hch
    obtain ⟨h1, h2⟩ := becomeHeld_cursor hn
    rw [hgo, hflag]
    refine ⟨_, h1, rfl, rfl, rfl, rfl, rfl, rfl, fun _ => ⟨by simp [hch], rfl⟩, fun g => absurd hk g,
      completedBuffer_flushed c hnw, h2.trans hcp, ?_⟩
    rw [← completedTold_flushed k c hnw, takes_append, ← hport]
    exact becomeHeld_port hn
  · have hbound : f.kind = .seek ∧ c.probes = [] ∧ c.chain = true ∨ f.kind ≠ .seek ∧ c.state = .running := by
      by_cases hk : f.kind = .seek
      · exact .inl ⟨hk, hp, by simpa [hk] using hheld⟩
      · exact .inr ⟨hk, hs.resolve_right hk⟩
    have hflag : (decide (f.kind = .seek) && !c.chain) = false := by
      rw [← Bool.not_eq_true, Bool.and_eq_true, decide_eq_true_eq, Bool.not_eq_true']
      exact hheld
    obtain ⟨n, hgo, hn, hcp, -, hport⟩ := completeRebuild_boundary s.env h (.inr hroom) hbound
    have hfree : ¬(c.pendingHold ≠ none ∨ c.underStep = true ∧ c.stepsLeft = 0) := fun g =>
      g.elim (fun x => x hh) fun x => hu x.1 x.2
    rw [hgo, hflag, atBoundary_still s.env hn (.inr (.inr ⟨hp, .inr ⟨hfree, ho⟩⟩))]
    refine ⟨_, hn, rfl, rfl, rfl, rfl, rfl, rfl, fun hk => ⟨?_, if_pos hk⟩, fun _ => rfl, rfl, hcp, hport⟩
    have hch : c.chain = true := by simpa [hk] using hheld
    rw [hch]
    rfl

/-- R131: no item waits once a rebuild has completed with room, but one that waited at a wrap. -/
theorem completedBuffer_none_waits (c : Cursor) (f : Rebuild) (flushes : Bool) (h : c.buffer.waiting = none) :
    ({ completedBuffer c f flushes with waiting := none } : Buffer) = completedBuffer c f flushes := by
  unfold completedBuffer
  split_ifs
  · rw [← h]
  · have hwait := delivered_waiting c.options flushes (.marker (rebuildMarker f)) c.buffer
    rw [← hwait]

/-- R108, R114, R122: what the step boundary makes of the cursor whose rebuild has completed. -/
theorem completeRebuild_comes {s : State} {k : Slot} {l : Live} {c : Cursor} {f : Rebuild} (h : l.cursor k = some c)
    (hroom : f.kind = .wrap ∨ c.buffer.hasRoom c.options = true) (hp : c.probes = [])
    (hb : f.kind = .seek ∧ c.chain = true ∨ f.kind ≠ .seek ∧ c.state = .running) :
    let held := c.pendingHold ≠ none ∨ c.underStep = true ∧ c.stepsLeft = 0
    let t := s.withLive (completeRebuild s.env k f l)
    ∃ d, t.live.cursor k = some d ∧ (f.kind = .seek → d.chain = false) ∧
      AtBoundary t { c with instant := some f.target } d ∧
      (c.redo = false → held → f.kind ≠ .wrap → d.buffer = completedBuffer c f true) ∧
      (c.redo = true ∨ ¬held → c.buffer.waiting = none → d.buffer = completedBuffer c f false) := by
  intro held t
  obtain ⟨n, hgo, hn, -⟩ := completeRebuild_boundary s.env h hroom (hb.imp_left fun g => ⟨g.1, hp, g.2⟩)
  obtain ⟨d, hd, ⟨-, hcomes⟩, hchain⟩ := atBoundary_comes (s := s.withLive n) (t := t) (c := c.runsOn f) hn rfl rfl rfl
    (congrArg Live.checkpoints hgo)
  obtain ⟨hbound, hheld, hrebase, -, hrest⟩ := hcomes hp
  have hstamps : SameButStamps n.checkpoints t.live.checkpoints := by
    have hsame := atBoundary_stamps s.env hn
    rw [← hgo] at hsame
    exact hsame
  refine ⟨d, (congrArg (fun m => m.cursor k) hgo).trans hd, fun hk => hchain (if_pos hk), hbound.of_stamps rfl hstamps,
    fun hre hh hk => (hheld ⟨hre, hh⟩).trans (completedBuffer_flushed c hk), fun hh hwait => ?_⟩
  have hnot : ¬(c.redo = false ∧ held) := by
    rintro ⟨hre, g⟩
    exact hh.elim (fun x => nomatch hre.symm.trans x) fun x => x g
  by_cases hover : c.redo = false ∧ ¬(c.redo = false ∧ held) ∧ c.overtaken ≠ none
  · exact (hrebase hover).1.trans (completedBuffer_none_waits c f false hwait)
  · rw [hrest hnot hover]
    rfl

/-- R97: the front probe begins, told with the table that its choice leaves. -/
theorem kickProbe_chosen {s : State} {l : Live} {k : Slot} {c : Cursor} {q : Probe} {rest : List Probe}
    (h : l.cursor k = some c) (hp : c.probes = q :: rest) (hw : q.work = none) :
    ∃ ps : List Probe, (kickProbe s.env k l).cursor k = some { c with probes := ps } ∧
      (probesMayBegin c = true →
        ∃ v, ps = { q with work := some v } :: rest ∧ v.lastRead = none ∧
          v.chosen = ((kickProbe s.env k l).checkpoints.choose q.instant).1.map Checkpoint.instant) := by
  cases hb : probesMayBegin c with
  | false =>
    rw [kickProbe_waits s.env h hb]
    exact ⟨c.probes, h, fun g => nomatch g⟩
  | true =>
    obtain ⟨v, hv, hlast, hchosen, htable⟩ := kickProbe_starts (s := s.withLive l) h rfl hp hw hb
    refine ⟨_, hv, fun _ => ⟨v, rfl, hlast, hchosen.trans ?_⟩⟩
    have hsame := ((choose_sameButStamps l.checkpoints q.instant).choose q.instant).1
    rw [show (kickProbe s.env k l).checkpoints = (l.checkpoints.choose q.instant).2 from htable]
    exact hsame.symm

theorem runsOn_eq {c : Cursor} {f : Rebuild} (hk : f.kind ≠ .seek) (hs : c.state = .running) :
    c.runsOn f = c.rebuilt f := by
  rw [Cursor.runsOn, if_neg hk, ← hs]
  rfl

/-- R156: what a completed rebuild leaves of a cursor with a probe that waits. -/
theorem completeRebuild_probes {s : State} {k : Slot} {l : Live} {c : Cursor} {f : Rebuild} {q : Probe}
    {rest : List Probe} (h : l.cursor k = some c) (hroom : f.kind = .wrap ∨ c.buffer.hasRoom c.options = true)
    (hp : c.probes = q :: rest) (hw : q.work = none) (hs : f.kind = .seek ∨ c.state = .running) :
    ∃ ps : List Probe, (completeRebuild s.env k f l).cursor k = some
        { c.rebuilt f with op := if f.kind = .seek then .serving else .none, probes := ps } ∧
      (c.state = .seeking ∨ f.kind ≠ .seek →
        ∃ v, ps = { q with work := some v } :: rest ∧ v.lastRead = none ∧
          v.chosen = ((completeRebuild s.env k f l).checkpoints.choose q.instant).1.map Checkpoint.instant) := by
  have hne : c.probes ≠ [] := by simp [hp]
  by_cases hk : f.kind = .seek
  · obtain ⟨n, hgo, hn, -⟩ := completeRebuild_serves s.env h hroom hk hne
    obtain ⟨ps, hps, hbegins⟩ := kickProbe_chosen (s := s) hn hp hw
    rw [hgo, if_pos hk]
    refine ⟨ps, hps, fun hs => hbegins ?_⟩
    have hseeking : c.state = .seeking := hs.resolve_right fun g => g hk
    exact probesMayBegin_of (.inr (.inl ⟨hseeking, rfl⟩))
  · have hrun : c.state = .running := hs.resolve_left hk
    obtain ⟨n, hgo, hn, -⟩ := completeRebuild_boundary s.env h hroom (.inr ⟨hk, hrun⟩)
    rw [runsOn_eq hk hrun] at hn
    obtain ⟨ps, hps, hbegins⟩ := kickProbe_chosen (s := s) hn hp hw
    rw [hgo, if_neg hk, atBoundary_probes s.env hn hrun rfl hne]
    exact ⟨ps, hps, fun _ => hbegins (probesMayBegin_of (.inr (.inr ⟨hrun, rfl⟩)))⟩

/-- Settles O52: a rebuild's read applies a record, or completes the rebuild, whose operation then goes on. -/
theorem rebuildReadsApplyOrComplete : Obligations.RebuildReadsApplyOrComplete := by
  unfold Obligations.RebuildReadsApplyOrComplete
  refine ⟨fun s k c f r hreset hc hop hn hle => ?_,
    fun s k c f hreset hc hop hlast hroom hp ho hh hu hsnap hs => ?_, fun s k c f hreset hc hop hlast => ?_⟩
  · have hexec := exec_rebuildRead hreset k
    rw [rebuildRead_applies hc hop (nextUpTo_of_le hn hle)] at hexec
    refine ⟨_, hexec, ⟨rfl, rfl, rfl, rfl, rfl, rfl, rfl, rfl⟩, checkpointAtRead_ports _ c _, fun j hj => ?_, cursor_setCursor_same _ _ _,
      checkpointAtRead_before s.tables.study c f.standing r.time s.live, fun ho => ?_⟩
    · exact (cursor_setCursor_ne _ _ (Ne.symm hj)).trans (checkpointAtRead_cursor _ c _ j)
    · have hnone := checkpointAtRead_overtaken
        (boundaryBefore s.tables.study.intervalMicros f.standing r.time) ho s.live
      have htable := congrArg Live.checkpoints hnone
      exact htable
  · obtain ⟨m, hexec, hm, hports, hlocal, hrule⟩ := rebuildRead_last hreset hc hop hlast
    have hprobes : Local k c.owner m (completeRebuild s.env k f m) := completeRebuild_local hm
    obtain ⟨d, hd, g1, g2, g3, g4, g5, g6, g7, g8, g9, hcp, hport⟩ := completeRebuild_quiet hm hroom hp ho hh hu hs
    obtain ⟨h1, h2⟩ := withLive_leaves (hlocal.trans hprobes)
    have hport' : (completeRebuild s.env k f m).port c.owner =
        (s.live.port c.owner).takes (completedTold k c f (decide (f.kind = .seek) && !c.chain)) := by
      rw [hport, Live.port, hports]
      rfl
    refine ⟨_, d, hexec, h1, h2, hd, g1, g2, g3, g4, g5, g6, g7, g8, ?_, ?_, fun hk => ?_, fun o hk hkept => ?_,
      fun hk => ?_⟩
    · rw [g9, completedBuffer]
      split_ifs
      · rfl
      · exact delivered_nextNumber ..
    · exact hcp ▸ hrule
    · rw [g9]
      refine ⟨?_, hport'.trans ?_⟩ <;> simp [completedBuffer, completedTold, rebuildMarker, hk]
    · rw [g9]
      refine ⟨?_, hport'.trans ?_⟩ <;> simp [completedBuffer, completedTold, rebuildMarker, hk, hkept]
    · rw [g9]
      refine ⟨?_, hport'.trans ?_⟩ <;> simp [completedBuffer, completedTold, hk]
  · obtain ⟨m, hexec, hm, hports, hlocal, -⟩ := rebuildRead_last hreset hc hop hlast
    obtain ⟨h1, h2⟩ := withLive_leaves (hlocal.trans (completeRebuild_local (s := s) (f := f) hm))
    obtain ⟨d, hd, hset⟩ := completeRebuild_setting (s := s) (f := f) hm
    obtain ⟨hown, hopt, hwatch, hinst, -, hsnap⟩ := hset
    refine ⟨_, d, hexec, h1, h2, hd, hown, hopt, hwatch, hsnap, hinst, fun hroom => ?_, fun hroom hk hs => ?_,
      fun hroom hp hk hch => ?_, fun hroom hb => ?_, fun hroom hb hre hheld hk => ?_, fun hroom hb hh hwait => ?_,
      fun q rest hroom hp hw hs => ?_⟩
    · rw [not_or, Bool.not_eq_true] at hroom
      obtain ⟨y, hy, hstalls, hkeep, -⟩ := completeRebuild_waits (s := s) hm hroom.1 hroom.2
      obtain rfl := Option.some.inj (hd.symm.trans hy)
      exact ⟨hstalls, hkeep.trans hports⟩
    · have hy := (completeRebuild_settled s.env hm hroom (by simp [hk]) hs).1
      obtain rfl := Option.some.inj (hd.symm.trans hy)
      exact ⟨rfl, rfl, rfl, rfl, rfl, rfl, rfl⟩
    · obtain ⟨n, hgo, hn, -⟩ := completeRebuild_held s.env hm hroom hk hp hch
      have hy := (becomeHeld_cursor hn).1
      rw [← hgo] at hy
      obtain rfl := Option.some.inj (hd.symm.trans hy)
      exact ⟨rfl, rfl, rfl, rfl, rfl, completedBuffer_flushed c (by simp [hk])⟩
    · obtain ⟨y, hy, hchain, hbound, -⟩ := completeRebuild_comes (s := s) hm hroom hb.1 hb.2
      obtain rfl := Option.some.inj (hd.symm.trans hy)
      exact ⟨hchain, hbound⟩
    · obtain ⟨y, hy, -, -, hbuf, -⟩ := completeRebuild_comes (s := s) hm hroom hb.1 hb.2
      obtain rfl := Option.some.inj (hd.symm.trans hy)
      exact hbuf hre hheld hk
    · obtain ⟨y, hy, -, -, -, hbuf⟩ := completeRebuild_comes (s := s) hm hroom hb.1 hb.2
      obtain rfl := Option.some.inj (hd.symm.trans hy)
      exact hbuf hh hwait
    · obtain ⟨ps, hy, hbegins⟩ := completeRebuild_probes (s := s) hm hroom hp hw hs
      obtain rfl := Option.some.inj (hd.symm.trans hy)
      refine ⟨?_, rfl, rfl, rfl, rfl, rfl, rfl, hbegins⟩
      split_ifs with hk
      · rfl
      · exact hs.resolve_left hk

end Sys2Proof.Machine
end

section
/-!
PROOF. The reads of a step that apply nothing: the clock, the head of the store and the end of a pass (R115 to R117,
R169): O51.
-/

namespace Sys2Proof.Machine

open Sys2Proof

/-! ### What the read of a step comes to (R113, R169) -/

/-- R115, R116: the read of a step finds the end of a pass. -/
def PassEnds (e : Env) (c : Cursor) : Prop :=
  (∃ r w, nextAfter c.position e.history.records = some r ∧ c.options.windowEnd = some w ∧ w < r.time) ∨
    nextAfter c.position e.history.records = none ∧ e.history.phase = .sealed

/-- R169: a pass may end: at once, or once the clock has reached the instant that END sets. -/
def EndReady (e : Env) (c : Cursor) : Prop := c.options.pacing = .bound → endInstant e c ≤ e.clock.instant

theorem endReady_iff (e : Env) (c : Cursor) :
    (!c.bound || decide (endInstant e c ≤ e.clock.instant)) = true ↔ EndReady e c := by
  unfold EndReady
  cases hp : c.options.pacing <;> simp [Cursor.bound, hp]

theorem stepAnswer_ends {e : Env} {c : Cursor} (h : PassEnds e c) (hr : EndReady e c) :
    stepAnswer e c = .windowEnd := by
  have hready := (endReady_iff e c).2 hr
  unfold stepAnswer
  rcases h with ⟨r, w, hn, hw, hlt⟩ | ⟨hn, hs⟩
  · simp only [hn, hready, if_true]
    exact if_pos (by simp [hw, hlt])
  · simp [hn, hs, hready]

theorem stepAnswer_waits {e : Env} {c : Cursor} (h : PassEnds e c) (hr : ¬EndReady e c) : stepAnswer e c = .clock := by
  have hready := mt (endReady_iff e c).1 hr
  unfold stepAnswer
  rcases h with ⟨r, w, hn, hw, hlt⟩ | ⟨hn, hs⟩
  · simp only [hn, hready]
    exact if_pos (by simp [hw, hlt])
  · simp only [hn, hs, hready, if_true]
    rfl

theorem stepAnswer_later {e : Env} {c : Cursor} {r : Record} (hn : nextAfter c.position e.history.records = some r)
    (hw : ∀ w ∈ c.options.windowEnd, r.time ≤ w) (hb : c.options.pacing = .bound) (hlt : e.clock.instant < r.time) :
    stepAnswer e c = .clock := by
  have hin : ¬(c.options.windowEnd.elim false fun w => decide (w < r.time)) = true := by
    cases hwe : c.options.windowEnd with
    | none => simp
    | some w => simpa using hw w hwe
  unfold stepAnswer
  simp only [hn]
  rw [if_neg hin, if_pos (by simp [Cursor.bound, hb, hlt])]

theorem stepAnswer_applies {e : Env} {c : Cursor} {r : Record} (hn : nextAfter c.position e.history.records = some r)
    (hw : ∀ w ∈ c.options.windowEnd, r.time ≤ w) (hb : c.options.pacing = .bound → r.time ≤ e.clock.instant) :
    stepAnswer e c = .apply r := by
  have hin : ¬(c.options.windowEnd.elim false fun w => decide (w < r.time)) = true := by
    cases hwe : c.options.windowEnd with
    | none => simp
    | some w => simpa using hw w hwe
  have hclock : ¬(c.bound && decide (e.clock.instant < r.time)) = true := by
    rw [Bool.and_eq_true, bound_iff, decide_eq_true_eq]
    exact fun g => absurd (hb g.1) (not_le.2 g.2)
  unfold stepAnswer
  simp only [hn]
  rw [if_neg hin, if_neg hclock]

theorem stepAnswer_head {e : Env} {c : Cursor} (hn : nextAfter c.position e.history.records = none)
    (hp : e.history.phase = .collecting) : stepAnswer e c = .head := by
  unfold stepAnswer
  simp [hn, hp]

/-! ### The read of a step (R113) -/

theorem exec_stepRead {s : State} (h : s.resetLow = false) (k : Slot) :
    exec (.stepRead k) s = .next (s.withLive (stepRead s.env k s.live)) :=
  congrArg Host.Outcome.next (if_neg (by simp [h]))

theorem stepRead_of_due {e : Env} {k : Slot} {l : Live} {c : Cursor} (h : l.cursor k = some c)
    (hd : readDue c = true) :
    (∀ r, stepAnswer e c = .apply r → stepRead e k l = applyStep e k r l) ∧
      (stepAnswer e c = .windowEnd →
        stepRead e k l = reachEnd e k (if c.sealEnd then .sealTaken else .windowEnd) l) ∧
      (stepAnswer e c = .head → stepRead e k l = meetHead e k l) ∧
      (stepAnswer e c = .clock → stepRead e k l = waitForClock e k l) := by
  unfold stepRead
  rw [withCursor_some _ h, if_pos hd]
  refine ⟨fun r g => ?_, fun g => ?_, fun g => ?_, fun g => ?_⟩ <;> rw [g]

theorem readDue_of {c : Cursor} (hs : c.state = .running) (ho : c.op = .none) (hp : c.probes = [])
    (hk : c.parked = false) : readDue c = true := (readDue_iff c).2 ⟨hs, ho, hp, hk⟩

/-! ### The clock (R169) -/

/-- R169: a cursor as it waits for the clock. -/
def Cursor.awaitsClock (e : Env) (c : Cursor) : Cursor :=
  { c with
    waiting := true, parked := true, lagging := false, redo := false, instant := some e.clock.instant
    buffer := c.buffer.flushed c.options }

/-- R114, R169: nothing stands against the wait of a cursor that is not overtaken and holds no hold. -/
theorem waitForClock_rests {e : Env} {k : Slot} {l : Live} {c : Cursor} (h : l.cursor k = some c) (hp : c.probes = [])
    (ho : c.overtaken = none) (hh : c.pendingHold = none) (hu : c.underStep = true → c.stepsLeft ≠ 0) :
    (waitForClock e k l).cursor k = some (c.awaitsClock e) ∧
      (waitForClock e k l).port c.owner = (l.port c.owner).takes (c.buffer.flushTold k c.options) ∧
      (waitForClock e k l).checkpoints = l.checkpoints ∧ Local k c.owner l (waitForClock e k l) := by
  let x : Cursor :=
    { c with waiting := true, parked := true, lagging := false, redo := false, instant := some e.clock.instant }
  have hx := cursor_setCursor_same l k x
  obtain ⟨h1, h2, h3⟩ := flush_flushed hx
  have hlocal := flush_local (p := c.owner) fun d hd => by rw [hx] at hd; cases hd; rfl
  have hfree : ¬(c.pendingHold ≠ none ∨ c.underStep = true ∧ c.stepsLeft = 0) := fun g =>
    g.elim (fun y => y hh) fun y => hu y.1 y.2
  have hrests : waitForClock e k l = flush k (l.setCursor k x) := by
    unfold waitForClock
    rw [modify_some _ h]
    exact atBoundary_still e h1 (.inr (.inr ⟨hp, .inr ⟨hfree, ho⟩⟩))
  rw [hrests]
  exact ⟨h1, h2, h3, (Local.setCursor k _ l x).trans hlocal⟩

/-! ### The signal of a cursor (R120) -/

/-- R120, R124: what a signal tells: the flush of a seek that it starts and the CURSOR_STATE of each cursor that it
starts, and nothing where no cursor waits for it. -/
theorem signalFrom_tells (s : State) (k : Slot) (l : Live) (q : PortId) :
    ∃ more : List Notice, (signalFrom s.env k l).port q = (l.port q).takes more ∧
      (∀ n ∈ more, n.kind = .batchReady ∨ n.kind = .cursorState) ∧
      ((∀ j x, l.cursor j = some x → ¬Awaits k x) → more = []) := by
  have harmed (x : Cursor) : armedFor (.cursor k) x = true ↔ Awaits k x := by simp [armedFor, Awaits]
  have hsweep := trigger_sweeps (s := s.withLive l) (e := s.env) rfl
    (hit := armedFor (.cursor k)) fun x hx => ((harmed x).1 hx).1
  obtain ⟨order, -, hmem, -, -, hports, -⟩ := hsweep.inFreeOrder (l := l) (SameButStamps.refl l.checkpoints)
  refine ⟨_, hports q, fun n hn => ?_, fun hnone => ?_⟩
  · obtain ⟨j, -, hj⟩ := List.mem_flatMap.1 hn
    obtain ⟨x, -, -, hx⟩ := mem_toldTo hj
    rcases triggerTold_slot _ j x n hx with g | ⟨_, _, _, rfl⟩
    · exact .inl g
    · exact .inr rfl
  · have hempty : order = [] := List.eq_nil_iff_forall_not_mem.2 fun j hj => by
      obtain ⟨x, hx, hh⟩ := (hmem j).1 hj
      exact hnone j x hx ((harmed x).1 hh)
    rw [hempty]
    rfl

/-! ### The end of a pass (R115, R116) -/

/-- R131: a marker with room is delivered, and the reference time stays (R129). -/
theorem emit_marker (e : Env) {l : Live} {k : Slot} {c : Cursor} (h : l.cursor k = some c) {op : Op}
    (hop : op.wrote = op) (m : Marker) (done : Live → Live) (hr : c.buffer.hasRoom c.options = true) :
    ∃ n : Live, emit e k op (.marker m) done l = done n ∧
      n.cursor k =
        some { c with op := op, buffer := c.buffer.delivered c.options (flushesOn c (.marker m)) (.marker m) } ∧
      n.port c.owner = (l.port c.owner).takes (c.buffer.announced k c.options (flushesOn c (.marker m)) (.marker m)) ∧
      n.checkpoints = l.checkpoints ∧ Local k c.owner l n := by
  obtain ⟨n, h1, h2, h3, h4, h5⟩ := emit_delivers e h op (.marker m) done hr
  refine ⟨n, h1, ?_, h3, h4, h5⟩
  rw [h2, hop]
  exact congrArg (fun b : Buffer => some { c with op := op, buffer := b }) (delivered_keeps _ _ _ _)

/-- R134: nothing is left to flush after an item that flushes. -/
theorem flushTold_delivered (k : Slot) (o : Options) (x : ItemBody) (b : Buffer) :
    (b.delivered o true x).flushTold k o = [] :=
  List.append_right_eq_self.1 (announced_flushed k o true x b)

/-- R115, R120, R124: what the end of a pass leaves of the other cursors, and what it tells. -/
theorem becomeEnded_leaves (s : State) {l : Live} {k : Slot} {c : Cursor} (cause : StateCause)
    (h : l.cursor k = some c) :
    (∀ j x, j ≠ k → l.cursor j = some x → ¬Awaits k x → (becomeEnded s.env k cause l).cursor j = some x) ∧
      ∀ q, ∃ more : List Notice,
        (becomeEnded s.env k cause l).port q =
          (l.port q).takes
            ((if q = c.owner then c.buffer.flushTold k c.options ++ [.cursorState k .ended cause c.instant] else []) ++
              more) ∧
        (∀ n ∈ more, n.kind = .batchReady ∨ n.kind = .cursorState) ∧
        ((∀ j x, j ≠ k → l.cursor j = some x → ¬Awaits k x) → more = []) := by
  let a : Cursor := { c.leaveRunning with state := .ended, op := .none, pendingHold := none, applied := false }
  let b : Cursor := { a with buffer := c.buffer.flushed c.options }
  let m : Live := flush k (l.setCursor k a)
  let n : Live := notifyState k cause m
  have hn : becomeEnded s.env k cause l = kickProbe s.env k (signalFrom s.env k n) := by
    unfold becomeEnded
    rw [modify_some _ h]
  have ha := cursor_setCursor_same l k a
  obtain ⟨hm, htold, -⟩ := flush_flushed ha
  have hlocal : Local k c.owner l m :=
    (Local.setCursor k _ l a).trans (flush_local fun x hx => by rw [ha] at hx; cases hx; rfl)
  have hnote : n = m.notify c.owner (.cursorState k .ended cause c.instant) := by
    show notifyState k cause m = _
    unfold notifyState
    rw [withCursor_some _ hm]
    rfl
  have hnk : n.cursor k = some b := (cursor_notifyState _ _ _ _).trans hm
  have hnj (j : Slot) (hj : j ≠ k) : n.cursor j = l.cursor j :=
    (cursor_notifyState _ _ _ _).trans (hlocal.1 j hj)
  have hb : ¬Awaits k b := fun g => nomatch g.1
  obtain ⟨-, hstay, -⟩ := signalFrom_signals s.env k n
  obtain ⟨-, -, -, hports, hkick⟩ := kickProbe_cursor s.env (hstay k b hnk hb) c.owner
  rw [hn]
  refine ⟨fun j x hj hx hw => ?_, fun q => ?_⟩
  · exact (hkick.1 j hj).trans (hstay j x ((hnj j hj).trans hx) hw)
  · obtain ⟨more, g1, g2, g3⟩ := signalFrom_tells s k n q
    refine ⟨more, ?_, g2, fun hnone => g3 fun j x hx => ?_⟩
    · have hq : n.port q =
          (l.port q).takes
            (if q = c.owner then c.buffer.flushTold k c.options ++ [.cursorState k .ended cause c.instant]
            else []) := by
        rw [hnote, port_notify_takes]
        by_cases ho : q = c.owner
        · rw [if_pos ho.symm, if_pos ho, ho, takes_append]
          exact congrArg (fun p : Port => p.takes _) htold
        · rw [if_neg (Ne.symm ho), if_neg ho]
          exact hlocal.2 q ho
      rw [takes_append, ← hq, ← g1]
      exact congrFun (congrArg Vector.get hports) q
    · by_cases hj : j = k
      · subst hj
        obtain rfl := Option.some.inj (hnk.symm.trans hx)
        exact hb
      · exact hnone j x hj ((hnj j hj).symm.trans hx)

/-- R124: the cause of a pass's end. -/
def Cursor.endCause (c : Cursor) : StateCause :=
  if c.sealEnd = true ∧ c.options.loop = false then .sealTaken else .windowEnd

/-- R115, R116: a pass that does not wrap ends. -/
theorem reachEnd_single (e : Env) {k : Slot} {l : Live} {c : Cursor} (h : l.cursor k = some c)
    (hl : c.options.loop = false ∨ c.applied = false) :
    reachEnd e k (if c.sealEnd then .sealTaken else .windowEnd) l = endPass e k c.endCause l := by
  unfold reachEnd Cursor.endCause
  rw [withCursor_some _ h]
  cases hloop : c.options.loop with
  | false => simp
  | true =>
    have ha : c.applied = false := hl.resolve_left (by simp [hloop])
    simp [ha]

/-- R116: a looping pass that applied a record wraps. -/
theorem reachEnd_loop (e : Env) {k : Slot} {l : Live} {c : Cursor} (h : l.cursor k = some c) (cause : StateCause)
    (hl : c.options.loop = true) (ha : c.applied = true) : reachEnd e k cause l = wrapPass e k l := by
  unfold reachEnd
  rw [withCursor_some _ h, if_pos hl, if_pos ha]

theorem endPass_eq (e : Env) {k : Slot} {l : Live} {c : Cursor} (h : l.cursor k = some c) (cause : StateCause) :
    endPass e k cause l =
      emit e k (.ending cause) (.marker (.endPass (endInstant e c))) (becomeEnded e k cause)
        (l.setCursor k { c with instant := some (endInstant e c), atHead := false, parked := false }) := by
  unfold endPass
  rw [withCursor_some _ h]

theorem wrapPass_eq (e : Env) {k : Slot} {l : Live} {c : Cursor} (h : l.cursor k = some c) :
    wrapPass e k l =
      emit e k .wrapping (.marker (.wrap c.options.windowStart)) (startWrap e k)
        (l.setCursor k { c with atHead := false, parked := false }) := by
  unfold wrapPass
  rw [withCursor_some _ h]

theorem meetHead_first (e : Env) {k : Slot} {l : Live} {c : Cursor} (h : l.cursor k = some c) (ha : c.atHead = false) :
    meetHead e k l = emit e k .heading (.marker (.head (c.instant.getD 0))) (settleHead e k) l := by
  unfold meetHead
  rw [withCursor_some _ h, if_neg (by simp [ha])]

/-! ### The head of the store (R117) -/

/-- R117, R169: a cursor as it waits at the head of the store. -/
def Cursor.awaitsHead (e : Env) (c : Cursor) : Cursor :=
  { c with
    op := .none, atHead := true, parked := true, redo := false
    waiting := c.bound || c.waiting
    lagging := if c.bound then false else c.lagging
    instant := if c.bound then some e.clock.instant else c.instant }

/-- R114, R117: nothing stands against the wait at the head of a cursor that is not overtaken and holds no hold. -/
theorem settleHead_rests (e : Env) {k : Slot} {l : Live} {c : Cursor} (h : l.cursor k = some c)
    (hn : nextAfter c.position e.history.records = none) (hc : e.history.phase = .collecting) (hp : c.probes = [])
    (ho : c.overtaken = none) (hh : c.pendingHold = none) (hu : c.underStep = true → c.stepsLeft ≠ 0) :
    settleHead e k l = l.setCursor k (c.awaitsHead e) := by
  have hfree : ¬(c.pendingHold ≠ none ∨ c.underStep = true ∧ c.stepsLeft = 0) := fun g =>
    g.elim (fun y => y hh) fun y => hu y.1 y.2
  unfold settleHead
  rw [withCursor_some _ h, hn, if_neg (by simp), if_neg (by simp [hc])]
  exact atBoundary_still e (cursor_setCursor_same l k (c.awaitsHead e)) (.inr (.inr ⟨hp, .inr ⟨hfree, ho⟩⟩))

theorem bound_false {c : Cursor} (h : c.options.pacing = .freeRun) : c.bound = false := by simp [Cursor.bound, h]

/-! ### The reads that apply nothing (R115 to R117, R169) -/

/-- R169: the read of a step that waits for the clock. -/
theorem clockWait_of_answer {s : State} {k : Slot} {c : Cursor} (hreset : s.resetLow = false)
    (h : s.live.cursor k = some c) (hs : c.state = .running) (hop : c.op = .none) (hp : c.probes = [])
    (hk : c.parked = false) (ho : c.overtaken = none) (hh : c.pendingHold = none)
    (hu : c.underStep = true → c.stepsLeft ≠ 0) (hanswer : stepAnswer s.env c = .clock) :
    ∃ t d, exec (.stepRead k) s = .next t ∧ SameStore s t ∧ OthersSame s t k c.owner ∧ t.live.cursor k = some d ∧
      d.state = .running ∧ d.waiting = true ∧ d.lagging = false ∧ d.instant = some s.clock.instant ∧
      d.image = c.image ∧ d.position = c.position ∧ d.trail = c.trail ∧
      (c.options.mode = .notice → c.buffer.writing ≠ [] →
        d.buffer.writing = [] ∧ ∃ b : Batch, d.buffer.completed = c.buffer.completed ++ [b] ∧
          b.items = c.buffer.writing ∧ b.first = (c.buffer.writing.head?.map Item.number).getD 0 ∧
          t.live.port c.owner = (s.live.port c.owner).push (.batchReady k b.half b.items.length b.first)) ∧
      (c.options.mode = .push ∨ c.buffer.writing = [] →
        d.buffer = c.buffer ∧ t.live.port c.owner = s.live.port c.owner) ∧
      t.live.checkpoints = s.live.checkpoints := by
  obtain ⟨-, -, -, hread⟩ := stepRead_of_due h (readDue_of hs hop hp hk)
  obtain ⟨hcur, hport, hcp, hlocal⟩ := waitForClock_rests (e := s.env) h hp ho hh hu
  obtain ⟨hstore, hothers⟩ := withLive_leaves hlocal
  rw [exec_stepRead hreset, hread hanswer]
  refine ⟨_, _, rfl, hstore, hothers, hcur, hs, rfl, rfl, rfl, rfl, rfl, rfl, fun hm hw => ?_, fun hidle => ?_, hcp⟩
  · obtain ⟨x, xs, hx⟩ := List.exists_cons_of_ne_nil hw
    have hbuf : c.buffer.flushed c.options = c.buffer.complete c.options := if_pos ⟨hm, hw⟩
    have htold : c.buffer.flushTold k c.options = _ := if_pos ⟨hm, hw⟩
    refine ⟨congrArg Buffer.writing hbuf, c.buffer.batch c.options, congrArg Buffer.completed hbuf, rfl, ?_, ?_⟩
    · simp [Buffer.batch, hx]
    · exact hport.trans (congrArg (s.live.port c.owner).takes htold)
  · have hnot : ¬(c.options.mode = .notice ∧ c.buffer.writing ≠ []) := fun g =>
      hidle.elim (fun hm => nomatch hm.symm.trans g.1) g.2
    have htold : c.buffer.flushTold k c.options = [] := if_neg hnot
    exact ⟨if_neg hnot, hport.trans (congrArg (s.live.port c.owner).takes htold)⟩

/-- R117: the read of a step that finds the head of the store and delivers HEAD. -/
theorem head_delivered {s : State} {k : Slot} {c : Cursor} (hreset : s.resetLow = false)
    (h : s.live.cursor k = some c) (hs : c.state = .running) (hop : c.op = .none) (hp : c.probes = [])
    (hk : c.parked = false) (ho : c.overtaken = none) (hh : c.pendingHold = none)
    (hu : c.underStep = true → c.stepsLeft ≠ 0) (hhead : c.atHead = false) (hphase : s.history.phase = .collecting)
    (hn : nextAfter c.position s.history.records = none) (hr : c.buffer.hasRoom c.options = true) :
    let head : ItemBody := .marker (.head (c.instant.getD 0))
    ∃ t d, exec (.stepRead k) s = .next t ∧ SameStore s t ∧ OthersSame s t k c.owner ∧ t.live.cursor k = some d ∧
      d.state = .running ∧ d.atHead = true ∧ d.op = .none ∧ d.image = c.image ∧ d.position = c.position ∧
      (c.options.pacing = .freeRun → d.instant = c.instant ∧ d.waiting = c.waiting) ∧
      (c.options.pacing = .bound → d.instant = some s.clock.instant ∧ d.waiting = true ∧ d.lagging = false) ∧
      d.buffer.nextNumber = (c.buffer.nextNumber + 1) % 65536 ∧
      d.buffer = c.buffer.delivered c.options true head ∧
      t.live.port c.owner = (s.live.port c.owner).takes (c.buffer.announced k c.options true head) ∧
      t.live.checkpoints = s.live.checkpoints := by
  obtain ⟨-, -, hread, -⟩ := stepRead_of_due h (readDue_of hs hop hp hk)
  obtain ⟨m, hgo, hm, hport, hcp, hlocal⟩ :=
    emit_marker s.env h (op := .heading) rfl (.head (c.instant.getD 0)) (settleHead s.env k) hr
  have hresult : stepRead s.env k s.live = m.setCursor k _ :=
    (hread (stepAnswer_head hn hphase)).trans <| (meetHead_first s.env h hhead).trans <| hgo.trans <|
      settleHead_rests s.env hm hn hphase hp ho hh hu
  obtain ⟨hstore, hothers⟩ := withLive_leaves (hlocal.trans (Local.setCursor k c.owner m _))
  rw [exec_stepRead hreset, hresult]
  refine ⟨_, _, rfl, hstore, hothers, cursor_setCursor_same m k _, hs, rfl, rfl, rfl, rfl, fun hf => ?_, fun hb => ?_,
    delivered_nextNumber _ _ _ _, rfl, hport, hcp⟩
  · simp [Cursor.awaitsHead, Cursor.bound, hf]
  · simp [Cursor.awaitsHead, Cursor.bound, hb, State.env]

/-- R115, R120, R124: the read of a step that ends a pass. -/
theorem end_delivered {s : State} {k : Slot} {c : Cursor} (hreset : s.resetLow = false)
    (h : s.live.cursor k = some c) (hs : c.state = .running) (hop : c.op = .none) (hp : c.probes = [])
    (hk : c.parked = false) (hl : c.options.loop = false ∨ c.applied = false)
    (hr : c.buffer.hasRoom c.options = true) (hends : PassEnds s.env c) (hready : EndReady s.env c) :
    let stop := endInstant s.env c
    let last : ItemBody := .marker (.endPass stop)
    ∃ t d, exec (.stepRead k) s = .next t ∧ SameStore s t ∧ t.live.cursor k = some d ∧ d.state = .ended ∧
      d.instant = some stop ∧ d.image = c.image ∧ d.position = c.position ∧ d.overtaken = c.overtaken ∧
      d.stepsLeft = 0 ∧ d.pendingHold = none ∧ d.op = .none ∧
      d.buffer.nextNumber = (c.buffer.nextNumber + 1) % 65536 ∧
      d.buffer = c.buffer.delivered c.options true last ∧ Signalled k s t ∧
      (∀ (j : Slot) (x : Cursor), j ≠ k → s.live.cursor j = some x → ¬Awaits k x → t.live.cursor j = some x) ∧
      ∀ q : PortId, ∃ more : List Notice,
        t.live.port q =
          (s.live.port q).takes
            ((if q = c.owner then
                c.buffer.announced k c.options true last ++ [.cursorState k .ended c.endCause (some stop)]
              else []) ++ more) ∧
        (∀ n ∈ more, n.kind = .batchReady ∨ n.kind = .cursorState) ∧
        ((∀ (j : Slot) (x : Cursor), s.live.cursor j = some x → ¬Awaits k x) → more = []) := by
  intro stop last
  let a : Cursor := { c with instant := some stop, atHead := false, parked := false }
  obtain ⟨-, hread, -, -⟩ := stepRead_of_due h (readDue_of hs hop hp hk)
  obtain ⟨m, hgo, hm, hport, hcp, hlocal⟩ :=
    emit_marker s.env (cursor_setCursor_same s.live k a) (op := .ending c.endCause) rfl (.endPass stop)
      (becomeEnded s.env k c.endCause) hr
  have hresult : stepRead s.env k s.live = becomeEnded s.env k c.endCause m :=
    (hread (stepAnswer_ends hends hready)).trans <| (reachEnd_single s.env h hl).trans <|
      (endPass_eq s.env h _).trans hgo
  have hfrom : Local k c.owner s.live m := (Local.setCursor k c.owner s.live a).trans hlocal
  obtain ⟨d, hd, heq, -, hsignal⟩ := becomeEnded_ends (s := s) (t := s.withLive (becomeEnded s.env k c.endCause m))
    c.endCause hm (hcp ▸ SameButStamps.refl s.live.checkpoints) hfrom.1
    (fun b hb => by rw [Option.some.inj (hb.symm.trans h), hs]; decide) fun _ => rfl
  obtain ⟨hkeeps, htells⟩ := becomeEnded_leaves s c.endCause hm
  have hbuffer : d.buffer = c.buffer.delivered c.options true last :=
    (congrArg Cursor.buffer heq).trans (delivered_flushed _ _ _ _)
  have htold : (c.buffer.delivered c.options true last).flushTold k c.options = [] := flushTold_delivered _ _ _ _
  rw [exec_stepRead hreset, hresult]
  refine ⟨_, d, rfl, ⟨rfl, rfl, rfl, rfl, rfl, rfl, rfl, rfl⟩, hd, (congrArg Cursor.state heq :),
    (congrArg Cursor.instant heq :), (congrArg Cursor.image heq :), (congrArg Cursor.position heq :),
    (congrArg Cursor.overtaken heq :), (congrArg Cursor.stepsLeft heq :), (congrArg Cursor.pendingHold heq :),
    (congrArg Cursor.op heq :), hbuffer ▸ delivered_nextNumber _ _ _ _, hbuffer, hsignal,
    fun j x hj hx hw => ?_, fun q => ?_⟩
  · exact hkeeps j x hj ((hfrom.1 j hj).trans hx) hw
  · obtain ⟨more, g1, g2, g3⟩ := htells q
    refine ⟨more, g1.trans ?_, g2, fun hnone => g3 fun j x hj hx => hnone j x ((hfrom.1 j hj).symm.trans hx)⟩
    rw [takes_append, takes_append]
    refine congrArg (fun p : Port => p.takes more) ?_
    by_cases hq : q = c.owner
    · subst hq
      rw [if_pos rfl, if_pos rfl, takes_append, takes_append]
      exact congrArg (fun p : Port => p.takes [.cursorState k .ended c.endCause (some stop)])
        ((congrArg (m.port c.owner).takes htold).trans hport)
    · rw [if_neg hq, if_neg hq]
      exact hfrom.2 q hq

/-- R116: the read of a step that wraps a loop. -/
theorem wrap_delivered {s : State} {k : Slot} {c : Cursor} (hreset : s.resetLow = false)
    (h : s.live.cursor k = some c) (hs : c.state = .running) (hop : c.op = .none) (hp : c.probes = [])
    (hk : c.parked = false) (hl : c.options.loop = true) (ha : c.applied = true)
    (hr : c.buffer.hasRoom c.options = true) (hends : PassEnds s.env c) (hready : EndReady s.env c) :
    let wrap : ItemBody := .marker (.wrap c.options.windowStart)
    ∃ t d, exec (.stepRead k) s = .next t ∧ SameStore s t ∧ OthersSame s t k c.owner ∧
      t.live.cursor k = some d ∧ d.state = .running ∧
      RebuildBegun s.live.checkpoints .wrap c.options.windowStart none d ∧
      t.live.checkpoints = (s.live.checkpoints.choose c.options.windowStart).2 ∧
      d.stepsLeft = c.stepsLeft ∧ d.buffer.nextNumber = (c.buffer.nextNumber + 1) % 65536 ∧
      d.buffer = c.buffer.delivered c.options false wrap ∧
      t.live.port c.owner = (s.live.port c.owner).takes (c.buffer.announced k c.options false wrap) := by
  let a : Cursor := { c with atHead := false, parked := false }
  obtain ⟨-, hread, -, -⟩ := stepRead_of_due h (readDue_of hs hop hp hk)
  obtain ⟨m, hgo, hm, hport, hcp, hlocal⟩ :=
    emit_marker s.env (cursor_setCursor_same s.live k a) (op := .wrapping) rfl (.wrap c.options.windowStart)
      (startWrap s.env k) hr
  have hresult : stepRead s.env k s.live = startWrap s.env k m :=
    (hread (stepAnswer_ends hends hready)).trans <| (reachEnd_loop s.env h _ hl ha).trans <|
      (wrapPass_eq s.env h).trans hgo
  have hstart : startWrap s.env k m = startRebuild s.env k .wrap c.options.windowStart m := by
    unfold startWrap
    rw [withCursor_some _ hm]
  have hfrom : Local k c.owner s.live (startWrap s.env k m) :=
    ((Local.setCursor k c.owner s.live a).trans hlocal).trans (hstart ▸ startRebuild_local _ _ _ _ _ _)
  have hports : (startWrap s.env k m).port c.owner = m.port c.owner := by
    rw [hstart, startRebuild_eq s.env hm]
    rfl
  obtain ⟨d, hd, hbegun, hstate, -, hsteps, -, hbuf, hchosen⟩ := startWrap_begins s.env hm
  obtain ⟨hstore, hothers⟩ := withLive_leaves hfrom
  have hcp' : m.checkpoints = s.live.checkpoints := hcp
  have hbuffer : d.buffer = c.buffer.delivered c.options false (.marker (.wrap c.options.windowStart)) :=
    hbuf.trans (delivered_none_waits _ _ _ _)
  rw [hcp'] at hbegun hchosen
  rw [exec_stepRead hreset, hresult]
  exact ⟨_, d, rfl, hstore, hothers, hd, hstate.trans hs, hbegun, hchosen, hsteps,
    hbuffer ▸ delivered_nextNumber _ _ _ _, hbuffer, hports.trans hport⟩

theorem cursor_of_grows {l m : Live} (hg : Grows l m) {k : Slot} {c : Cursor} (h : l.cursor k = some c) :
    ∃ d, m.cursor k = some d := by
  have howner := hg.1 k
  rw [h] at howner
  obtain ⟨d, hd, -⟩ := Option.map_eq_some_iff.1 howner
  exact ⟨d, hd⟩

/-- R131, R170: a marker of a pass that finds no room waits. -/
theorem marker_stalls {s : State} {k : Slot} {c a : Cursor} {op : Op} {m : Marker} {done : Live → Live} {l : Live}
    (hl : l = emit s.env k op (.marker m) done (s.live.setCursor k a)) (hown : a.owner = c.owner)
    (hr : a.buffer.hasRoom a.options = false) :
    SameStore s (s.withLive l) ∧ OthersSame s (s.withLive l) k c.owner ∧ l.ports = s.live.ports ∧
      ∃ d, l.cursor k = some d ∧
        Stalls s { a with op := op, buffer := { a.buffer with waiting := some (.marker m) } } d := by
  have ha := cursor_setCursor_same s.live k a
  obtain ⟨hports, -, hlocal⟩ := emit_stalls_keeps s.env ha op (.marker m) done hr
  obtain ⟨hstore, hothers⟩ := withLive_leaves ((Local.setCursor k c.owner s.live a).trans (hown ▸ hlocal))
  rw [hl]
  exact ⟨hstore, hothers, hports, emit_stalls ha op (.marker m) done hr⟩

/-- Settles O51: the reads of a step that wait for the clock, meet the head of the store or end a pass. -/
theorem stepReadWaitsOrEnds : Obligations.StepReadWaitsOrEnds := by
  unfold Obligations.StepReadWaitsOrEnds
  refine ⟨fun s k c hreset h hs hop hp hk ho hh hu hb hcase => ?_,
    fun s k c hreset h hs hop hp hk ho hh hu hhead hphase hn hr =>
      head_delivered hreset h hs hop hp hk ho hh hu hhead hphase hn hr,
    fun s k c hreset h hs hop hp hk hl hr hends hready =>
      end_delivered hreset h hs hop hp hk hl hr hends hready,
    fun s k c hreset h hs hop hp hk hl ha hr hends hready =>
      wrap_delivered hreset h hs hop hp hk hl ha hr hends hready,
    fun s k c hreset h hs hop hp hk hr => ?_, fun s k c hreset h hs hop hp hk ho hh hu hhead hw hphase hn => ?_⟩
  · refine clockWait_of_answer hreset h hs hop hp hk ho hh hu ?_
    have hnotReady (hlt : s.clock.instant < endInstant s.env c) : ¬EndReady s.env c := fun g =>
      absurd (g hb) (not_le.2 hlt)
    rcases hcase with ⟨r, hn, hlt, hwin⟩ | ⟨r, w, hn, hwin, hlt, hstop⟩ | ⟨hn, hsealed, hstop⟩
    · exact stepAnswer_later hn hwin hb hlt
    · exact stepAnswer_waits (.inl ⟨r, w, hn, hwin, hlt⟩) (hnotReady hstop)
    · exact stepAnswer_waits (.inr ⟨hn, hsealed⟩) (hnotReady hstop)
  · obtain ⟨-, hread, hhead, -⟩ := stepRead_of_due h (readDue_of hs hop hp hk)
    obtain ⟨d, hd⟩ := cursor_of_grows (stepRead_grows s.env k s.live) h
    refine ⟨_, d, exec_stepRead hreset k, hd, fun hends hready hl => ?_, fun hends hready hl ha => ?_,
      fun hn hphase hat => ?_⟩
    · have hgo := (hread (stepAnswer_ends (e := s.env) hends hready)).trans <|
        (reachEnd_single s.env h hl).trans (endPass_eq s.env h _)
      obtain ⟨g1, g2, g3, x, hx, g4⟩ := marker_stalls (c := c) hgo rfl hr
      obtain rfl := Option.some.inj (hx.symm.trans hd)
      exact ⟨g1, g2, g3, g4⟩
    · have hgo := (hread (stepAnswer_ends (e := s.env) hends hready)).trans <|
        (reachEnd_loop s.env h _ hl ha).trans (wrapPass_eq s.env h)
      obtain ⟨g1, g2, g3, x, hx, g4⟩ := marker_stalls (c := c) hgo rfl hr
      obtain rfl := Option.some.inj (hx.symm.trans hd)
      exact ⟨g1, g2, g3, g4⟩
    · have hgo := (hhead (stepAnswer_head hn hphase)).trans <| (meetHead_first s.env h hat).trans <|
        congrArg (emit s.env k _ _ _) (setCursor_self h).symm
      obtain ⟨g1, g2, g3, x, hx, g4⟩ := marker_stalls (c := c) hgo rfl hr
      obtain rfl := Option.some.inj (hx.symm.trans hd)
      exact ⟨g1, g2, g3, g4⟩
  · obtain ⟨-, -, hread, -⟩ := stepRead_of_due h (readDue_of hs hop hp hk)
    have hgo := (hread (stepAnswer_head hn hphase)).trans <| meetHead_again s.env h hhead hop hn hp hh hu ho hphase
    obtain ⟨hstore, hothers⟩ := withLive_leaves (s := s) (Local.setCursor k c.owner s.live _)
    rw [exec_stepRead hreset, hgo]
    refine ⟨_, rfl, hstore, hothers, rfl, rfl, (cursor_setCursor_same _ _ _).trans ?_⟩
    cases hpace : c.options.pacing with
    | freeRun => simp [Cursor.bound, hpace]
    | bound => simp [Cursor.bound, hpace, hw hpace, State.env]

end Sys2Proof.Machine
end

section
/-!
PROOF. The markers of a step and the watches that fire on it (R113, R143, R144), for O50.
-/

namespace Sys2Proof.Machine

open Sys2Proof

/-! ### The order of the gap markers (R113) -/

theorem GapMark.rank_marker (m : GapMark) : m.marker.rank = (m.time, m.index, m.closing.toNat) := by
  unfold GapMark.marker
  cases m.closing <;> rfl

theorem GapMark.before_iff (a b : GapMark) : a.before b = true ↔ a.marker.stands b.marker := by
  unfold Marker.stands
  rw [a.rank_marker, b.rank_marker]
  cases ha : a.closing <;> cases hb : b.closing <;> simp [GapMark.before, ha, hb]

theorem Marker.stands.trans {a b c : Marker} (h : a.stands b) (g : b.stands c) : a.stands c := by
  unfold Marker.stands at h g ⊢
  omega

/-- R113: of two gap markers that differ in time, in entry or in kind, one stands before the other. -/
theorem Marker.stands_or {a b : Marker} (h : a.rank ≠ b.rank) : a.stands b ∨ b.stands a := by
  unfold Marker.stands
  by_contra hnone
  refine h (Prod.ext ?_ (Prod.ext ?_ ?_)) <;> omega

theorem insertMark_perm (m : GapMark) (xs : List GapMark) : (insertMark m xs).Perm (m :: xs) := by
  induction xs with
  | nil => exact .refl _
  | cons x xs ih =>
    unfold insertMark
    split_ifs
    · exact .refl _
    · exact (ih.cons x).trans (.swap m x xs)

/-- A gap marker put in its place among others in order. -/
theorem insertMark_stands {m : GapMark} {xs : List GapMark} (hne : ∀ x ∈ xs, m.marker.rank ≠ x.marker.rank)
    (hs : xs.Pairwise fun a b => a.marker.stands b.marker) :
    (insertMark m xs).Pairwise fun a b => a.marker.stands b.marker := by
  induction xs with
  | nil => exact List.pairwise_singleton _ _
  | cons x xs ih =>
    obtain ⟨hx, hxs⟩ := List.pairwise_cons.1 hs
    unfold insertMark
    split_ifs with hb
    · have hmx := (m.before_iff x).1 hb
      refine List.pairwise_cons.2 ⟨fun y hy => ?_, hs⟩
      rcases List.mem_cons.1 hy with rfl | hy
      · exact hmx
      · exact hmx.trans (hx y hy)
    · have hxm : x.marker.stands m.marker :=
        (Marker.stands_or (hne x List.mem_cons_self)).resolve_left (mt (m.before_iff x).2 hb)
      refine List.pairwise_cons.2 ⟨fun y hy => ?_, ih (fun y hy => hne y (List.mem_cons_of_mem x hy)) hxs⟩
      rcases List.mem_cons.1 ((insertMark_perm m xs).mem_iff.1 hy) with rfl | hy
      · exact hxm
      · exact hx y hy

theorem insertMarks_perm (ms : List GapMark) : (ms.foldr insertMark []).Perm ms := by
  induction ms with
  | nil => exact .refl _
  | cons m ms ih => exact (insertMark_perm m _).trans (ih.cons m)

theorem insertMarks_stands {ms : List GapMark} (h : ms.Pairwise fun a b => a.marker.rank ≠ b.marker.rank) :
    (ms.foldr insertMark []).Pairwise fun a b => a.marker.stands b.marker := by
  induction ms with
  | nil => exact List.Pairwise.nil
  | cons m ms ih =>
    obtain ⟨hm, hms⟩ := List.pairwise_cons.1 h
    exact insertMark_stands (fun x hx => hm x ((insertMarks_perm ms).mem_iff.1 hx)) (ih hms)

/-! ### The gap markers of a step (R113) -/

theorem inInterval_iff (base : Option Nat) (t x : Nat) : inInterval base t x = true ↔ InStep base t x := by
  cases base <;> simp [inInterval, InStep]

theorem mem_gapMarksOf {base : Option Nat} {t i : Nat} {g : Gap} {m : GapMark} :
    m ∈ gapMarksOf base t i g ↔
      (InStep base t g.start ∧ m = ⟨g.start, i, false, g.recorder⟩) ∨
        ∃ x ∈ g.stop, InStep base t x ∧ m = ⟨x, i, true, g.recorder⟩ := by
  have one (p : Prop) (y : GapMark) [Decidable p] : m ∈ (if p then [y] else []) ↔ p ∧ m = y := by
    split_ifs with hp <;> simp [hp]
  unfold gapMarksOf
  rw [List.mem_append, one, inInterval_iff]
  cases g.stop with
  | none => simp
  | some x => simp [one, inInterval_iff]

theorem gapMarksOf_index {base : Option Nat} {t i : Nat} {g : Gap} {m : GapMark} (h : m ∈ gapMarksOf base t i g) :
    m.index = i := by
  rcases mem_gapMarksOf.1 h with ⟨-, rfl⟩ | ⟨x, -, -, rfl⟩ <;> rfl

/-- R113: an entry of the Gap List gives an opening marker before a closing one. -/
theorem gapMarksOf_ranks (base : Option Nat) (t i : Nat) (g : Gap) :
    (gapMarksOf base t i g).Pairwise fun a b => a.marker.rank ≠ b.marker.rank := by
  have single (p : Prop) (y : GapMark) [Decidable p] :
      (if p then [y] else []).Pairwise fun a b => a.marker.rank ≠ b.marker.rank := by
    split_ifs
    · exact List.pairwise_singleton _ _
    · exact List.Pairwise.nil
  unfold gapMarksOf
  refine List.pairwise_append.2 ⟨single _ _, ?_, fun a ha b hb => ?_⟩
  · cases g.stop with
    | none => exact List.Pairwise.nil
    | some x => exact single _ _
  · have hopen : a.closing = false := by
      split_ifs at ha
      · rw [List.mem_singleton.1 ha]
      · exact absurd ha List.not_mem_nil
    have hclose : b.closing = true := by
      cases hstop : g.stop with
      | none => simp [hstop] at hb
      | some x =>
        simp only [hstop] at hb
        split_ifs at hb
        · rw [List.mem_singleton.1 hb]
        · exact absurd hb List.not_mem_nil
    rw [a.rank_marker, b.rank_marker, hopen, hclose]
    simp

theorem gapMarks_stands (gaps : List Gap) (base : Option Nat) (t : Nat) :
    (gapMarks gaps base t).Pairwise fun a b => a.marker.stands b.marker := by
  refine insertMarks_stands (List.pairwise_flatMap.2 ⟨fun g _ => gapMarksOf_ranks base t g.2 g.1, ?_⟩)
  refine (List.pairwise_map.1 (List.nodup_zipIdx_map_snd gaps)).imp fun hne x hx y hy hrank => hne ?_
  rw [x.rank_marker, y.rank_marker, gapMarksOf_index hx, gapMarksOf_index hy] at hrank
  exact congrArg (fun p : Nat × Nat × Nat => p.2.1) hrank

theorem mem_gapMarks {gaps : List Gap} {base : Option Nat} {t : Nat} {m : GapMark} :
    m ∈ gapMarks gaps base t ↔ ∃ i g, gaps[i]? = some g ∧ m ∈ gapMarksOf base t i g := by
  unfold gapMarks
  rw [(insertMarks_perm _).mem_iff, List.mem_flatMap]
  constructor
  · rintro ⟨⟨g, i⟩, hg, hm⟩
    exact ⟨i, g, List.mk_mem_zipIdx_iff_getElem?.1 hg, hm⟩
  · rintro ⟨i, g, hg, hm⟩
    exact ⟨(g, i), List.mk_mem_zipIdx_iff_getElem?.2 hg, hm⟩

/-- R113, R128: the markers of a step are those of the Gap List's entries that open or close in its interval. -/
theorem mem_gapMarkers {gaps : List Gap} {base : Option Nat} {t : Nat} {m : Marker} :
    m ∈ (gapMarks gaps base t).map GapMark.marker ↔ StepMarker gaps base t m := by
  rw [List.mem_map]
  constructor
  · rintro ⟨x, hx, rfl⟩
    obtain ⟨i, g, hg, hin⟩ := mem_gapMarks.1 hx
    refine ⟨i, g, hg, ?_⟩
    rcases mem_gapMarksOf.1 hin with ⟨ho, rfl⟩ | ⟨y, hy, hc, rfl⟩
    · exact .inl ⟨ho, rfl⟩
    · exact .inr ⟨y, hy, hc, rfl⟩
  · rintro ⟨i, g, hg, ⟨ho, rfl⟩ | ⟨y, hy, hc, rfl⟩⟩
    · exact ⟨⟨g.start, i, false, g.recorder⟩, mem_gapMarks.2 ⟨i, g, hg, mem_gapMarksOf.2 (.inl ⟨ho, rfl⟩)⟩, rfl⟩
    · exact ⟨⟨y, i, true, g.recorder⟩, mem_gapMarks.2 ⟨i, g, hg, mem_gapMarksOf.2 (.inr ⟨y, hy, hc, rfl⟩)⟩, rfl⟩

/-! ### The watches that fire (R143) -/

/-- R143: the recorders whose gaps a step opens. -/
def openedIn (gaps : List Gap) (base : Option Nat) (t : Nat) : List RecId :=
  ((gapMarks gaps base t).filter fun m => !m.closing).map GapMark.recorder

theorem mem_openedIn {gaps : List Gap} {base : Option Nat} {t : Nat} {x : RecId} :
    x ∈ openedIn gaps base t ↔ ∃ g ∈ gaps, InStep base t g.start ∧ g.recorder = x := by
  unfold openedIn
  rw [List.mem_map]
  constructor
  · rintro ⟨m, hm, rfl⟩
    obtain ⟨hm, hopen⟩ := List.mem_filter.1 hm
    obtain ⟨i, g, hg, hin⟩ := mem_gapMarks.1 hm
    rcases mem_gapMarksOf.1 hin with ⟨ho, rfl⟩ | ⟨y, -, -, rfl⟩
    · exact ⟨g, List.mem_of_getElem? hg, ho, rfl⟩
    · exact absurd hopen (by simp)
  · rintro ⟨g, hg, ho, rfl⟩
    obtain ⟨i, hi⟩ := List.mem_iff_getElem?.1 hg
    exact ⟨⟨g.start, i, false, g.recorder⟩,
      List.mem_filter.2 ⟨mem_gapMarks.2 ⟨i, g, hi, mem_gapMarksOf.2 (.inl ⟨ho, rfl⟩)⟩, rfl⟩, rfl⟩

theorem stationCount_eq (t : Tables) (img : Image) (station : Nat) (kind : Option DeviceKind) (st : SwState) :
    stationCount t img station kind st = countedPoints t img station kind st := by
  unfold stationCount countedPoints
  refine congrArg List.length (List.filter_congr fun p _ => ?_)
  rw [Bool.eq_iff_iff]
  cases kind <;> simp [and_assoc]

/-- R143, Table 8-2: a watch fires on the step that makes its condition true. -/
theorem watchFires_iff (t : Tables) (gaps : List Gap) (c : Cursor) (r : Record) (w : Watch) :
    watchFires t c (c.applyRecord t r) r (openedIn gaps c.stepBase r.time) w = true ↔ Fires t gaps c r w.cond := by
  unfold watchFires Fires Cursor.applyRecord
  cases w.cond with
  | pointState p st => simp [stateHolds, stepHolds]
  | stationCount station kind st n => simp [stateHolds, stepHolds, stationCount_eq]
  | instant x => cases c.instant <;> simp [stateHolds, stepHolds]
  | quality q => cases q <;> cases hq : r.quality <;> simp [stateHolds, stepHolds, hq]
  | gap x =>
    cases x with
    | none =>
      have hsome : (openedIn gaps c.stepBase r.time).isEmpty = false ↔ ∃ x, x ∈ openedIn gaps c.stepBase r.time :=
        List.isEmpty_eq_false_iff_exists_mem
      simp [stateHolds, stepHolds, hsome, mem_openedIn]
    | some x => simp [stateHolds, stepHolds, mem_openedIn]

theorem mem_firedWatches {t : Tables} {gaps : List Gap} {c : Cursor} {r : Record} {i : WatchId} :
    i ∈ firedWatches t c (c.applyRecord t r) r (openedIn gaps c.stepBase r.time) ↔
      ∃ w, c.watches.get i = some w ∧ Fires t gaps c r w.cond := by
  unfold firedWatches
  rw [List.mem_filter]
  cases hw : c.watches.get i with
  | none => simp
  | some w => simp [watchFires_iff]

theorem firedWatches_ascend (t : Tables) (a b : Cursor) (r : Record) (opened : List RecId) :
    (firedWatches t a b r opened).Pairwise fun i j => i.val < j.val :=
  (List.pairwise_lt_finRange 8).filter _

/-- R113, R144: the items of the step that the read of a record begins, as the statements say them. -/
theorem stepFlightOf_items (s : State) (c : Cursor) (r : Record) :
    StepItems s c r (firedWatches s.tables c (c.applyRecord s.tables r) r (openedIn s.gaps c.stepBase r.time))
      (stepFlightOf s.tables s.gaps c (c.applyRecord s.tables r) r).todo := by
  refine ⟨(gapMarks s.gaps c.stepBase r.time).map GapMark.marker, fun m => mem_gapMarkers,
    List.pairwise_map.2 (gapMarks_stands _ _ _), firedWatches_ascend _ _ _ _ _, fun i => mem_firedWatches, ?_⟩
  rw [List.map_map]
  rfl

end Sys2Proof.Machine
end

section
/-!
PROOF. The items of a step and its end (R131, R144 to R147), for O50.
-/

namespace Sys2Proof.Machine

open Sys2Proof

/-! ### What the end of a step makes of its cursor (R114, R144 to R147) -/

theorem firedWith_iff (act : WatchActions → Bool) (fired : List WatchId) (c : Cursor) :
    firedWith act fired c.watches = true ↔ SomeFired act fired c := by
  unfold firedWith SomeFired
  rw [List.any_eq_true]
  refine exists_congr fun i => and_congr_right fun _ => ?_
  cases c.watches.get i <;> simp

theorem get_hitWatches (fired : List WatchId) (ws : Vector (Option Watch) 8) (i : WatchId) :
    (hitWatches fired ws).get i =
      if i ∈ fired then (ws.get i).map fun y => { y with fired := true, hits := min (y.hits + 1) 65535 }
      else ws.get i := by
  simp [hitWatches, Vector.get]
  rfl

/-- R145: the cursor with the flags and hit counts of the watches that fired. -/
def Cursor.counted (fired : List WatchId) (c : Cursor) : Cursor :=
  { c with watches := hitWatches fired c.watches, op := .none }

/-- R114: what stops a RUNNING cursor at its step boundary. -/
def HoldDue (c : Cursor) : Prop := c.pendingHold ≠ none ∨ c.underStep = true ∧ c.stepsLeft = 0

/-- R114, R144 to R147: what the end of a step makes of its cursor `a`, apart from signals: the cursor `d`, what its
owner is told, and the Checkpoint Table after it. -/
inductive StepRest (e : Env) (k : Slot) (f : StepFlight) (t : CheckpointTable) (a : Cursor) :
    Cursor → List Notice → CheckpointTable → Prop
  | watch (ps : List Probe) (u : CheckpointTable) (hold : SomeFired WatchActions.hold f.fired a) :
      StepRest e k f t a
        { (a.counted f.fired).leaveRunning with
          state := .held, op := .none, pendingHold := none, trailFrozen := true
          buffer := a.buffer.flushed a.options, probes := ps }
        (a.buffer.flushTold k a.options ++ [.watchFired k f.fired f.commit f.time a.instant]) u
  | probes (ps : List Probe) (u : CheckpointTable) (hold : ¬SomeFired WatchActions.hold f.fired a)
      (queued : a.probes ≠ []) (length : ps.length = a.probes.length) : StepRest e k f t a { a.counted f.fired with probes := ps } [] u
  | held (hold : ¬SomeFired WatchActions.hold f.fired a) (queued : a.probes = []) (redo : a.redo = false)
      (due : HoldDue a) :
      StepRest e k f t a
        { (a.counted f.fired).leaveRunning with
          state := .held, op := .none, pendingHold := none, chain := false, buffer := a.buffer.flushed a.options }
        (a.buffer.flushTold k a.options) t
  | free (hold : ¬SomeFired WatchActions.hold f.fired a) (queued : a.probes = [])
      (still : a.redo = true ∨ ¬HoldDue a ∧ a.overtaken = none) : StepRest e k f t a (a.counted f.fired) [] t
  | rebase (lagging : Bool) (hold : ¬SomeFired WatchActions.hold f.fired a) (queued : a.probes = [])
      (redo : a.redo = false) (due : ¬HoldDue a) (passed : a.overtaken ≠ none)
      (tested : LagTested e.history.records e.clock.instant
        ((a.counted f.fired).startRebuild .rebase (a.instant.getD 0) (t.choose (a.instant.getD 0)).1) lagging) :
      StepRest e k f t a
        { (a.counted f.fired).startRebuild .rebase (a.instant.getD 0) (t.choose (a.instant.getD 0)).1 with
          lagging := lagging }
        [] (t.choose (a.instant.getD 0)).2

/-- R147: a HOLD watch holds the cursor, with a flush and WATCH_FIRED. -/
theorem holdByWatch_holds (e : Env) {k : Slot} {l : Live} {c : Cursor} (h : l.cursor k = some c) (f : StepFlight) :
    ∃ ps : List Probe,
      (holdByWatch e k f l).cursor k =
        some
          { c.leaveRunning with
            state := .held, op := .none, pendingHold := none, trailFrozen := true
            buffer := c.buffer.flushed c.options, probes := ps } ∧
      (holdByWatch e k f l).port c.owner =
        (l.port c.owner).takes
          (c.buffer.flushTold k c.options ++ [.watchFired k f.fired f.commit f.time c.instant]) ∧
      Local k c.owner l (holdByWatch e k f l) := by
  let a : Cursor := { c.leaveRunning with state := .held, op := .none, pendingHold := none, trailFrozen := true }
  have ha := cursor_setCursor_same l k a
  obtain ⟨hm, htold, -⟩ := flush_flushed ha
  have hflush : Local k c.owner l (flush k (l.setCursor k a)) :=
    (Local.setCursor k _ l a).trans (flush_local fun x hx => by rw [ha] at hx; cases hx; rfl)
  have hgo : holdByWatch e k f l =
      kickProbe e k ((flush k (l.setCursor k a)).notify c.owner
        (.watchFired k f.fired f.commit f.time c.instant)) := by
    unfold holdByWatch
    rw [modify_some _ h]
    have hnote := withCursor_some (fun x =>
      (flush k (l.setCursor k a)).notify x.owner (.watchFired k f.fired f.commit f.time x.instant)) hm
    exact congrArg (kickProbe e k) hnote
  obtain ⟨ps, hps, -, hports, hkick⟩ := kickProbe_cursor e
    (l := (flush k (l.setCursor k a)).notify c.owner (.watchFired k f.fired f.commit f.time c.instant))
    ((cursor_notify _ _ _ _).trans hm) c.owner
  rw [hgo]
  refine ⟨ps, hps, ?_, (hflush.trans (Local.notify k _ _ _)).trans hkick⟩
  have hport := congrFun (congrArg Vector.get hports) c.owner
  refine hport.trans ?_
  have hnote := port_notify_takes (flush k (l.setCursor k a)) c.owner
    (.watchFired k f.fired f.commit f.time c.instant) c.owner
  rw [if_pos rfl] at hnote
  rw [takes_append]
  exact hnote.trans (congrArg (fun p : Port => p.takes [.watchFired k f.fired f.commit f.time c.instant]) htold)

/-- R114: a hold or stop request, or the last step of a STEP command, stops a cursor at its step boundary. -/
theorem atBoundary_heldBy {e : Env} {k : Slot} {l : Live} {c : Cursor} (h : l.cursor k = some c)
    (hs : c.state = .running) (ho : c.op = .none) (hp : c.probes = []) (hr : c.redo = false) (hh : HoldDue c) :
    atBoundary e k l = becomeHeld k l := by
  have hdue : c.pendingHold.isSome = true ∨ c.underStep = true ∧ c.stepsLeft = 0 :=
    hh.imp_left Option.isSome_iff_ne_none.2
  unfold atBoundary
  rw [withCursor_some _ h, if_neg (by simp [hs, ho]), if_neg (by simp [hp]), if_neg (by simp [hr]), if_pos hdue]

/-- R122: an overtaken cursor rebases at its step boundary. -/
theorem atBoundary_rebases {e : Env} {k : Slot} {l : Live} {c : Cursor} (h : l.cursor k = some c)
    (hs : c.state = .running) (ho : c.op = .none) (hp : c.probes = []) (hr : c.redo = false) (hh : ¬HoldDue c)
    (hv : c.overtaken ≠ none) : atBoundary e k l = startRebase e k l := by
  have hdue : ¬(c.pendingHold.isSome = true ∨ c.underStep = true ∧ c.stepsLeft = 0) :=
    mt (Or.imp_left Option.isSome_iff_ne_none.1) hh
  unfold atBoundary
  rw [withCursor_some _ h, if_neg (by simp [hs, ho]), if_neg (by simp [hp]), if_neg (by simp [hr]), if_neg hdue,
    if_pos (Option.isSome_iff_ne_none.2 hv)]

/-- R144, R147: the end of a step before its signal. -/
def stepRest (e : Env) (k : Slot) (f : StepFlight) (c : Cursor) (l : Live) : Live :=
  let m := l.setCursor k (c.counted f.fired)
  if firedWith WatchActions.hold f.fired c.watches then holdByWatch e k f m else atBoundary e k m

theorem stepRest_rests (e : Env) {k : Slot} {l : Live} {a : Cursor} (hs : a.state = .running) (f : StepFlight) :
    ∃ d own, (stepRest e k f a l).cursor k = some d ∧
      StepRest e k f l.checkpoints a d own (stepRest e k f a l).checkpoints ∧
      Local k a.owner l (stepRest e k f a l) ∧
      (stepRest e k f a l).port a.owner = (l.port a.owner).takes own := by
  have hm := cursor_setCursor_same l k (a.counted f.fired)
  have hset := Local.setCursor k a.owner l (a.counted f.fired)
  by_cases hold : SomeFired WatchActions.hold f.fired a
  · have hgo : stepRest e k f a l = holdByWatch e k f (l.setCursor k (a.counted f.fired)) :=
      if_pos ((firedWith_iff _ _ _).2 hold)
    obtain ⟨ps, h1, h2, h3⟩ := holdByWatch_holds e hm f
    rw [hgo]
    exact ⟨_, _, h1, .watch ps _ hold, hset.trans h3, h2⟩
  · have hgo : stepRest e k f a l = atBoundary e k (l.setCursor k (a.counted f.fired)) :=
      if_neg (mt (firedWith_iff _ _ _).1 hold)
    rw [hgo]
    by_cases hp : a.probes = []
    · by_cases hstill : a.redo = true ∨ ¬HoldDue a ∧ a.overtaken = none
      · rw [atBoundary_still e hm (.inr (.inr ⟨hp, hstill⟩))]
        exact ⟨_, _, hm, .free hold hp hstill, hset, rfl⟩
      · obtain ⟨hredo, hfree⟩ := not_or.1 hstill
        have hr : a.redo = false := Bool.not_eq_true _ ▸ hredo
        by_cases hh : HoldDue a
        · rw [atBoundary_heldBy hm hs rfl hp hr hh]
          obtain ⟨h1, h2⟩ := becomeHeld_cursor hm
          have h3 := becomeHeld_local hm
          have h4 := becomeHeld_port hm
          rw [h2]
          exact ⟨_, _, h1, .held hold hp hr hh, hset.trans h3, h4⟩
        · have hv : a.overtaken ≠ none := fun g => hfree ⟨hh, g⟩
          rw [atBoundary_rebases hm hs rfl hp hr hh hv]
          obtain ⟨b, h1, -, h3⟩ := startRebase_begins e hm
          rw [h1]
          exact ⟨_, _, cursor_setCursor_same _ _ _, .rebase b hold hp hr hh hv h3,
            (hset.trans (Local.checkpoints k _ _ _)).trans (Local.setCursor k _ _ _), rfl⟩
    · rw [atBoundary_probes e hm hs rfl hp]
      obtain ⟨ps, h1, h2, h3, h4⟩ := kickProbe_cursor e hm a.owner
      exact ⟨_, _, h1, .probes ps _ hold hp h2, hset.trans h4, congrFun (congrArg Vector.get h3) a.owner⟩

/-! ### The end of a step and its signal (R120, R146) -/

theorem stepEnd_eq (e : Env) {k : Slot} {l : Live} {a : Cursor} (h : l.cursor k = some a) (f : StepFlight) :
    stepEnd e k f l =
      if firedWith WatchActions.signal f.fired a.watches then signalFrom e k (stepRest e k f a l)
      else stepRest e k f a l := by
  unfold stepEnd
  rw [withCursor_some _ h]
  rfl

theorem StepRest.not_armed {e : Env} {k : Slot} {f : StepFlight} {t u : CheckpointTable} {a d : Cursor}
    {own : List Notice} (h : StepRest e k f t a d own u) (hs : a.state = .running) : d.state ≠ .armed := by
  cases h with
  | watch | held => exact nofun
  | probes | free | rebase =>
    have hsame : (a.counted f.fired).state = .running := hs
    exact fun g => nomatch hsame.symm.trans g

/-- R114, R120, R144 to R147: what the end of a step leaves. -/
theorem stepEnd_leaves (s : State) {k : Slot} {l : Live} {a : Cursor} (h : l.cursor k = some a)
    (hs : a.state = .running) (f : StepFlight) :
    ∃ d own u, (stepEnd s.env k f l).cursor k = some d ∧ StepRest s.env k f l.checkpoints a d own u ∧
      (¬SomeFired WatchActions.signal f.fired a → (stepEnd s.env k f l).checkpoints = u) ∧
      (SomeFired WatchActions.signal f.fired a → ∀ j x, j ≠ k → l.cursor j = some x → Awaits k x →
        ∃ y, (stepEnd s.env k f l).cursor j = some y ∧ Started y) ∧
      (∀ j x, j ≠ k → l.cursor j = some x → ¬(SomeFired WatchActions.signal f.fired a ∧ Awaits k x) →
        (stepEnd s.env k f l).cursor j = some x) ∧
      ∀ q, ∃ more : List Notice,
        (stepEnd s.env k f l).port q = (l.port q).takes ((if q = a.owner then own else []) ++ more) ∧
        (∀ n ∈ more, n.kind = .batchReady ∨ n.kind = .cursorState) ∧
        (¬SomeFired WatchActions.signal f.fired a → more = []) := by
  obtain ⟨d, own, hd, hrest, hlocal, hport⟩ := stepRest_rests s.env (k := k) (l := l) hs f
  obtain ⟨hothers, hports⟩ := hlocal
  have hq (q : PortId) :
      (stepRest s.env k f a l).port q = (l.port q).takes (if q = a.owner then own else []) := by
    split_ifs with ho
    · rw [ho, hport]
    · exact hports q ho
  rw [stepEnd_eq s.env h]
  by_cases hsig : SomeFired WatchActions.signal f.fired a
  · obtain ⟨hstart, hstay, -⟩ := signalFrom_signals s.env k (stepRest s.env k f a l)
    rw [if_pos ((firedWith_iff _ _ _).2 hsig)]
    refine ⟨d, own, _, hstay k d hd fun g => hrest.not_armed hs g.1, hrest, fun g => absurd hsig g,
      fun _ j x hj hx hw => hstart j x ((hothers j hj).trans hx) hw,
      fun j x hj hx hw => hstay j x ((hothers j hj).trans hx) fun g => hw ⟨hsig, g⟩, fun q => ?_⟩
    obtain ⟨more, g1, g2, -⟩ := signalFrom_tells s k (stepRest s.env k f a l) q
    refine ⟨more, ?_, g2, fun g => absurd hsig g⟩
    rw [g1, hq, takes_append]
  · rw [if_neg (mt (firedWith_iff _ _ _).1 hsig)]
    refine ⟨d, own, _, hd, hrest, fun _ => rfl, fun g => absurd g hsig, fun j x hj hx _ => (hothers j hj).trans hx,
      fun q => ⟨[], ?_, fun n hn => absurd hn List.not_mem_nil, fun _ => rfl⟩⟩
    rw [hq, List.append_nil]

/-! ### The end of a step, as the statements say it -/

/-- R114, R147: what stops a cursor at the end of a step. -/
def StepStops (f : StepFlight) (a : Cursor) : Prop :=
  SomeFired WatchActions.hold f.fired a ∨ a.probes = [] ∧ a.redo = false ∧ HoldDue a

section
variable {e : Env} {k : Slot} {f : StepFlight} {t u : CheckpointTable} {a d : Cursor} {own : List Notice}

theorem not_stopped (h : a.redo = true ∨ ¬HoldDue a ∧ a.overtaken = none) :
    ¬(a.probes = [] ∧ a.redo = false ∧ HoldDue a) := by
  rintro ⟨-, hr, hd⟩
  rcases h with g | ⟨g, -⟩
  · exact nomatch hr.symm.trans g
  · exact g hd

theorem StepRest.setting (h : StepRest e k f t a d own u) :
    d.owner = a.owner ∧ d.options = a.options ∧ d.watches = hitWatches f.fired a.watches := by
  cases h <;> exact ⟨rfl, rfl, rfl⟩

/-- R114, R147: a cursor that is stopped becomes HELD, with a flush. -/
theorem StepRest.stopped (h : StepRest e k f t a d own u) (hstops : StepStops f a) :
    d.state = .held ∧ d.op = .none ∧ d.pendingHold = none ∧ d.stepsLeft = 0 ∧ d.image = a.image ∧
      d.position = a.position ∧ d.instant = a.instant ∧ d.overtaken = a.overtaken ∧ d.trail = a.trail ∧
      d.buffer = a.buffer.flushed a.options := by
  cases h with
  | watch | held => exact ⟨rfl, rfl, rfl, rfl, rfl, rfl, rfl, rfl, rfl, rfl⟩
  | probes ps u hold queued => exact absurd (hstops.resolve_left hold).1 queued
  | free hold queued still => exact absurd (hstops.resolve_left hold) (not_stopped still)
  | rebase b hold queued redo due => exact absurd (hstops.resolve_left hold).2.2 due

/-- R114: a cursor that is not stopped stays RUNNING. -/
theorem StepRest.goesOn (h : StepRest e k f t a d own u) (hs : a.state = .running) (hw : a.buffer.waiting = none)
    (hstops : ¬StepStops f a) : d.state = .running ∧ d.stepsLeft = a.stepsLeft ∧ d.buffer = a.buffer ∧ own = [] := by
  cases h with
  | watch ps u hold => exact absurd (.inl hold) hstops
  | held hold queued redo due => exact absurd (.inr ⟨queued, redo, due⟩) hstops
  | probes | free => exact ⟨hs, rfl, rfl, rfl⟩
  | rebase =>
    have hbuf : ({ a.buffer with waiting := none } : Buffer) = a.buffer := by rw [← hw]
    exact ⟨hs, rfl, hbuf, rfl⟩

/-- R113, R114: nothing else changes of a cursor that is neither stopped nor overtaken. -/
theorem StepRest.undisturbed (h : StepRest e k f t a d own u) (hstops : ¬StepStops f a) (ho : a.overtaken = none) :
    d.op = .none ∧ d.image = a.image ∧ d.position = a.position ∧ d.instant = a.instant ∧ d.trail = a.trail ∧
      d.lagging = a.lagging := by
  cases h with
  | watch ps u hold => exact absurd (.inl hold) hstops
  | held hold queued redo due => exact absurd (.inr ⟨queued, redo, due⟩) hstops
  | probes | free => exact ⟨rfl, rfl, rfl, rfl, rfl, rfl⟩
  | rebase b hold queued redo due passed => exact absurd ho passed

/-- R122, R170: an overtaken cursor that is not stopped rebases. -/
theorem StepRest.rebases (h : StepRest e k f t a d own u) (hstops : ¬StepStops f a) (hp : a.probes = [])
    (hr : a.redo = false) (ho : a.overtaken ≠ none) :
    RebuildBegun t .rebase (a.instant.getD 0) a.overtaken d ∧
      LagTestedAfter e.history.records e.clock.instant a d ∧ u = (t.choose (a.instant.getD 0)).2 := by
  cases h with
  | watch ps u hold => exact absurd (.inl hold) hstops
  | held hold queued redo due => exact absurd (.inr ⟨queued, redo, due⟩) hstops
  | probes ps u hold queued => exact absurd hp queued
  | free hold queued still =>
    rcases still with g | g
    · exact nomatch hr.symm.trans g
    · exact absurd g.2 ho
  | rebase b hold queued redo due passed tested =>
    exact ⟨rebuildBegun_start t (a.counted f.fired) .rebase _ b, tested, rfl⟩

/-- R147, R156: the trail of a cursor that a watch holds is frozen; else the trail is as before, and a waiting probe
begins. -/
theorem StepRest.frozen (h : StepRest e k f t a d own u) :
    (SomeFired WatchActions.hold f.fired a → d.trailFrozen = true) ∧
      (¬SomeFired WatchActions.hold f.fired a → a.probes = [] → d.probes = [] ∧ d.trailFrozen = a.trailFrozen) := by
  cases h with
  | watch ps u hold => exact ⟨fun _ => rfl, fun g => absurd hold g⟩
  | probes ps u hold queued => exact ⟨fun g => absurd g hold, fun _ g => absurd g queued⟩
  | held hold queued | free hold queued | rebase b hold queued =>
    exact ⟨fun g => absurd g hold, fun _ _ => ⟨queued, rfl⟩⟩

theorem StepRest.probing (h : StepRest e k f t a d own u) (hs : a.state = .running)
    (hhold : ¬SomeFired WatchActions.hold f.fired a) (hp : a.probes ≠ []) :
    d.state = .running ∧ d.op = .none ∧ d.probes.length = a.probes.length := by
  cases h with
  | watch ps u hold => exact absurd hold hhold
  | probes ps u hold queued length => exact ⟨hs, rfl, length⟩
  | held hold queued | free hold queued | rebase b hold queued => exact absurd queued hp

/-- R134, R135, R147: what the owner of a stopped cursor is told. -/
theorem StepRest.told (h : StepRest e k f t a d own u) (hstops : StepStops f a) :
    (SomeFired WatchActions.hold f.fired a →
      own = a.buffer.flushTold k a.options ++ [.watchFired k f.fired f.commit f.time a.instant]) ∧
      (¬SomeFired WatchActions.hold f.fired a → own = a.buffer.flushTold k a.options) := by
  cases h with
  | watch ps u hold => exact ⟨fun _ => rfl, fun g => absurd hold g⟩
  | held hold => exact ⟨fun g => absurd g hold, fun _ => rfl⟩
  | probes ps u hold queued => exact absurd (hstops.resolve_left hold).1 queued
  | free hold queued still => exact absurd (hstops.resolve_left hold) (not_stopped still)
  | rebase b hold queued redo due => exact absurd (hstops.resolve_left hold).2.2 due

/-- R113: what the read of a record has set stands after the step of a cursor that is not overtaken. -/
theorem StepRest.keeps (h : StepRest e k f t a d own u) (ho : a.overtaken = none) :
    d.image = a.image ∧ d.position = a.position ∧ d.instant = a.instant ∧ d.stepBase = a.stepBase ∧
      d.trail = a.trail := by
  cases h with
  | watch | probes | held | free => exact ⟨rfl, rfl, rfl, rfl, rfl⟩
  | rebase b hold queued redo due passed => exact absurd ho passed

end

/-! ### The items of a step (R113, R131) -/

theorem writeNext_step (e : Env) {k : Slot} {l : Live} {c : Cursor} {f : StepFlight} {x : ItemPlan}
    {rest : List ItemPlan} (h : l.cursor k = some c) (hop : c.op = .step f) (ht : f.todo = x :: rest) :
    writeNext e k l = emit e k (.step { f with todo := rest }) x (afterItem e k) l := by
  unfold writeNext
  rw [withCursor_some _ h, hop]
  dsimp only
  rw [ht]

theorem afterItem_more (e : Env) {k : Slot} {l : Live} {c : Cursor} {f : StepFlight} (h : l.cursor k = some c)
    (hop : c.op = .step f) (ht : f.todo ≠ []) : afterItem e k l = l := by
  unfold afterItem
  rw [withCursor_some _ h, hop]
  exact if_neg ht

theorem afterItem_last (e : Env) {k : Slot} {l : Live} {c : Cursor} {f : StepFlight} (h : l.cursor k = some c)
    (hop : c.op = .step f) (ht : f.todo = []) : afterItem e k l = stepEnd e k f l := by
  unfold afterItem
  rw [withCursor_some _ h, hop]
  exact if_pos ht

/-- R131: the cursor with the next item of its step delivered. -/
def Cursor.wrote (e : Env) (f : StepFlight) (x : ItemPlan) (rest : List ItemPlan) (c : Cursor) : Cursor :=
  { c with
    op := .step { f with todo := rest, written := f.written + 1 }
    buffer :=
      { c.buffer.delivered c.options (flushesOn c x) (renderItem e c x) with
        refTime := refTimeAfter c.buffer.refTime x } }

/-- R131: an item of a step with room is delivered; the last one ends the step. -/
theorem writeNext_delivers (e : Env) {k : Slot} {l : Live} {c : Cursor} {f : StepFlight} {x : ItemPlan}
    {rest : List ItemPlan} (h : l.cursor k = some c) (hop : c.op = .step f) (ht : f.todo = x :: rest)
    (hr : c.buffer.hasRoom c.options = true) :
    ∃ m : Live, m.cursor k = some (c.wrote e f x rest) ∧
      m.port c.owner =
        (l.port c.owner).takes (c.buffer.announced k c.options (flushesOn c x) (renderItem e c x)) ∧
      m.checkpoints = l.checkpoints ∧ Local k c.owner l m ∧
      (rest ≠ [] → writeNext e k l = m) ∧
      (rest = [] → writeNext e k l = stepEnd e k { f with todo := rest, written := f.written + 1 } m) := by
  obtain ⟨m, hgo, hm, hport, hcp, hlocal⟩ := emit_delivers e h (.step { f with todo := rest }) x (afterItem e k) hr
  have hwrite := (writeNext_step e h hop ht).trans hgo
  exact ⟨m, hm, hport, hcp, hlocal, fun hrest => hwrite.trans (afterItem_more e hm rfl hrest),
    fun hrest => hwrite.trans (afterItem_last e hm rfl hrest)⟩

/-- R134: an item delivered with a flush that follows is one delivered that flushes. -/
theorem wrote_flushed (e : Env) (f : StepFlight) (x : ItemPlan) (rest : List ItemPlan) (c : Cursor) :
    (c.wrote e f x rest).buffer.flushed (c.wrote e f x rest).options =
      { c.buffer.delivered c.options true (renderItem e c x) with refTime := refTimeAfter c.buffer.refTime x } :=
  (flushed_refTime _ _ _).trans
    (congrArg (fun b : Buffer => { b with refTime := refTimeAfter c.buffer.refTime x }) (delivered_flushed _ _ _ _))

theorem wrote_told (e : Env) (k : Slot) (f : StepFlight) (x : ItemPlan) (rest : List ItemPlan) (c : Cursor) :
    c.buffer.announced k c.options (flushesOn c x) (renderItem e c x) ++
        (c.wrote e f x rest).buffer.flushTold k (c.wrote e f x rest).options =
      c.buffer.announced k c.options true (renderItem e c x) :=
  announced_flushed k c.options (flushesOn c x) (renderItem e c x) c.buffer

theorem wrote_waiting (e : Env) (f : StepFlight) (x : ItemPlan) (rest : List ItemPlan) (c : Cursor) :
    (c.wrote e f x rest).buffer.waiting = none :=
  delivered_waiting _ _ _ _

end Sys2Proof.Machine
end

section
/-!
PROOF. The read of a step that applies a record, and the items of the step (R113, R131, R144 to R147): O50.
-/

namespace Sys2Proof.Machine

open Sys2Proof

/-! ### The read of a record (R85, R113) -/

/-- R86: the creation at a read changes the Checkpoint Table alone. -/
theorem checkpointAtRead_eq (boundary : Option Nat) (c : Cursor) (l : Live) :
    checkpointAtRead boundary c l = { l with checkpoints := (checkpointAtRead boundary c l).checkpoints } := by
  unfold checkpointAtRead
  split
  · rfl
  · split_ifs <;> rfl

/-- R113: a step has its RECORD. -/
theorem stepFlightOf_todo (t : Tables) (gaps : List Gap) (c d : Cursor) (r : Record) :
    ∃ x rest, (stepFlightOf t gaps c d r).todo = x :: rest :=
  List.exists_cons_of_ne_nil (by simp [stepFlightOf])

/-- R113: the part as the read of a record leaves it, no item of the step written. -/
def Live.afterRead (e : Env) (k : Slot) (c : Cursor) (r : Record) (l : Live) : Live :=
  (checkpointAtRead (boundaryBefore e.tables.study.intervalMicros c.instant r.time) c l).setCursor k (c.stepped e r)

theorem afterRead_cursor (e : Env) (k : Slot) (c : Cursor) (r : Record) (l : Live) :
    (l.afterRead e k c r).cursor k = some (c.stepped e r) :=
  cursor_setCursor_same _ _ _

theorem afterRead_other (e : Env) {j k : Slot} (c : Cursor) (r : Record) (l : Live) (h : j ≠ k) :
    (l.afterRead e k c r).cursor j = l.cursor j :=
  (cursor_setCursor_ne _ _ h.symm).trans (checkpointAtRead_cursor _ _ _ _)

theorem exec_stepRead_applies {s : State} {k : Slot} {c : Cursor} {r : Record} (hreset : s.resetLow = false)
    (h : s.live.cursor k = some c) (hdue : readDue c = true)
    (hn : nextAfter c.position s.history.records = some r) (hw : ∀ w ∈ c.options.windowEnd, r.time ≤ w)
    (hb : c.options.pacing = .bound → r.time ≤ s.clock.instant) :
    exec (.stepRead k) s = .next (s.withLive (writeNext s.env k (s.live.afterRead s.env k c r))) := by
  obtain ⟨hread, -⟩ := stepRead_of_due h hdue
  rw [exec_stepRead hreset, hread r (stepAnswer_applies hn hw hb), applyStep_eq s.env h]
  rfl

/-- R151: the last entry of a trail is the record applied last. -/
theorem pushTrail_getLast (x : TrailEntry) (trail : List TrailEntry) : (pushTrail x trail).getLast? = some x := by
  have hlen : ¬(trail ++ [x]).length ≤ trail.length + 1 - Config.trailCapacity := by
    simp [Config.trailCapacity]
  rw [pushTrail, List.getLast?_drop, if_neg hlen, List.getLast?_concat]

theorem stepped_trail_frozen (e : Env) {c : Cursor} (r : Record) (h : c.trailFrozen = true) :
    (c.stepped e r).trail = c.trail :=
  if_pos h

theorem stepped_trail (e : Env) {c : Cursor} (r : Record) (h : c.trailFrozen = false) :
    (c.stepped e r).trail =
      pushTrail (trailEntryOf r (Image.stateOf e.tables (c.image.getD []) r.point)) c.trail :=
  if_neg (by simp [h])

/-! ### What stands after an item of a step -/

/-- R113: an item of a step keeps what the read of the record has set, and every other cursor that is not ARMED. -/
theorem writeNext_keeps (s : State) {k : Slot} {l : Live} {c : Cursor} {f : StepFlight} {x : ItemPlan}
    {rest : List ItemPlan} (h : l.cursor k = some c) (hs : c.state = .running) (hop : c.op = .step f)
    (ht : f.todo = x :: rest) (ho : c.overtaken = none) :
    ∃ d, (writeNext s.env k l).cursor k = some d ∧ d.owner = c.owner ∧ d.options = c.options ∧
      (d.image = c.image ∧ d.position = c.position ∧ d.instant = c.instant ∧ d.stepBase = c.stepBase ∧
        d.trail = c.trail) ∧
      ∀ j y, j ≠ k → l.cursor j = some y → y.state ≠ .armed → (writeNext s.env k l).cursor j = some y := by
  cases hr : c.buffer.hasRoom c.options with
  | false =>
    have hwrite := writeNext_step s.env h hop ht
    obtain ⟨d, hd, -, hstall⟩ := emit_stalls (s := s) h (.step { f with todo := rest }) x (afterItem s.env k) hr
    obtain ⟨-, -, hlocal⟩ := emit_stalls_keeps s.env h (.step { f with todo := rest }) x (afterItem s.env k) hr
    rw [hwrite]
    refine ⟨d, hd, ?_, ?_, ?_, fun j y hj hy _ => (hlocal.1 j hj).trans hy⟩
    · exact (congrArg Cursor.owner hstall :)
    · exact (congrArg Cursor.options hstall :)
    · exact ⟨(congrArg Cursor.image hstall :), (congrArg Cursor.position hstall :),
        (congrArg Cursor.instant hstall :), (congrArg Cursor.stepBase hstall :), (congrArg Cursor.trail hstall :)⟩
  | true =>
    obtain ⟨m, hm, -, -, hlocal, hmore, hlast⟩ := writeNext_delivers s.env h hop ht hr
    by_cases hrest : rest = []
    · obtain ⟨d, own, u, hd, hrests, -, -, hothers, -⟩ :=
        stepEnd_leaves s hm hs { f with todo := rest, written := f.written + 1 }
      obtain ⟨howner, hoptions, -⟩ := hrests.setting
      rw [hlast hrest]
      exact ⟨d, hd, howner, hoptions, hrests.keeps ho,
        fun j y hj hy ha => hothers j y hj ((hlocal.1 j hj).trans hy) fun g => ha g.2.1⟩
    · rw [hmore hrest]
      exact ⟨_, hm, rfl, rfl, ⟨rfl, rfl, rfl, rfl, rfl⟩, fun j y hj hy _ => (hlocal.1 j hj).trans hy⟩

/-! ### The clauses of O50 -/

/-- R113: the read of a record, as the statement's first clause says it. -/
theorem stepRead_reaches {s : State} {k : Slot} {c : Cursor} {r : Record} (hreset : s.resetLow = false)
    (h : s.live.cursor k = some c) (hs : c.state = .running) (hdue : readDue c = true) (ho : c.overtaken = none)
    (hn : nextAfter c.position s.history.records = some r) (hw : ∀ w ∈ c.options.windowEnd, r.time ≤ w)
    (hb : c.options.pacing = .bound → r.time ≤ s.clock.instant) :
    ∃ t d, exec (.stepRead k) s = .next t ∧ SameStore s t ∧ t.live.cursor k = some d ∧
      d.image = some (Image.put (c.image.getD []) r.point { state := r.state, time := r.time, commit := r.commit }) ∧
      d.position = some r.key ∧ d.instant = some r.time ∧ d.stepBase = some r.time ∧ d.owner = c.owner ∧
      d.options = c.options ∧
      (c.trailFrozen = true → d.trail = c.trail) ∧
      (c.trailFrozen = false → ∃ x, d.trail.getLast? = some x ∧ x.key = r.key ∧ x.point = r.point ∧
        x.state = r.state ∧ x.quality = r.quality ∧ x.commit = r.commit ∧
        x.before = Image.stateOf s.tables (c.image.getD []) r.point) ∧
      ∀ (j : Slot) (x : Cursor), j ≠ k → s.live.cursor j = some x → x.state ≠ .armed → t.live.cursor j = some x := by
  obtain ⟨x, rest, htodo⟩ := stepFlightOf_todo s.tables s.gaps c (c.applyRecord s.tables r) r
  obtain ⟨d, hd, howner, hoptions, ⟨himage, hposition, hinstant, hbase, htrail⟩, hothers⟩ :=
    writeNext_keeps s (afterRead_cursor s.env k c r s.live) hs rfl htodo ho
  refine ⟨_, d, exec_stepRead_applies hreset h hdue hn hw hb, ⟨rfl, rfl, rfl, rfl, rfl, rfl, rfl, rfl⟩, hd, himage,
    hposition, hinstant, hbase, howner, hoptions, fun hf => htrail.trans (stepped_trail_frozen _ r hf), fun hf => ?_,
    fun j y hj hy ha => hothers j y hj ((afterRead_other s.env c r s.live hj).trans hy) ha⟩
  refine ⟨trailEntryOf r (Image.stateOf s.tables (c.image.getD []) r.point), ?_, rfl, rfl, rfl, rfl, rfl, rfl⟩
  rw [htrail, stepped_trail _ r hf]
  exact pushTrail_getLast _ _

/-- R113: the record that a read returns is the first in key order after the position. -/
theorem nextAfter_least {rs : List Record} {pos : Option Key} {r : Record}
    (ho : rs.Pairwise fun a b => keyBefore a.key b.key = true) (h : nextAfter pos rs = some r) :
    ∀ x ∈ rs, keyAfter x.key pos = true → x = r ∨ keyBefore r.key x.key = true := by
  obtain ⟨xs, ys, rfl, hbefore, -⟩ := nextAfter_parts h
  obtain ⟨-, hys, -⟩ := List.pairwise_append.1 ho
  intro x hx hafter
  rcases List.mem_append.1 hx with hx | hx
  · exact absurd hafter (by simp [hbefore x hx])
  · rcases List.mem_cons.1 hx with rfl | hx
    · exact .inl rfl
    · exact .inr ((List.pairwise_cons.1 hys).1 x hx)

/-- R113, R131: an item of a step that finds no room waits. -/
theorem item_stalls {s : State} {k : Slot} {c : Cursor} {f : StepFlight} {x : ItemPlan} {rest : List ItemPlan}
    (h : s.live.cursor k = some c) (hop : c.op = .step f) (ht : f.todo = x :: rest)
    (hr : c.buffer.hasRoom c.options = false) {t : State}
    (hgo : t = s.withLive (writeNext s.env k s.live)) {d : Cursor} (hd : t.live.cursor k = some d) :
    Stalls s { c with op := .step { f with todo := rest }, buffer := { c.buffer with waiting := some x } } d ∧
      OthersSame s t k c.owner ∧ t.live.port c.owner = s.live.port c.owner ∧
      t.live.checkpoints = s.live.checkpoints := by
  rw [writeNext_step s.env h hop ht] at hgo
  obtain ⟨y, hy, hstall⟩ := emit_stalls (s := s) h (.step { f with todo := rest }) x (afterItem s.env k) hr
  obtain ⟨hports, hcp, hlocal⟩ := emit_stalls_keeps s.env h (.step { f with todo := rest }) x (afterItem s.env k) hr
  subst hgo
  obtain rfl := Option.some.inj (hy.symm.trans hd)
  exact ⟨hstall, hlocal, congrFun (congrArg Vector.get hports) c.owner, hcp⟩

theorem exec_itemWritten_step {s : State} {k : Slot} {c : Cursor} {f : StepFlight} {x : ItemPlan}
    {rest : List ItemPlan} (hreset : s.resetLow = false) (h : s.live.cursor k = some c) (hop : c.op = .step f)
    (ht : f.todo = x :: rest) (hw : c.buffer.waiting = none) :
    exec (.itemWritten k) s = .next (s.withLive (writeNext s.env k s.live)) := by
  have hdue : itemDue c = true := by simp [itemDue, hw, hop, ht]
  have hgo : itemWritten s.env k s.live = writeNext s.env k s.live := by
    unfold itemWritten
    rw [withCursor_some _ h, if_pos hdue]
  exact (congrArg Host.Outcome.next (if_neg (by simp [hreset]))).trans
    (congrArg (fun l => Host.Outcome.next (s.withLive l)) hgo)

/-- R127, R129: what a RECORD item carries. -/
theorem renderItem_record (e : Env) (c : Cursor) (r : Record) (n : Bool) :
    ∃ y : RecordItem, renderItem e c (.record r n) = .record y ∧ y.presentation = c.options.presentation ∧
      y.point = r.point ∧ y.state = r.state ∧ y.quality = r.quality ∧ y.late = r.late ∧
      y.repositioned = r.repositioned ∧ y.corroborated = decide (2 ≤ r.sources.length) ∧ y.noChange = n ∧
      (c.options.presentation = .absolute → y.time = (r.time : Int)) ∧
      (c.options.presentation = .zeroRelative → y.time = (r.time : Int) - (e.tables.study.eventZero : Int)) ∧
      (∀ t : Nat, c.options.presentation = .previousRelative → c.buffer.refTime = some t →
        y.time = (r.time : Int) - (t : Int)) ∧
      (c.options.presentation = .recorderLocal → y.time = (r.timing.recorderTime : Int)) ∧
      (c.options.form = .compact → y.full = none) ∧
      (c.options.form = .full → y.full = some { cause := r.cause, commit := r.commit, sources := r.sources }) := by
  have hcorr : r.corroborated = decide (2 ≤ r.sources.length) := by
    unfold Record.corroborated Record.sources
    cases r.others <;> simp
  refine ⟨_, rfl, rfl, rfl, rfl, rfl, rfl, rfl, hcorr, rfl, fun hp => ?_, fun hp => ?_, fun t hp ht => ?_,
    fun hp => ?_, fun hf => if_neg (by simp [hf]), fun hf => if_pos hf⟩
  · simp [presentTime, hp]
  · simp [presentTime, hp]
  · simp [presentTime, hp, ht]
  · simp [presentTime, hp]

theorem stateOf_eq (t : Tables) (img : Image) (p : PointId) :
    Image.stateOf t img p = (Image.cell img p).elim (t.points.get p).initial fun y => .known y.state := by
  unfold Image.stateOf
  cases Image.cell img p <;> rfl

/-- R114, R120, R131, R144 to R147: the last item of a step, as the statement's fourth clause says it. -/
theorem lastItem_leaves {s : State} {k : Slot} {c : Cursor} {f : StepFlight} {x : ItemPlan}
    (h : s.live.cursor k = some c) (hs : c.state = .running) (hop : c.op = .step f) (ht : f.todo = [x])
    (hr : c.buffer.hasRoom c.options = true) {t : State} (hgo : t = s.withLive (writeNext s.env k s.live)) {d : Cursor}
    (hd : t.live.cursor k = some d) :
    let it := renderItem s.env c x
    let flushes := flushesOn c x
    let refTime := refTimeAfter c.buffer.refTime x
    let holds := SomeFired WatchActions.hold f.fired c
    let signals := SomeFired WatchActions.signal f.fired c
    let stops := holds ∨ c.probes = [] ∧ c.redo = false ∧
      (c.pendingHold ≠ none ∨ c.underStep = true ∧ c.stepsLeft = 0)
    d.owner = c.owner ∧ d.options = c.options ∧
      (∀ i : WatchId, d.watches.get i =
        if i ∈ f.fired then
          (c.watches.get i).map fun y => { y with fired := true, hits := min (y.hits + 1) 65535 }
        else c.watches.get i) ∧
      (stops → d.state = .held ∧ d.op = .none ∧ d.pendingHold = none ∧ d.stepsLeft = 0 ∧ d.image = c.image ∧
        d.position = c.position ∧ d.instant = c.instant ∧ d.overtaken = c.overtaken ∧ d.trail = c.trail ∧
        d.buffer = { c.buffer.delivered c.options true it with refTime := refTime }) ∧
      (holds → d.trailFrozen = true) ∧
      (¬holds → c.probes = [] → d.probes = [] ∧ d.trailFrozen = c.trailFrozen) ∧
      (¬holds → c.probes ≠ [] → d.state = .running ∧ d.op = .none ∧ d.probes.length = c.probes.length) ∧
      (¬stops → d.state = .running ∧ d.stepsLeft = c.stepsLeft ∧
        d.buffer = { c.buffer.delivered c.options flushes it with refTime := refTime }) ∧
      (¬stops → c.overtaken = none →
        d.op = .none ∧ d.image = c.image ∧ d.position = c.position ∧ d.instant = c.instant ∧ d.trail = c.trail ∧
          d.lagging = c.lagging) ∧
      (¬stops → c.probes = [] → c.redo = false → c.overtaken ≠ none →
        RebuildBegun s.live.checkpoints .rebase (c.instant.getD 0) c.overtaken d ∧
          LagTestedAfter s.history.records s.clock.instant c d ∧
          (¬signals → t.live.checkpoints = (s.live.checkpoints.choose (c.instant.getD 0)).2)) ∧
      (signals → Signalled k s t) ∧
      (∀ (j : Slot) (y : Cursor), j ≠ k → s.live.cursor j = some y → ¬(signals ∧ Awaits k y) →
        t.live.cursor j = some y) ∧
      ∀ q : PortId, ∃ own more : List Notice, t.live.port q = (s.live.port q).takes (own ++ more) ∧
        (q ≠ c.owner → own = []) ∧
        (q = c.owner → holds →
          own = c.buffer.announced k c.options true it ++ [.watchFired k f.fired f.commit f.time c.instant]) ∧
        (q = c.owner → ¬holds → stops → own = c.buffer.announced k c.options true it) ∧
        (q = c.owner → ¬stops → own = c.buffer.announced k c.options flushes it) ∧
        (∀ n ∈ more, n.kind = .batchReady ∨ n.kind = .cursorState) ∧ (¬signals → more = []) := by
  intro it flushes refTime holds signals stops
  let g : StepFlight := { f with todo := [], written := f.written + 1 }
  let a : Cursor := c.wrote s.env f x []
  obtain ⟨m, hm, hport, hcp, hlocal, -, hlast⟩ := writeNext_delivers s.env h hop ht hr
  rw [hlast rfl] at hgo
  subst hgo
  obtain ⟨y, own, u, hy, hrests, htable, hstart, hothers, hports⟩ := stepEnd_leaves s hm hs g
  obtain rfl := Option.some.inj (hy.symm.trans hd)
  rw [hcp] at hrests
  obtain ⟨howner, hoptions, hwatches⟩ := hrests.setting
  have htold : c.buffer.announced k c.options flushes it ++ a.buffer.flushTold k a.options =
      c.buffer.announced k c.options true it := wrote_told s.env k f x [] c
  refine ⟨howner, hoptions, fun i => ?_, fun hstops => ?_, hrests.frozen.1, hrests.frozen.2, hrests.probing hs,
    fun hstops => ?_, hrests.undisturbed, fun hstops hp hredo ho => ?_, fun hsig j z hz hw => ?_,
    fun j z hj hz => hothers j z hj ((hlocal.1 j hj).trans hz), fun q => ?_⟩
  · rw [hwatches]
    exact get_hitWatches f.fired c.watches i
  · obtain ⟨h1, h2, h3, h4, h5, h6, h7, h8, h9, h10⟩ := hrests.stopped hstops
    exact ⟨h1, h2, h3, h4, h5, h6, h7, h8, h9, h10.trans (wrote_flushed s.env f x [] c)⟩
  · obtain ⟨h1, h2, h3, -⟩ := hrests.goesOn hs (wrote_waiting s.env f x [] c) hstops
    exact ⟨h1, h2, h3⟩
  · obtain ⟨h1, h2, h3⟩ := hrests.rebases hstops hp hredo ho
    exact ⟨h1, h2, fun hsig => (htable hsig).trans h3⟩
  · by_cases hj : j = k
    · subst hj
      obtain rfl := Option.some.inj (h.symm.trans hz)
      exact nomatch hs.symm.trans hw.1
    · exact hstart hsig j z hj ((hlocal.1 j hj).trans hz) hw
  · obtain ⟨more, hq, hkind, hnone⟩ := hports q
    refine ⟨if q = c.owner then c.buffer.announced k c.options flushes it ++ own else [], more, ?_,
      fun hne => if_neg hne, fun ho hhold => ?_, fun ho hhold hstops => ?_, fun ho hstops => ?_, hkind, hnone⟩
    · refine hq.trans ?_
      rw [takes_append, takes_append]
      refine congrArg (fun p : Port => p.takes more) ?_
      by_cases ho : q = c.owner
      · rw [if_pos ho, takes_append, ho]
        exact (congrArg (m.port c.owner).takes (if_pos rfl)).trans (congrArg (fun p : Port => p.takes own) hport)
      · rw [if_neg ho]
        exact (congrArg (m.port q).takes (if_neg ho)).trans (hlocal.2 q ho)
    · rw [if_pos ho, (hrests.told (.inl hhold)).1 hhold, ← List.append_assoc, htold]
      rfl
    · rw [if_pos ho, (hrests.told hstops).2 hhold, htold]
    · obtain ⟨-, -, -, hown⟩ := hrests.goesOn hs (wrote_waiting s.env f x [] c) hstops
      rw [if_pos ho, hown, List.append_nil]

/-- Settles O50: the read of a record applies it and begins its step, whose items are delivered in order or wait. -/
theorem stepReadApplies : Obligations.StepReadApplies := by
  unfold Obligations.StepReadApplies
  refine ⟨fun s k c r hreset h hs hop hp hk ho hn hw hb =>
      stepRead_reaches hreset h hs (readDue_of hs hop hp hk) ho hn hw hb,
    fun rs pos hord => ⟨nextAfter_none, fun r hn =>
      ⟨(nextAfter_some hn).1, (nextAfter_some hn).2, nextAfter_least hord hn⟩⟩,
    fun s k c r hreset h hs hop hp hk ho hwait hn hw hb => ?_,
    fun s k c f x rest hreset h hs hop ht hwait => ?_,
    fun s c r n m => ⟨rfl, renderItem_record s.env c r n⟩,
    fun t img p q x => ⟨rfl, Image.cell_put img p q x, Image.cell_restore_put img p q x, stateOf_eq t img p⟩⟩
  · let f := stepFlightOf s.tables s.gaps c (c.applyRecord s.tables r) r
    obtain ⟨y, rest, htodo⟩ := stepFlightOf_todo s.tables s.gaps c (c.applyRecord s.tables r) r
    refine ⟨_, f.todo, _, (c.stepped s.env r).trail, f, rfl, stepFlightOf_items s c r,
      checkpointAtRead_before s.tables.study c c.instant r.time s.live, rfl, rfl, rfl, rfl, rfl,
      stepped_trail_frozen s.env r, fun hf => ⟨_, stepped_trail s.env r hf, rfl, rfl, rfl⟩, ?_⟩
    rw [← checkpointAtRead_eq]
    exact (exec_stepRead_applies hreset h (readDue_of hs hop hp hk) hn hw hb).trans
      (exec_itemWritten_step (s := s.withLive (s.live.afterRead s.env k c r)) hreset (afterRead_cursor _ _ _ _ _) rfl
        htodo hwait).symm
  · intro it flushes refTime holds signals stops
    have hflushes : flushes = flushesOn c x := by
      cases x with
      | marker m => cases m <;> rfl
      | record | snap => rfl
    have hrefTime : refTime = refTimeAfter c.buffer.refTime x := by cases x <;> rfl
    rw [hflushes, hrefTime]
    obtain ⟨d, hd⟩ := cursor_of_grows (writeNext_grows s.env k s.live) h
    refine ⟨_, d, exec_itemWritten_step hreset h hop ht hwait, ⟨rfl, rfl, rfl, rfl, rfl, rfl, rfl, rfl⟩, hd,
      fun hr => item_stalls h hop ht hr rfl hd, fun hr hrest => ?_, fun hr hrest => ?_⟩
    · obtain ⟨m, hm, hport, hcp, hlocal, hmore, -⟩ := writeNext_delivers s.env h hop ht hr
      rw [hmore hrest] at hd ⊢
      obtain rfl := Option.some.inj (hm.symm.trans hd)
      exact ⟨rfl, hlocal, hcp, hport⟩
    · subst hrest
      exact lastItem_leaves h hs hop ht hr rfl hd

end Sys2Proof.Machine
end

section
/-!
PROOF. What a request on a cursor is refused (R100, R107, R109, R110, R118, R123, R176), and ARM (R118): O31, O39, O41.
-/

namespace Sys2Proof.Machine

open Sys2Proof

/-! ### A controlling request that reaches no cursor (R100, R176) -/

/-- R100: every controlling request is judged by its slot first, and then by a rule of its own. -/
theorem exec_controlled {cmd : Instr} {p : PortId} {code slot : Nat} (hreq : requestOf cmd = some (p, code))
    (hslot : controlledSlot cmd = some slot) :
    ∃ rule : List Byte → Slot → Cursor → State → Response × State,
      ∀ s, exec cmd s = .next (takeRequest p code (fun body => cursorRequest p slot (rule body) body) s) := by
  cases cmd <;> cases hslot <;> cases hreq <;> exact ⟨_, fun _ => rfl⟩

theorem cursorRequest_short (p : PortId) (slot : Nat) (rule : Slot → Cursor → State → Response × State) (s : State) :
    cursorRequest p slot rule [] s = (Response.plain .badArgument, s) := rfl

/-- R100: a slot out of range, or FREE. -/
theorem cursorRequest_badCursor {slot : Nat} {body : List Byte} {s : State} (hb : body ≠ [])
    (h : 8 ≤ slot ∨ ∃ k : Slot, k.val = slot ∧ s.live.cursor k = none) (p : PortId)
    (rule : Slot → Cursor → State → Response × State) :
    cursorRequest p slot rule body s = (Response.plain .badCursor, s) := by
  unfold cursorRequest
  rw [if_neg (by simpa using hb)]
  rcases h with h | ⟨k, rfl, hk⟩
  · rw [asIndex_none.2 h]
  · rw [asIndex_val]
    dsimp only
    rw [hk]

/-- R100: an open slot that another port owns. -/
theorem cursorRequest_notOwner {k : Slot} {d : Cursor} {p : PortId} {body : List Byte} {s : State} (hb : body ≠ [])
    (hk : s.live.cursor k = some d) (ho : d.owner ≠ p) (rule : Slot → Cursor → State → Response × State) :
    cursorRequest p k.val rule body s = (Response.plain .notOwner, s) := by
  unfold cursorRequest
  rw [if_neg (by simpa using hb), asIndex_val]
  dsimp only
  rw [hk]
  exact if_neg ho

/-- Settles O31: the refusals of `cursorRequest`, for every controlling request alike. -/
theorem controlRequestsJudgeSlot : Obligations.ControlRequestsJudgeSlot := by
  unfold Obligations.ControlRequestsJudgeSlot
  intro cmd s p code tag slot body hreq hslot htaken
  obtain ⟨rule, hexec⟩ := exec_controlled hreq hslot
  have refused : ∀ {r : RespCode}, cursorRequest p slot (rule body) body (s.popRequest p) =
      (Response.plain r, s.popRequest p) → exec cmd s = .next (answeredOnly s p tag { code := r, body := .empty }) :=
    fun e => (hexec s).trans (congrArg Host.Outcome.next (takeRequest_gives htaken e))
  refine ⟨fun hb => ?_, fun hb hno => ?_, fun k d hb hk hd ho => ?_⟩
  · subst hb
    exact refused (cursorRequest_short ..)
  · exact refused (cursorRequest_badCursor (s := s.popRequest p) hb hno p _)
  · subst hk
    exact refused (cursorRequest_notOwner (s := s.popRequest p) hb hd ho _)

/-! ### A request that its cursor's state refuses (R107, R109, R110, R118, R123) -/

/-- R176: a request whose rule refuses it changes nothing but its port. -/
theorem refused_leaves {s : State} {p : PortId} {code tag slot : Nat} {body : List Byte} {k : Slot} {c : Cursor}
    (htaken : Taken s p code tag body) (hr : Reaches s p slot body k c)
    {rule : Slot → Cursor → State → Response × State} {r : RespCode}
    (e : rule k c (s.popRequest p) = (Response.plain r, s.popRequest p)) :
    takeRequest p code (cursorRequest p slot rule) s = answeredOnly s p tag { code := r, body := .empty } := by
  rw [takeRequest_reaches htaken hr, e]
  rfl

theorem seek_busy {c : Cursor} (h : c.seekable = false) (target : Nat) (chain : Bool) (k : Slot) (s : State) :
    seek target chain k c s = (Response.plain .cursorBusy, s) := by
  simp [seek, h]

theorem seek_badArgument {c : Cursor} (h : c.seekable = true) {target : Nat} (ht : 2 ^ 40 - 1 < target) (chain : Bool)
    (k : Slot) (s : State) : seek target chain k c s = (Response.plain .badArgument, s) := by
  have : Config.maxGrid < target := ht
  simp [seek, h, this]

/-- R107: SEEK is not taken while a snapshot is in flight, in ARMED, and in RUNNING but for a rebuild. -/
theorem seekable_false {c : Cursor}
    (h : c.snap ≠ none ∨ c.state = .armed ∨ c.state = .running ∧ rebuilding c = false) : c.seekable = false := by
  unfold Cursor.seekable
  rcases h with h | h | ⟨h, hr⟩
  · simp [Cursor.snapshotting, Option.isSome_iff_ne_none.2 h]
  · simp [h]
  · simp [h, hr]

theorem play_refused {c : Cursor} {restart : Bool} {r : RespCode} (h : c.playRefusal restart = some r) (k : Slot)
    (s : State) : play restart k c s = (Response.plain r, s) := by
  simp [play, h]

theorem stepRequest_refused {c : Cursor} {r : RespCode} (h : c.settledRefusal = some r) (count : Nat) (k : Slot)
    (s : State) : stepRequest count k c s = (Response.plain r, s) := by
  simp [stepRequest, h]

/-- R118: what the cursor's state answers to ARM; none where it is taken. -/
def Cursor.armRefusal (c : Cursor) : Option RespCode :=
  if c.state = .idle ∧ !c.snapshotting then none else c.settledRefusal

theorem arm_refused {c : Cursor} {r : RespCode} (h : c.armRefusal = some r) (k : Slot) (s : State) :
    arm k c s = (Response.plain r, s) := by
  unfold Cursor.armRefusal at h
  unfold arm
  rw [h]

theorem snapshot_refused {c : Cursor} {r : RespCode} (h : c.snapshotRefusal = some r) (first last : Nat)
    (station : Option Nat) (k : Slot) (s : State) : snapshot first last station k c s = (Response.plain r, s) := by
  simp [snapshot, h]

/-- R109, R110, R118, R123: what a cursor answers by its state alone to PLAY, STEP, ARM or SNAPSHOT, the request of a
code. -/
def Cursor.RefusedAs (code : Nat) (c : Cursor) (refusal : Option RespCode) : Prop :=
  ((c.snap ≠ none ∨ c.state = .seeking ∨ c.state = .armed) → refusal = some .cursorBusy) ∧
  (c.snap = none → c.state = .unsettled ∨ (c.state = .idle ∧ code ≠ 26) → refusal = some .notSettled) ∧
  (c.snap = none → c.state = .running → code ≠ 22 → refusal = some .cursorBusy) ∧
  (c.snap = none → c.state = .ended → code ≠ 27 → refusal = some .atEnd)

theorem playRefusal_refused (c : Cursor) (restart : Bool) : c.RefusedAs 22 (c.playRefusal restart) := by
  unfold Cursor.RefusedAs Cursor.playRefusal Cursor.snapshotting
  cases c.snap <;> cases c.state <;> simp

theorem settledRefusal_refused (c : Cursor) : c.RefusedAs 23 c.settledRefusal := by
  unfold Cursor.RefusedAs Cursor.settledRefusal Cursor.snapshotting
  cases c.snap <;> cases c.state <;> simp

theorem armRefusal_refused (c : Cursor) : c.RefusedAs 26 c.armRefusal := by
  unfold Cursor.RefusedAs Cursor.armRefusal Cursor.settledRefusal Cursor.snapshotting
  cases c.snap <;> cases c.state <;> simp

theorem snapshotRefusal_refused (c : Cursor) : c.RefusedAs 27 c.snapshotRefusal := by
  unfold Cursor.RefusedAs Cursor.snapshotRefusal Cursor.snapshotting
  cases c.snap <;> cases c.state <;> simp

/-! A controlling request is known by its code (R185). -/

theorem seek_of_code {cmd : Instr} {p : PortId} {slot : Nat} (hreq : requestOf cmd = some (p, 21))
    (hslot : controlledSlot cmd = some slot) : ∃ target chain, cmd = .seek p slot target chain := by
  cases cmd <;> cases hslot <;> cases hreq
  exact ⟨_, _, rfl⟩

theorem play_of_code {cmd : Instr} {p : PortId} {slot : Nat} (hreq : requestOf cmd = some (p, 22))
    (hslot : controlledSlot cmd = some slot) : ∃ restart, cmd = .play p slot restart := by
  cases cmd <;> cases hslot <;> cases hreq
  exact ⟨_, rfl⟩

theorem step_of_code {cmd : Instr} {p : PortId} {slot : Nat} (hreq : requestOf cmd = some (p, 23))
    (hslot : controlledSlot cmd = some slot) : ∃ count, cmd = .step p slot count := by
  cases cmd <;> cases hslot <;> cases hreq
  exact ⟨_, rfl⟩

theorem arm_of_code {cmd : Instr} {p : PortId} {slot : Nat} (hreq : requestOf cmd = some (p, 26))
    (hslot : controlledSlot cmd = some slot) : cmd = .arm p slot := by
  cases cmd <;> cases hslot <;> cases hreq
  rfl

theorem snapshot_of_code {cmd : Instr} {p : PortId} {slot : Nat} (hreq : requestOf cmd = some (p, 27))
    (hslot : controlledSlot cmd = some slot) : ∃ first last station, cmd = .snapshot p slot first last station := by
  cases cmd <;> cases hslot <;> cases hreq
  exact ⟨_, _, _, rfl⟩

/-- R109, R110, R118, R123: the rule of PLAY, STEP, ARM or SNAPSHOT asks the cursor's state first. -/
theorem exec_settled {cmd : Instr} {p : PortId} {code slot : Nat} (hreq : requestOf cmd = some (p, code))
    (hslot : controlledSlot cmd = some slot) (hcode : code = 22 ∨ code = 23 ∨ code = 26 ∨ code = 27) (c : Cursor) :
    ∃ (rule : Slot → Cursor → State → Response × State) (refusal : Option RespCode),
      (∀ s, exec cmd s = .next (takeRequest p code (cursorRequest p slot rule) s)) ∧ c.RefusedAs code refusal ∧
        ∀ r k s, refusal = some r → rule k c s = (Response.plain r, s) := by
  rcases hcode with rfl | rfl | rfl | rfl
  · obtain ⟨restart, rfl⟩ := play_of_code hreq hslot
    exact ⟨play restart, _, fun _ => rfl, playRefusal_refused c restart, fun _ k s h => play_refused h k s⟩
  · obtain ⟨count, rfl⟩ := step_of_code hreq hslot
    exact ⟨stepRequest count, _, fun _ => rfl, settledRefusal_refused c, fun _ k s h => stepRequest_refused h count k s⟩
  · obtain rfl := arm_of_code hreq hslot
    exact ⟨arm, _, fun _ => rfl, armRefusal_refused c, fun _ k s h => arm_refused h k s⟩
  · obtain ⟨first, last, station, rfl⟩ := snapshot_of_code hreq hslot
    exact ⟨snapshot first last station, _, fun _ => rfl, snapshotRefusal_refused c,
      fun _ k s h => snapshot_refused h first last station k s⟩

/-- R109: PLAY of a RUNNING cursor is taken only as the restart of a FREE_RUN cursor that does not rebuild. -/
theorem playRefusal_running {c : Cursor} (hs : c.snap = none) (h : c.state = .running) (restart : Bool) :
    c.playRefusal restart =
      if !restart then some .cursorBusy
      else if c.bound then some .badArgument else if rebuilding c then some .cursorBusy else none := by
  unfold Cursor.playRefusal
  rw [snapshotting_of_none hs, h]
  rfl

/-- Settles O39: each rule's own test of the cursor's state. -/
theorem cursorStateRefusals : Obligations.CursorStateRefusals := by
  unfold Obligations.CursorStateRefusals
  intro s p tag slot body k c cmd code hreq hslot htaken hr busy bad rebuilds
  have hrebuilds : rebuilding c = true ↔ rebuilds := rebuilding_iff c
  refine ⟨fun hcode hbusy => ?_, fun target chain hcmd hsnap hstate htarget => ?_, fun restart hcmd hsnap hrun => ?_,
    fun hcode => ?_⟩
  · subst hcode
    obtain ⟨target, chain, rfl⟩ := seek_of_code hreq hslot
    have hno : c.seekable = false :=
      seekable_false (by rw [← Bool.not_eq_true, hrebuilds]; exact hbusy)
    exact congrArg Host.Outcome.next (refused_leaves htaken hr (seek_busy hno target chain k _))
  · subst hcmd
    cases hreq
    have hyes : c.seekable = true := seekable_of hsnap (by rw [hrebuilds]; exact hstate)
    exact congrArg Host.Outcome.next (refused_leaves htaken hr (seek_badArgument hyes htarget chain k _))
  · subst hcmd
    cases hreq
    have refused : ∀ {r : RespCode}, c.playRefusal restart = some r →
        exec (.play p slot restart) s = .next (answeredOnly s p tag { code := r, body := .empty }) :=
      fun h => congrArg Host.Outcome.next (refused_leaves htaken hr (play_refused h k _))
    rw [playRefusal_running hsnap hrun] at refused
    refine ⟨fun h => refused ?_, fun h hp => refused ?_, fun h hp hre => refused ?_⟩
    · simp [h]
    · simp [h, (bound_iff c).2 hp]
    · have hb : c.bound = false := by simp [Cursor.bound, hp]
      simp [h, hb, hrebuilds.2 hre]
  · obtain ⟨rule, refusal, hexec, ⟨hbusy, hunsettled, hrunning, hended⟩, hrule⟩ := exec_settled hreq hslot hcode c
    have refused : ∀ {r : RespCode}, refusal = some r →
        exec cmd s = .next (answeredOnly s p tag { code := r, body := .empty }) :=
      fun h => (hexec s).trans (congrArg Host.Outcome.next (refused_leaves htaken hr (hrule _ k _ h)))
    exact ⟨fun h => refused (hbusy h), fun h g => refused (hunsettled h g), fun h g n => refused (hrunning h g n),
      fun h g n => refused (hended h g n)⟩

/-! ### ARM (R118) -/

theorem armRefusal_none {c : Cursor} (hs : c.snap = none) (h : c.state = .idle ∨ c.state = .held) :
    c.armRefusal = none := by
  unfold Cursor.armRefusal
  rcases h with h | h
  · exact if_pos ⟨h, by simp [snapshotting_of_none hs]⟩
  · exact (if_neg (by simp [h])).trans (settledRefusal_of_held hs h)

/-- R118: ARM of a cursor whose state takes it turns on its trigger source. -/
theorem arm_taken {c : Cursor} (h : c.armRefusal = none) (k : Slot) (s : State) :
    arm k c s =
      if c.options.source = .request then (Response.plain .badArgument, s)
      else (Response.done, s.withLive (armAccepted k c s.live)) := by
  unfold Cursor.armRefusal at h
  unfold arm
  rw [h]

/-- R118, R134: ARM changes the state and the armed-from state, and flushes. -/
theorem armAccepted_cursor (k : Slot) (c : Cursor) (l : Live) :
    (armAccepted k c l).cursor k = some
        { c with
          state := .armed, armedFrom := some (if c.state = .held then .held else .idle)
          buffer := c.buffer.flushed c.options } ∧
      (armAccepted k c l).checkpoints = l.checkpoints ∧ Local k c.owner l (armAccepted k c l) := by
  let x : Cursor := { c with state := .armed, armedFrom := some (if c.state = .held then .held else .idle) }
  have hx := cursor_setCursor_same l k x
  obtain ⟨h1, -, h3⟩ := flush_flushed hx
  exact ⟨h1, h3, (Local.setCursor k _ l x).trans (flush_local fun d hd => by rw [hx] at hd; cases hd; rfl)⟩

/-- Settles O41: ARM of a cursor that waits for no REQUEST sets its state and its armed-from state. -/
theorem armArms : Obligations.ArmArms := by
  unfold Obligations.ArmArms
  intro s p tag slot body k c htaken hr hsnap hstate
  obtain ⟨-, hown⟩ := cursor_of_reaches hr
  have htook := arm_taken (armRefusal_none hsnap hstate) k (s.popRequest p)
  refine ⟨fun hsource => ?_, fun hsource => ?_⟩
  · rw [if_pos hsource] at htook
    exact congrArg Host.Outcome.next (refused_leaves htaken hr htook)
  · rw [if_neg hsource] at htook
    obtain ⟨g1, g2, g3⟩ := armAccepted_cursor k c (s.popRequest p).live
    obtain ⟨t, ht, h1, h2, h3, h4, h5, -⟩ := accepted_leaves htaken hr htook (hown ▸ g3)
    exact ⟨t, _, congrArg Host.Outcome.next ht, h1, h2, h3, h5.trans g2, h4.trans g1, rfl, rfl, rfl, rfl, rfl, rfl, rfl,
      rfl, rfl, rfl⟩

end Sys2Proof.Machine
end

section
/-!
PROOF. The opening, reading and closing of a cursor (R103, R105, R106): O32, O33.
-/

namespace Sys2Proof.Machine

open Sys2Proof

/-! ### The first of a list in an order -/

/-- A search of a list that ascends in a rank finds the element of least rank that passes. -/
theorem find?_of_least {α : Type} {test : α → Bool} {rank : α → Nat} {xs : List α} {k : α}
    (hasc : xs.Pairwise fun a b => rank a < rank b) (hk : k ∈ xs) (htest : test k = true)
    (hleast : ∀ j, test j = true → rank k ≤ rank j) : xs.find? test = some k := by
  induction xs with
  | nil => exact absurd hk List.not_mem_nil
  | cons x xs ih =>
    obtain ⟨hx, hxs⟩ := List.pairwise_cons.1 hasc
    rcases List.mem_cons.1 hk with rfl | hk
    · exact List.find?_cons_of_pos htest
    · have hno : ¬test x = true := fun h => absurd (hleast x h) (not_le.2 (hx k hk))
      rw [List.find?_cons_of_neg hno]
      exact ih hxs hk

theorem allSlots_ascend : allSlots.Pairwise fun a b => a.val < b.val := by decide

theorem mem_allSlots (k : Slot) : k ∈ allSlots := by revert k; decide

/-! ### OPEN_CURSOR (R103) -/

theorem lowestFree_none {l : Live} (h : ∀ k : Slot, l.cursor k ≠ none) : lowestFree l = none :=
  List.find?_eq_none.2 fun k _ => by simpa using h k

theorem lowestFree_some {l : Live} {k : Slot} (hk : l.cursor k = none)
    (hlow : ∀ j : Slot, j.val < k.val → l.cursor j ≠ none) : lowestFree l = some k :=
  find?_of_least allSlots_ascend (mem_allSlots k) (by simp [hk]) fun j hj =>
    not_lt.1 fun hlt => hlow j hlt (by simpa using hj)

theorem openCursor_wrongPhase {s : State} (h : s.history.phase = .setup) (p : PortId) (body : List Byte) :
    openCursor p body s = (Response.plain .wrongPhase, s) := if_pos h

theorem openCursor_full {s : State} (h : s.history.phase ≠ .setup) (hn : lowestFree s.live = none) (p : PortId)
    (body : List Byte) : openCursor p body s = (Response.plain .noCursor, s) := by
  unfold openCursor
  rw [if_neg h, hn]

theorem openCursor_opens {s : State} {k : Slot} (h : s.history.phase ≠ .setup) (hk : lowestFree s.live = some k)
    (p : PortId) (body : List Byte) :
    openCursor p body s = ({ code := .done, body := .slot k }, withCursorAt s k (Cursor.opened p)) := by
  unfold openCursor
  rw [if_neg h, hk]
  rfl

/-- Settles O32: OPEN_CURSOR by the phase, then by the lowest-numbered FREE slot. -/
theorem openCursorOpensLowest : Obligations.OpenCursorOpensLowest := by
  unfold Obligations.OpenCursorOpensLowest
  intro s p tag body htaken
  refine ⟨fun hsetup => ?_, fun hphase hfull => ?_, fun k hphase hk hlow => ?_⟩
  · exact congrArg Host.Outcome.next
      (takeRequest_gives htaken (openCursor_wrongPhase (s := s.popRequest p) hsetup p body))
  · have hnone : lowestFree (s.popRequest p).live = none := lowestFree_none hfull
    exact congrArg Host.Outcome.next (takeRequest_gives htaken (openCursor_full (s := s.popRequest p) hphase hnone p body))
  · have hsome : lowestFree (s.popRequest p).live = some k := lowestFree_some hk hlow
    have hopens := openCursor_opens (s := s.popRequest p) hphase hsome p body
    exact ⟨Cursor.opened p, congrArg Host.Outcome.next (takeRequest_gives htaken hopens), rfl, rfl, rfl, rfl, rfl, rfl,
      rfl, rfl, rfl, rfl, rfl, rfl, rfl, rfl, rfl, rfl, rfl, fun w => vreplicate_get none w, rfl, rfl, rfl, rfl, rfl, rfl,
      rfl, rfl, rfl⟩

/-! ### READ_CURSOR (R106) -/

theorem readCursor_short (slot : Nat) (s : State) : readCursor slot [] s = (Response.plain .badArgument, s) := rfl

theorem readCursor_badCursor {slot : Nat} {body : List Byte} (hb : body ≠ []) (h : 8 ≤ slot) (s : State) :
    readCursor slot body s = (Response.plain .badCursor, s) := by
  unfold readCursor
  rw [if_neg (by simpa using hb), asIndex_none.2 h]

theorem readCursor_free {k : Slot} {body : List Byte} {s : State} (hb : body ≠ []) (hk : s.live.cursor k = none) :
    readCursor k.val body s = ({ code := .done, body := .freeSlot k }, s) := by
  unfold readCursor
  rw [if_neg (by simpa using hb), asIndex_val]
  dsimp only
  rw [hk]

theorem readCursor_open {k : Slot} {c : Cursor} {body : List Byte} {s : State} (hb : body ≠ [])
    (hk : s.live.cursor k = some c) :
    readCursor k.val body s = ({ code := .done, body := .cursor k c.report }, s) := by
  unfold readCursor
  rw [if_neg (by simpa using hb), asIndex_val]
  dsimp only
  rw [hk]

/-- The places of a table that pass a test, counted by their index. -/
theorem toList_filter_length {α : Type} {n : Nat} (v : Vector α n) (test : α → Bool) :
    (v.toList.filter test).length = ((List.finRange n).filter fun i => test (v.get i)).length := by
  have hlist : v.toList = (List.finRange n).map v.get :=
    List.ext_getElem (by simp) fun i h1 h2 => by simp [vget_eq]
  rw [hlist, List.filter_map, List.length_map]
  rfl

theorem stalled_iff (c : Cursor) : c.stalled = true ↔ c.buffer.waiting ≠ none := Option.isSome_iff_ne_none

theorem probing_iff (c : Cursor) : c.probing = true ↔ c.probes ≠ [] := by simp [Cursor.probing]

theorem rebasing_iff (c : Cursor) :
    c.rebasing = true ↔ c.op = .rebaseDone ∨ ∃ f : Rebuild, c.op = .rebuild f ∧ f.kind = .rebase := by
  unfold Cursor.rebasing
  cases c.op <;> simp

theorem snapshotting_iff (c : Cursor) : c.snapshotting = true ↔ c.snap ≠ none := Option.isSome_iff_ne_none

/-- R106: READ_CURSOR shows the standing instant while a rebuild is in flight. -/
theorem shownInstant_rebuild {c : Cursor} {f : Rebuild} (h : c.op = .rebuild f) : c.shownInstant = f.standing := by
  unfold Cursor.shownInstant
  rw [h]

theorem shownInstant_other {c : Cursor} (h : ∀ f : Rebuild, c.op ≠ .rebuild f) : c.shownInstant = c.instant := by
  unfold Cursor.shownInstant
  split
  · exact absurd ‹_› (h _)
  · rfl

/-- Settles O33: what READ_CURSOR answers of a slot, and that CLOSE_CURSOR frees it. -/
theorem readAndCloseCursor : Obligations.ReadAndCloseCursor := by
  unfold Obligations.ReadAndCloseCursor
  refine ⟨fun s p tag body k htaken hb => ⟨fun hk => ?_, fun c hc => ?_, fun n hn => ?_⟩, fun s p tag n htaken => ?_,
    fun s p tag slot body k c htaken hr => congrArg Host.Outcome.next (takeRequest_reaches htaken hr closeCursor)⟩
  · exact congrArg Host.Outcome.next (takeRequest_gives htaken (readCursor_free (s := s.popRequest p) hb hk))
  · exact ⟨c.report, congrArg Host.Outcome.next (takeRequest_gives htaken (readCursor_open (s := s.popRequest p) hb hc)),
      rfl, rfl, rfl, rfl, rfl, rfl, rfl, rfl, rfl, rfl, rfl, rfl, toList_filter_length c.watches Option.isSome,
      stalled_iff c, rfl, rfl, rfl, probing_iff c, rebasing_iff c, snapshotting_iff c, rfl,
      fun _ hf => shownInstant_rebuild hf, shownInstant_other⟩
  · exact congrArg Host.Outcome.next (takeRequest_gives htaken (readCursor_badCursor hb hn _))
  · exact congrArg Host.Outcome.next (takeRequest_gives htaken (readCursor_short n _))

end Sys2Proof.Machine
end

section
/-!
PROOF. The items of a snapshot, and the batch that they complete (R123, R126, R131 to R135): O54.
-/

namespace Sys2Proof.Machine

open Sys2Proof

/-! ### A SNAP item (R123, R131) -/

/-- R122, R123: the cursor writes the next SNAP item of a snapshot that no probe holds back. -/
theorem exec_itemWritten_snap {s : State} {k : Slot} {c : Cursor} {w : SnapWork} {x : PointId} {rest : List PointId}
    (hreset : s.resetLow = false) (h : s.live.cursor k = some c) (hop : c.op = .none) (hwait : c.buffer.waiting = none)
    (hs : c.snap = some w) (ht : w.todo = x :: rest) (hgo : w.opening = false ∨ c.probes = []) :
    exec (.itemWritten k) s = .next (s.withLive (writeNext s.env k s.live)) := by
  have hdue : itemDue c = true := by
    rcases hgo with hgo | hgo <;> simp [itemDue, hwait, hop, hs, ht, hgo, Cursor.probing]
  have hitem : itemWritten s.env k s.live = writeNext s.env k s.live := by
    unfold itemWritten
    rw [withCursor_some _ h, if_pos hdue]
  exact (congrArg Host.Outcome.next (if_neg (by simp [hreset]))).trans
    (congrArg (fun l => Host.Outcome.next (s.withLive l)) hitem)

/-- An event at one cursor that leaves the owner's port leaves every port. -/
theorem Local.ports {k : Slot} {p : PortId} {l m : Live} (h : Local k p l m) (hp : m.port p = l.port p) :
    m.ports = l.ports := by
  refine Vector.ext fun i hi => ?_
  by_cases hq : (⟨i, hi⟩ : PortId) = p
  · subst hq
    exact hp
  · exact h.2 ⟨i, hi⟩ hq

/-! ### The place of an item in NOTICE mode (R131 to R133) -/

/-- R131 to R133: the mode gives a slot to the next item of a NOTICE cursor. -/
theorem hasRoom_notice {o : Options} {b : Buffer} (hm : o.mode = .notice) :
    b.hasRoom o = true ↔ if o.split then b.half ≠ none else b.completed = [] := by
  unfold Buffer.hasRoom
  rw [hm]
  cases o.split <;> simp [Option.isSome_iff_ne_none]

/-- R132: below the batch size an item that does not flush completes no batch. -/
theorem completes_below {o : Options} {b : Buffer} (h : b.writing.length + 1 < o.batchSize) :
    b.completes o false = false := by
  simp [Buffer.completes, h]

/-- R132: at the batch size an item of a NOTICE cursor completes its batch. -/
theorem completes_full {o : Options} {b : Buffer} (hm : o.mode = .notice) (h : o.batchSize ≤ b.writing.length + 1) :
    b.completes o false = true := by
  simp [Buffer.completes, hm, h]

theorem delivered_joins {o : Options} {b : Buffer} {f : Bool} (hm : o.mode = .notice) (h : b.completes o f = false)
    (x : ItemBody) :
    b.delivered o f x =
      { b with
        waiting := none, nextNumber := (b.nextNumber + 1) % 65536
        writing := b.writing ++ [{ number := b.nextNumber, body := x }] } := by
  simp [Buffer.delivered, hm, h]

theorem delivered_completes {o : Options} {b : Buffer} {f : Bool} (hm : o.mode = .notice) (h : b.completes o f = true)
    (x : ItemBody) :
    b.delivered o f x =
      { b with
        waiting := none, nextNumber := (b.nextNumber + 1) % 65536, writing := []
        completed := b.completed ++ [b.batchWith o x]
        half := if o.split then nextHalf b.completed b.half else b.half } := by
  simp [Buffer.delivered, hm, h]

theorem announced_none {o : Options} {b : Buffer} {f : Bool} (h : b.completes o f = false) (k : Slot) (x : ItemBody) :
    b.announced k o f x = [] := if_neg (by simp [h])

/-- R133: the other half is written next when it is free. -/
theorem nextHalf_some (completed : List Batch) (h : Half) :
    nextHalf completed (some h) = if ∃ b ∈ completed, b.half = some h.other then none else some h.other := by
  simp [nextHalf]

/-! ### The obligation -/

/-- R123, R131, R134: the clause of O54 on any SNAP item. -/
theorem itemWritten_snap_leaves {s : State} {k : Slot} {c : Cursor} {x : PointId} {rest : List PointId} {opening : Bool}
    (hreset : s.resetLow = false) (h : s.live.cursor k = some c) (hop : c.op = .none) (hwait : c.buffer.waiting = none)
    (hgo : opening = false ∨ c.probes = []) (hs : c.snap = some { todo := x :: rest, opening := opening }) :
    let it : ItemBody := renderItem s.env c (.snap x)
    ∃ t d, exec (.itemWritten k) s = .next t ∧ SameStore s t ∧ OthersSame s t k c.owner ∧ t.live.cursor k = some d ∧
      t.live.checkpoints = s.live.checkpoints ∧
      (c.buffer.hasRoom c.options = true →
        d = { c with
              snap := if rest = [] then none else some { todo := rest, opening := false }
              buffer := c.buffer.delivered c.options rest.isEmpty it } ∧
          t.live.port c.owner = (s.live.port c.owner).takes (c.buffer.announced k c.options rest.isEmpty it)) ∧
      (c.buffer.hasRoom c.options = false →
        Stalls s
            { c with
              snap := some { todo := rest, opening := false }
              buffer := { c.buffer with waiting := some (.snap x) } } d ∧
          t.live.ports = s.live.ports) := by
  intro it
  obtain ⟨d, hd, hcp, hlocal, hroom, hfull⟩ := writeNext_snap h hop hs rfl
  obtain ⟨hstore, hothers⟩ := withLive_leaves hlocal
  exact ⟨_, d, exec_itemWritten_snap hreset h hop hwait hs rfl hgo, hstore, hothers, hd, hcp, hroom, hfull⟩

/-- Settles O54: a SNAP item is delivered or waits, and a delivered one joins the batch or completes it. -/
theorem itemCompletesBatch : Obligations.ItemCompletesBatch := by
  unfold Obligations.ItemCompletesBatch
  refine ⟨fun s k c x y rest hreset h hop hwait hp hs hm => ?_,
    fun s k c x rest opening hreset h hop hwait hgo hs => itemWritten_snap_leaves hreset h hop hwait hgo hs⟩
  intro it first half room
  have hiff : c.buffer.hasRoom c.options = true ↔ room := hasRoom_notice hm
  obtain ⟨t, d, hexec, hstore, hothers, hd, -, hroom, hfull⟩ :=
    itemWritten_snap_leaves hreset h hop hwait (.inl rfl) hs
  have hsnap : d.snap = some { todo := y :: rest, opening := false } := by
    cases hr : c.buffer.hasRoom c.options with
    | true => exact (congrArg Cursor.snap (hroom hr).1 :)
    | false => exact (congrArg Cursor.snap (hfull hr).1.2 :)
  refine ⟨t, d, hexec, hstore, hothers, hd, hsnap, fun hno => ?_, fun hyes hbelow => ?_, fun hyes hsize => ?_⟩
  · obtain ⟨⟨-, hstall⟩, hports⟩ := hfull (Bool.eq_false_iff.2 fun g => hno (hiff.1 g))
    exact ⟨hports, (congrArg Cursor.buffer hstall :)⟩
  · obtain ⟨hdel, hport⟩ := hroom (hiff.2 hyes)
    have hno : c.buffer.completes c.options (y :: rest).isEmpty = false := completes_below hbelow
    rw [announced_none hno] at hport
    rw [delivered_joins hm hno] at hdel
    refine ⟨Local.ports hothers hport, (congrArg Cursor.buffer hdel).trans ?_⟩
    rw [← hwait]
    rfl
  · obtain ⟨hdel, hport⟩ := hroom (hiff.2 hyes)
    have hyes : c.buffer.completes c.options (y :: rest).isEmpty = true := completes_full hm hsize
    rw [Buffer.announced, if_pos hyes] at hport
    rw [delivered_completes hm hyes] at hdel
    subst hdel
    refine ⟨hport, rfl, rfl, rfl, fun hsplit hhalf => ?_, fun hsplit hhalf => ?_⟩
    · exact (if_pos hsplit).trans (hhalf ▸ nextHalf_some c.buffer.completed .a)
    · exact (if_pos hsplit).trans (hhalf ▸ nextHalf_some c.buffer.completed .b)

end Sys2Proof.Machine
end

section
/-!
PROOF. The order in which a port serves the PUSH queues of its cursors, and the notice queue (R174, R177, R178).
-/

namespace Sys2Proof.Machine

open Sys2Proof

/-! ### The frames a port sends (R177, R184) -/

/-- The live part with a port changed by a frame that it sends: the frame's number is used up. -/
def Live.sending (l : Live) (p : PortId) (x : Port) : Live := { l.setPort p x with draws := l.draws + 1 }

theorem sendResponse_eq (p : PortId) (h : HeldResponse) (s : State) :
    sendResponse p h s = s.withLive (s.live.sending p
      { s.live.port p with
        response := none
        sent := some
          { frame := .response h.tag h.response
            bytes := (OutFrame.response h.tag h.response).bytes s.live.draws } }) := rfl

theorem sendNotice_eq (p : PortId) (n : Notice) (s : State) :
    sendNotice p n s = s.withLive (s.live.sending p
      { (s.live.port p).popNotice with
        response := (s.live.port p).popNotice.response.map fun h => { h with ahead := h.ahead - 1 }
        sent := some { frame := .notice n, bytes := (OutFrame.notice n).bytes s.live.draws } }) := rfl

/-- A sent frame changes its port alone. -/
theorem sending_leaves (s : State) (p : PortId) (x : Port) :
    SameStore s (s.withLive (s.live.sending p x)) ∧ (s.live.sending p x).cursors = s.live.cursors ∧
      (s.live.sending p x).checkpoints = s.live.checkpoints ∧
      (∀ q : PortId, q ≠ p → (s.live.sending p x).port q = s.live.port q) ∧ (s.live.sending p x).port p = x :=
  ⟨⟨rfl, rfl, rfl, rfl, rfl, rfl, rfl, rfl⟩, rfl, rfl, fun _ hq => port_setPort_ne s.live x (Ne.symm hq),
    port_setPort_same s.live p x⟩

/-- R184, R190: the bytes of a response, with its body where Layouts gives one. -/
theorem response_bytes (n tag : Nat) (r : Response) :
    ∃ body, (OutFrame.response tag r).bytes n = frameBytes 2 r.code.code tag body ∧
      ∀ b, r.body.bytes = some b → body = b :=
  ⟨_, rfl, fun b hb => by rw [hb]; rfl⟩

/-- R184, R190: the bytes of a notice, with its body where Layouts gives one. -/
theorem notice_bytes (n : Nat) (x : Notice) :
    ∃ tag body, (OutFrame.notice x).bytes n = frameBytes 3 x.kind.code tag body ∧ ∀ b, x.bytes = some b → body = b :=
  ⟨_, _, rfl, fun b hb => by rw [hb]; rfl⟩

/-- R184, R189: the bytes of a DELIVERY frame. -/
theorem delivery_bytes (n : Nat) (k : Slot) (it : Item) :
    ∃ tag, (OutFrame.delivery k it).bytes n = frameBytes 4 it.kind tag (BitVec.ofNat 8 k.val :: 0#8 :: it.bytes) :=
  ⟨_, rfl⟩

/-! ### The notice queue (R174, R178) -/

theorem push_down {p : Port} (h : p.up = false) (n : Notice) : p.push n = p := if_pos (by simp [h])

theorem push_joins {p : Port} (h : p.up = true) (hn : p.notices.length < 32) (n : Notice) :
    p.push n = { p with notices := p.notices ++ [n] } := (if_neg (by simp [h])).trans (if_pos hn)

theorem push_drops {p : Port} (h : p.up = true) (hn : 32 ≤ p.notices.length) (n : Notice) :
    p.push n =
      { p with
        lost := true, droppedCount := min (p.droppedCount + 1) 65535, droppedKinds := addKind n.kind p.droppedKinds } :=
  (if_neg (by simp [h])).trans (if_neg (not_lt.2 hn))

theorem mem_addKind {n k : NoticeKind} {ks : List NoticeKind} : k ∈ addKind n ks ↔ k ∈ ks ∨ k = n := by
  unfold addKind
  split_ifs with h
  · exact ⟨.inl, fun g => g.elim id fun e => e ▸ h⟩
  · rw [List.mem_append, List.mem_singleton]

/-- R178: the oldest notice leaves, and nothing was dropped. -/
theorem popNotice_kept {p : Port} (h : p.lost = false) : p.popNotice = { p with notices := p.notices.drop 1 } :=
  if_neg (by simp [h])

/-- R178: the oldest notice leaves, and RESYNC takes its place. -/
theorem popNotice_resync {p : Port} (h : p.lost = true) :
    p.popNotice =
      { p with
        notices := p.notices.drop 1 ++ [.resync p.droppedCount p.droppedKinds], lost := false, droppedCount := 0
        droppedKinds := [] } := if_pos h

theorem popNotice_keeps (p : Port) :
    p.popNotice.response = p.response ∧ p.popNotice.requests = p.requests ∧ p.popNotice.turn = p.turn ∧
      p.popNotice.subs = p.subs ∧ p.popNotice.up = p.up := by
  unfold Port.popNotice
  dsimp only
  split_ifs <;> exact ⟨rfl, rfl, rfl, rfl, rfl⟩

/-! ### What a port sends first (R177) -/

theorem exec_frameTransmit {s : State} {p : PortId} (hreset : s.resetLow = false) (hup : (s.live.port p).up = true) :
    exec (.frameTransmit p) s = .next (transmit p s) :=
  congrArg Host.Outcome.next (if_neg (by simp [hreset, hup]))

theorem transmit_response {s : State} {p : PortId} {h : HeldResponse} (hr : (s.live.port p).response = some h)
    (hf : h.ahead = 0 ∨ (s.live.port p).notices = []) : transmit p s = sendResponse p h s := by
  unfold transmit
  rw [hr]
  cases hn : (s.live.port p).notices with
  | nil => rfl
  | cons n rest => exact if_pos (hf.resolve_right (by simp [hn]))

theorem transmit_notice {s : State} {p : PortId} {n : Notice} {rest : List Notice}
    (hn : (s.live.port p).notices = n :: rest)
    (hf : ∀ h, (s.live.port p).response = some h → h.ahead ≠ 0) : transmit p s = sendNotice p n s := by
  unfold transmit
  rw [hn]
  cases hr : (s.live.port p).response with
  | none => rfl
  | some h => exact if_neg (hf h hr)

/-- R177: with a response or a notice waiting, the response leaves, or the oldest notice where one was formed before the
response. -/
theorem response_or_notice {p : Port} (h : p.response ≠ none ∨ p.notices ≠ []) :
    (∃ x, p.response = some x ∧ (x.ahead = 0 ∨ p.notices = [])) ∨
      ∃ n rest, p.notices = n :: rest ∧ ∀ x, p.response = some x → x.ahead ≠ 0 := by
  cases hn : p.notices with
  | nil =>
    obtain ⟨x, hx⟩ := Option.ne_none_iff_exists'.1 (h.resolve_right fun g => g hn)
    exact .inl ⟨x, hx, .inr rfl⟩
  | cons n rest =>
    by_cases hf : ∃ x, p.response = some x ∧ x.ahead = 0
    · obtain ⟨x, hx, h0⟩ := hf
      exact .inl ⟨x, hx, .inl h0⟩
    · exact .inr ⟨n, rest, rfl, fun x hx h0 => hf ⟨x, hx, h0⟩⟩

/-! ### The delivery turn (R177) -/

/-- R177: the place of a slot in the order of a delivery turn. -/
def turnRank (turn : Option Slot) (k : Slot) : Nat := (k.val + 7 - turn.elim 7 Fin.val) % 8

theorem turnOrder_ascends (turn : Option Slot) :
    (turnOrder turn).Pairwise fun a b => turnRank turn a < turnRank turn b := by
  revert turn
  decide

theorem mem_turnOrder (turn : Option Slot) (k : Slot) : k ∈ turnOrder turn := by
  revert turn k
  decide

/-- R177: the PUSH queue served next is the first in turn that holds an item. -/
theorem nextPush_first {p : PortId} {l : Live} {k : Slot} {c : Cursor} (hk : l.cursor k = some c) (ho : c.owner = p)
    (hq : c.buffer.outgoing ≠ [])
    (hfirst : ∀ (j : Slot) (d : Cursor), l.cursor j = some d → d.owner = p → d.buffer.outgoing ≠ [] →
      turnRank (l.port p).turn k ≤ turnRank (l.port p).turn j) : nextPush p l = some k := by
  refine find?_of_least (turnOrder_ascends _) (mem_turnOrder _ k) (by simp [hk, ho, hq]) fun j hj => ?_
  cases hd : l.cursor j with
  | none => simp [hd] at hj
  | some d =>
    simp only [hd, Option.elim_some, Bool.and_eq_true, beq_iff_eq, Bool.not_eq_true', List.isEmpty_eq_false_iff] at hj
    exact hfirst j d hd hj.1 hj.2

/-! ### A DELIVERY frame (R131, R137, R177) -/

/-- R177: the port after a DELIVERY frame of slot `k`. -/
def Port.delivering (k : Slot) (x : SentFrame) (p : Port) : Port := { p with turn := some k, sent := some x }

theorem sendItem_eq (p : PortId) (k : Slot) (c : Cursor) (it : Item) (rest : List Item) (s : State) :
    sendItem p k c it rest s = s.withLive (resumeWaiting s.env k
      ((s.live.sending p ((s.live.port p).delivering k
        { frame := .delivery k it, bytes := (OutFrame.delivery k it).bytes s.live.draws })).setCursor k
          { c with buffer := { c.buffer with outgoing := rest } })) := rfl

/-- R177: with neither response nor notice waiting, the oldest item of the PUSH queue next in turn is sent. -/
theorem transmit_delivery {s : State} {p : PortId} {k : Slot} {c : Cursor} {it : Item} {rest : List Item}
    (hr : (s.live.port p).response = none) (hn : (s.live.port p).notices = []) (hp : nextPush p s.live = some k)
    (hk : s.live.cursor k = some c) (hq : c.buffer.outgoing = it :: rest) : transmit p s = sendItem p k c it rest s := by
  unfold transmit
  rw [hr, hn]
  dsimp only [sendDelivery]
  rw [hp]
  dsimp only
  rw [hk]
  dsimp only
  rw [hq]

/-- R131: a freed place leaves the delivery turn and the frame sent last. -/
theorem resumeWaiting_port (e : Env) (k : Slot) (l : Live) (p : PortId) :
    ((resumeWaiting e k l).port p).turn = (l.port p).turn ∧ ((resumeWaiting e k l).port p).sent = (l.port p).sent :=
  ⟨((resumeWaiting_grows e k l).2 p).turn, ((resumeWaiting_grows e k l).2 p).sent⟩

end Sys2Proof.Machine
end

section
/-!
PROOF. What leaves a port (R131, R137, R156, R174, R177, R178): O11.
-/

namespace Sys2Proof.Machine

open Sys2Proof

/-! ### FRAME_TRANSMIT, whole (R177) -/

theorem frameTransmit_responds {s : State} {p : PortId} {h : HeldResponse} (hreset : s.resetLow = false)
    (hup : (s.live.port p).up = true) (hr : (s.live.port p).response = some h)
    (hf : h.ahead = 0 ∨ (s.live.port p).notices = []) :
    exec (.frameTransmit p) s = .next (s.withLive (s.live.sending p
      { s.live.port p with
        response := none
        sent := some
          { frame := .response h.tag h.response
            bytes := (OutFrame.response h.tag h.response).bytes s.live.draws } })) :=
  (exec_frameTransmit hreset hup).trans
    (congrArg Host.Outcome.next ((transmit_response hr hf).trans (sendResponse_eq p h s)))

theorem frameTransmit_notifies {s : State} {p : PortId} {n : Notice} {rest : List Notice} (hreset : s.resetLow = false)
    (hup : (s.live.port p).up = true) (hn : (s.live.port p).notices = n :: rest)
    (hf : ∀ h, (s.live.port p).response = some h → h.ahead ≠ 0) :
    exec (.frameTransmit p) s = .next (s.withLive (s.live.sending p
      { (s.live.port p).popNotice with
        response := (s.live.port p).popNotice.response.map fun h => { h with ahead := h.ahead - 1 }
        sent := some { frame := .notice n, bytes := (OutFrame.notice n).bytes s.live.draws } })) :=
  (exec_frameTransmit hreset hup).trans
    (congrArg Host.Outcome.next ((transmit_notice hn hf).trans (sendNotice_eq p n s)))

theorem frameTransmit_delivers {s : State} {p : PortId} {k : Slot} {c : Cursor} {it : Item} {rest : List Item}
    (hreset : s.resetLow = false) (hup : (s.live.port p).up = true) (hr : (s.live.port p).response = none)
    (hn : (s.live.port p).notices = []) (hp : nextPush p s.live = some k) (hk : s.live.cursor k = some c)
    (hq : c.buffer.outgoing = it :: rest) :
    exec (.frameTransmit p) s = .next (s.withLive (resumeWaiting s.env k
      ((s.live.sending p ((s.live.port p).delivering k
        { frame := .delivery k it, bytes := (OutFrame.delivery k it).bytes s.live.draws })).setCursor k
          { c with buffer := { c.buffer with outgoing := rest } }))) :=
  (exec_frameTransmit hreset hup).trans
    (congrArg Host.Outcome.next ((transmit_delivery hr hn hp hk hq).trans (sendItem_eq p k c it rest s)))

/-! ### A waiting item in the place that a frame frees (R131, R137) -/

/-- R131: an item of a step written from waiting is the item put back in front of those still to be written, and
written. -/
theorem itemWritten_resumes_step {s : State} {m : Live} {k : Slot} {c : Cursor} {f : StepFlight} {x : ItemPlan}
    {free : Buffer} (hreset : s.resetLow = false) (hop : c.op = .step f) (hw : free.waiting = none)
    (hr : free.hasRoom c.options = true) :
    exec (.itemWritten k)
        (withCursorAt (s.withLive m) k { c with op := .step { f with todo := x :: f.todo }, buffer := free }) =
      .next (s.withLive (resumeWaiting s.env k
        (m.setCursor k { c with buffer := { free with waiting := some x } }))) := by
  let b : Cursor := { c with op := .step { f with todo := x :: f.todo }, buffer := free }
  have hitem := itemWritten_step (e := s.env) (cursor_setCursor_same m k b) rfl rfl hw hr
  have hb : ({ b with op := .step f, buffer := { free with waiting := some x } } : Cursor) =
      { c with buffer := { free with waiting := some x } } := by
    rw [← hop]
  rw [setCursor_setCursor, hb] at hitem
  exact (exec_itemWritten (s := s.withLive m) hreset k b).trans
    (congrArg (fun l => Host.Outcome.next (s.withLive l)) hitem)

/-- R131: so is a SNAP item. -/
theorem itemWritten_resumes_snap {s : State} {m : Live} {k : Slot} {c : Cursor} {w : SnapWork} {y : PointId}
    {free : Buffer} (hreset : s.resetLow = false) (hop : c.op = .none) (hs : c.snap = some w)
    (ho : w.opening = false) (hw : free.waiting = none) (hr : free.hasRoom c.options = true) :
    exec (.itemWritten k)
        (withCursorAt (s.withLive m) k { c with snap := some { w with todo := y :: w.todo }, buffer := free }) =
      .next (s.withLive (resumeWaiting s.env k
        (m.setCursor k { c with buffer := { free with waiting := some (.snap y) } }))) := by
  let b : Cursor := { c with snap := some { w with todo := y :: w.todo }, buffer := free }
  have hitem := itemWritten_snap (e := s.env) (cursor_setCursor_same m k b) hop rfl rfl ho hw hr
  have hb : ({ b with
      op := .none, snap := some { todo := w.todo, opening := false }
      buffer := { free with waiting := some (.snap y) } } : Cursor) =
      { c with buffer := { free with waiting := some (.snap y) } } := by
    rw [← hop, ← ho, ← hs]
  rw [setCursor_setCursor, hb] at hitem
  exact (exec_itemWritten (s := s.withLive m) hreset k b).trans
    (congrArg (fun l => Host.Outcome.next (s.withLive l)) hitem)

/-! ### The obligation -/

/-- Settles O11: a port sends its response, a notice or an item; and a notice joins the queue or is dropped. -/
theorem portTransmits : Obligations.PortTransmits := by
  unfold Obligations.PortTransmits
  refine ⟨fun s p hreset hup hwork => ?_, fun s p k c it rest hreset hup hr hn hk ho hq hfirst => ?_,
    fun p n => ⟨fun hdown => push_down hdown n, fun hup hroom => push_joins hup hroom n, fun hup hfull => ?_⟩⟩
  · rcases response_or_notice hwork with ⟨h, hr, hf⟩ | ⟨n, rest, hn, hf⟩
    · obtain ⟨hstore, hcursors, hcp, hothers, hport⟩ := sending_leaves s p _
      refine ⟨_, frameTransmit_responds hreset hup hr hf, hstore, hcursors, hcp, hothers, ?_⟩
      rw [live_withLive, hport]
      refine ⟨rfl, rfl, rfl, hup, fun x hx _ => ?_, fun n rest hn hno => ?_⟩
      · obtain rfl := Option.some.inj (hr.symm.trans hx)
        obtain ⟨body, hbytes, hbody⟩ := response_bytes s.live.draws h.tag h.response
        exact ⟨rfl, rfl, rfl, body, congrArg some hbytes, hbody⟩
      · exact absurd (hf.resolve_right (by simp [hn])) (hno h hr)
    · obtain ⟨hstore, hcursors, hcp, hothers, hport⟩ := sending_leaves s p _
      obtain ⟨hresp, hreq, hturn, hsubs, hupn⟩ := popNotice_keeps (s.live.port p)
      refine ⟨_, frameTransmit_notifies hreset hup hn hf, hstore, hcursors, hcp, hothers, ?_⟩
      rw [live_withLive, hport]
      refine ⟨hreq, hturn, hsubs, hupn.trans hup, fun h hr hfirst => ?_, fun m ms hm _ => ?_⟩
      · exact absurd (hfirst.resolve_right (by simp [hn])) (hf h hr)
      · obtain ⟨rfl, rfl⟩ := List.cons.inj (hn.symm.trans hm)
        obtain ⟨tag, body, hbytes, hbody⟩ := notice_bytes s.live.draws n
        refine ⟨by rw [hresp], rfl, ⟨tag, body, congrArg some hbytes, hbody⟩, fun hl => ?_, fun hl => ?_⟩
        · rw [popNotice_kept hl, hn]
          rfl
        · rw [popNotice_resync hl, hn]
          exact ⟨rfl, rfl, rfl, rfl⟩
  · have hgo := frameTransmit_delivers hreset hup hr hn (nextPush_first hk ho (by simp [hq]) hfirst) hk hq
    obtain ⟨tag, hbytes⟩ := delivery_bytes s.live.draws k it
    generalize (OutFrame.delivery k it).bytes s.live.draws = bytes at hgo hbytes
    let x : SentFrame := { frame := .delivery k it, bytes := bytes }
    let m : Live := s.live.sending p ((s.live.port p).delivering k x)
    let a : Cursor := { c with buffer := { c.buffer with outgoing := rest } }
    let t : State := s.withLive (resumeWaiting s.env k (m.setCursor k a))
    obtain ⟨-, -, hcp, hothers, hport⟩ := sending_leaves s p ((s.live.port p).delivering k x)
    have hm : (m.setCursor k a).cursor k = some a := cursor_setCursor_same _ _ _
    have hlocal : Local k p s.live (m.setCursor k a) :=
      ⟨fun j hj => cursor_setCursor_ne _ _ (Ne.symm hj), fun q hq => hothers q hq⟩
    obtain ⟨hturn, hsent⟩ := resumeWaiting_port s.env k (m.setCursor k a) p
    have hsent : (t.live.port p).sent = some x := hsent.trans (congrArg Port.sent hport)
    refine ⟨t, hgo, ⟨rfl, rfl, rfl, rfl, rfl, rfl, rfl, rfl⟩, hturn.trans (congrArg Port.turn hport),
      congrArg (Option.map SentFrame.frame) hsent,
      ⟨tag, (congrArg (Option.map SentFrame.bytes) hsent).trans (congrArg some hbytes)⟩, fun hw => ?_, fun plan hw => ?_⟩
    · have ht : t = s.withLive (m.setCursor k a) := congrArg s.withLive (resumeWaiting_rests hm (.inl hw))
      rw [ht]
      exact ⟨hm, hlocal⟩
    · intro free sent hroom
      have hsm : sent = s.withLive m := congrArg
        (fun y => s.withLive
          { s.live.setPort p { s.live.port p with turn := some k, sent := y } with draws := s.live.draws + 1 }) hsent
      have ha : a = { c with buffer := { free with waiting := some plan } } := by rw [← hw]
      have ht : t = s.withLive (resumeWaiting s.env k
          (m.setCursor k { c with buffer := { free with waiting := some plan } })) := by rw [← ha]
      rw [hsm]
      refine ⟨fun f hop => ?_, fun w y hop hsnap hopen hplan => ?_, fun mark hplan => ?_⟩
      · rw [ht]
        exact itemWritten_resumes_step hreset hop rfl hroom
      · rw [ht, hplan]
        exact itemWritten_resumes_snap hreset hop hsnap hopen rfl hroom
      · subst hplan
        exact resumeWaiting_markerWritten (s := s) (t := t) (hm.trans (congrArg some ha)) hcp hlocal.1 hk hroom
          (fun _ => rfl) rfl
  · rw [push_drops hup hfull]
    exact ⟨rfl, rfl, rfl, fun _ => mem_addKind, rfl, rfl, rfl⟩

end Sys2Proof.Machine
end

section
/-!
PROOF. The payload of SET_CURSOR against Table 11-9 (R104, R187).
-/

namespace Sys2Proof.Machine

open Sys2Proof

/-! ### Bytes and fields (R185) -/

theorem byteAt_drop (bs : List Byte) (off i : Nat) : byteAt (bs.drop off) i = byteAt bs (off + i) := by
  simp [byteAt, List.getD_eq_getElem?_getD]

theorem leAt_drop (bs : List Byte) (a off n : Nat) : leAt (bs.drop a) off n = leAt bs (a + off) n := by
  rw [leAt, leAt, List.drop_drop]

/-- A field is its first byte and the field behind it. -/
theorem leAt_succ (bs : List Byte) (off n : Nat) : leAt bs off (n + 1) = byteAt bs off + 256 * leAt bs (off + 1) n := by
  unfold leAt
  by_cases h : off < bs.length
  · rw [List.drop_eq_getElem_cons h, List.take_succ_cons, byteAt, List.getD_eq_getElem _ _ h]
    rfl
  · rw [List.drop_eq_nil_of_le (by omega), List.drop_eq_nil_of_le (by omega), byteAt,
      List.getD_eq_default _ _ (by omega)]
    simp [leValue]

/-- A field is 0 exactly when its bytes are. -/
theorem leAt_eq_zero {bs : List Byte} {off n : Nat} :
    leAt bs off n = 0 ↔ ∀ i, off ≤ i → i < off + n → byteAt bs i = 0 := by
  induction n generalizing off with
  | zero => simp [leAt, leValue]; omega
  | succ n ih =>
    have hsum : byteAt bs off + 256 * leAt bs (off + 1) n = 0 ↔ byteAt bs off = 0 ∧ leAt bs (off + 1) n = 0 := by omega
    rw [leAt_succ, hsum, ih]
    refine ⟨fun ⟨h0, h⟩ i h1 h2 => ?_, fun h => ⟨h off le_rfl (by omega), fun i h1 h2 => h i (by omega) (by omega)⟩⟩
    rcases h1.eq_or_lt with rfl | h1
    · exact h0
    · exact h i h1 (by omega)

/-! ### The codes of an options block (Table 11-9) -/

/-- The two values of an option, of codes 0 and 1. -/
def TwoCodes {α : Type} (code : α → Nat) (zero one : α) : Prop :=
  code zero = 0 ∧ code one = 1 ∧ ∀ x, x = zero ∨ x = one

theorem pacing_codes : TwoCodes Pacing.code .freeRun .bound := ⟨rfl, rfl, fun x => by cases x <;> simp⟩

theorem flag_codes : TwoCodes (bitAt 0) false true := ⟨rfl, rfl, fun x => by cases x <;> simp⟩

theorem mode_codes : TwoCodes DeliveryMode.code .notice .push := ⟨rfl, rfl, fun x => by cases x <;> simp⟩

theorem form_codes : TwoCodes ItemForm.code .full .compact := ⟨rfl, rfl, fun x => by cases x <;> simp⟩

theorem action_codes : TwoCodes TriggerAction.code .play .seekPlay := ⟨rfl, rfl, fun x => by cases x <;> simp⟩

/-- A field of two codes is read as the value whose code it holds. -/
theorem TwoCodes.reads {α : Type} {code : α → Nat} {zero one : α} (h : TwoCodes code zero one) {n : Nat} {x : α} :
    binaryOf zero one n = some x ↔ code x = n := by
  obtain ⟨hzero, hone, htwo⟩ := h
  have hne : zero ≠ one := fun e => absurd (hzero.symm.trans (e ▸ hone)) (by decide)
  match n with
  | 0 => rcases htwo x with rfl | rfl <;> simp [binaryOf, hzero, hone, hne]
  | 1 => rcases htwo x with rfl | rfl <;> simp [binaryOf, hzero, hone, hne.symm]
  | n + 2 => rcases htwo x with rfl | rfl <;> simp [binaryOf, hzero, hone]

/-- A field of two codes is defined at 0 and 1. -/
theorem TwoCodes.defined {α : Type} {code : α → Nat} {zero one : α} (h : TwoCodes code zero one) {n : Nat} :
    (∃ x, code x = n) ↔ n ≤ 1 := by
  obtain ⟨hzero, hone, htwo⟩ := h
  refine ⟨?_, fun hn => ?_⟩
  · rintro ⟨x, rfl⟩
    rcases htwo x with rfl | rfl <;> omega
  · interval_cases n
    · exact ⟨zero, hzero⟩
    · exact ⟨one, hone⟩

theorem presentationOf_reads {n : Nat} {x : Presentation} : presentationOf n = some x ↔ x.code = n := by
  match n with
  | 0 | 1 | 2 | 3 => cases x <;> simp [presentationOf, Presentation.code]
  | n + 4 => cases x <;> simp [presentationOf, Presentation.code]

theorem presentation_defined {n : Nat} : (∃ x : Presentation, x.code = n) ↔ n ≤ 3 := by
  refine ⟨?_, fun hn => ?_⟩
  · rintro ⟨x, rfl⟩
    cases x <;> decide
  · interval_cases n
    · exact ⟨.absolute, rfl⟩
    · exact ⟨.zeroRelative, rfl⟩
    · exact ⟨.previousRelative, rfl⟩
    · exact ⟨.recorderLocal, rfl⟩

theorem triggerSourceOf_code (x : TriggerSource) : triggerSourceOf x.code = some x := by
  cases x with
  | request | line | clockMark => rfl
  | cursor k => revert k; decide

theorem triggerSourceOf_reads {n : Nat} {x : TriggerSource} : triggerSourceOf n = some x ↔ x.code = n := by
  refine ⟨fun h => ?_, fun h => h ▸ triggerSourceOf_code x⟩
  unfold triggerSourceOf at h
  split at h
  · exact Option.some.inj h ▸ rfl
  · exact Option.some.inj h ▸ rfl
  · exact Option.some.inj h ▸ rfl
  · split_ifs at h with hn
    obtain ⟨k, hk, rfl⟩ := Option.map_eq_some_iff.1 h
    have := asIndex_some hk
    show 16 + k.val = n
    omega

theorem triggerSource_defined {n : Nat} : (∃ x : TriggerSource, x.code = n) ↔ n ≤ 2 ∨ 16 ≤ n ∧ n ≤ 23 := by
  refine ⟨?_, ?_⟩
  · rintro ⟨x, rfl⟩
    cases x with
    | request | line | clockMark => decide
    | cursor k => exact .inr ⟨Nat.le_add_right 16 k.val, by have := k.isLt; simp only [TriggerSource.code]; omega⟩
  · rintro (hn | ⟨h1, h2⟩)
    · interval_cases n
      · exact ⟨.request, rfl⟩
      · exact ⟨.line, rfl⟩
      · exact ⟨.clockMark, rfl⟩
    · exact ⟨.cursor ⟨n - 16, by omega⟩, by simp only [TriggerSource.code]; omega⟩

/-- Table 11-9: the options of a payload's block, the windows apart. -/
def Options.CodedBy (payload : List Byte) (o : Options) : Prop :=
  o.pacing.code = byteAt payload 2 ∧ bitAt 0 o.loop = byteAt payload 3 ∧ o.mode.code = byteAt payload 4 ∧
    o.batchSize = byteAt payload 5 ∧ bitAt 0 o.split = byteAt payload 6 ∧ o.form.code = byteAt payload 7 ∧
    o.presentation.code = byteAt payload 8 ∧ o.source.code = byteAt payload 9 ∧ o.action.code = byteAt payload 10

theorem codedOptions_iff {now x : Options} {payload : List Byte} :
    codedOptions now (payload.drop 2) = some x ↔
      x.CodedBy payload ∧ x.windowStart = now.windowStart ∧ x.windowEnd = now.windowEnd := by
  unfold codedOptions Options.CodedBy
  simp only [byteAt_drop, Nat.reduceAdd]
  refine ⟨fun h => ?_, fun ⟨⟨h1, h2, h3, h4, h5, h6, h7, h8, h9⟩, hstart, hend⟩ => ?_⟩
  · split at h
    · rename_i pacing loop mode split form pres source action h1 h2 h3 h5 h6 h7 h8 h9
      cases h
      exact ⟨⟨pacing_codes.reads.1 h1, flag_codes.reads.1 h2, mode_codes.reads.1 h3, rfl, flag_codes.reads.1 h5,
        form_codes.reads.1 h6, presentationOf_reads.1 h7, triggerSourceOf_reads.1 h8, action_codes.reads.1 h9⟩, rfl, rfl⟩
    · exact nomatch h
  · rw [pacing_codes.reads.2 h1, flag_codes.reads.2 h2, mode_codes.reads.2 h3, flag_codes.reads.2 h5,
      form_codes.reads.2 h6, presentationOf_reads.2 h7, triggerSourceOf_reads.2 h8, action_codes.reads.2 h9, ← hstart,
      ← hend, ← h4]

/-- R187: the block is read where no code of it is undefined. -/
theorem codedOptions_defined (now : Options) (payload : List Byte) :
    (∃ x, codedOptions now (payload.drop 2) = some x) ↔
      byteAt payload 2 ≤ 1 ∧ byteAt payload 3 ≤ 1 ∧ byteAt payload 4 ≤ 1 ∧ byteAt payload 6 ≤ 1 ∧
        byteAt payload 7 ≤ 1 ∧ byteAt payload 8 ≤ 3 ∧
        (byteAt payload 9 ≤ 2 ∨ 16 ≤ byteAt payload 9 ∧ byteAt payload 9 ≤ 23) ∧ byteAt payload 10 ≤ 1 := by
  refine ⟨fun ⟨x, hx⟩ => ?_, fun ⟨h1, h2, h3, h5, h6, h7, h8, h9⟩ => ?_⟩
  · obtain ⟨⟨h1, h2, h3, -, h5, h6, h7, h8, h9⟩, -, -⟩ := codedOptions_iff.1 hx
    exact ⟨pacing_codes.defined.1 ⟨_, h1⟩, flag_codes.defined.1 ⟨_, h2⟩, mode_codes.defined.1 ⟨_, h3⟩,
      flag_codes.defined.1 ⟨_, h5⟩, form_codes.defined.1 ⟨_, h6⟩, presentation_defined.1 ⟨_, h7⟩,
      triggerSource_defined.1 ⟨_, h8⟩, action_codes.defined.1 ⟨_, h9⟩⟩
  · obtain ⟨pacing, h1⟩ := pacing_codes.defined.2 h1
    obtain ⟨loop, h2⟩ := flag_codes.defined.2 h2
    obtain ⟨mode, h3⟩ := mode_codes.defined.2 h3
    obtain ⟨split, h5⟩ := flag_codes.defined.2 h5
    obtain ⟨form, h6⟩ := form_codes.defined.2 h6
    obtain ⟨presentation, h7⟩ := presentation_defined.2 h7
    obtain ⟨source, h8⟩ := triggerSource_defined.2 h8
    obtain ⟨action, h9⟩ := action_codes.defined.2 h9
    let x : Options :=
      { pacing := pacing, windowStart := now.windowStart, windowEnd := now.windowEnd, loop := loop, mode := mode
        batchSize := byteAt payload 5, split := split, form := form, presentation := presentation, source := source
        action := action }
    exact ⟨x, codedOptions_iff.2 ⟨⟨h1, h2, h3, rfl, h5, h6, h7, h8, h9⟩, rfl, rfl⟩⟩

/-- R187: the payload fits its layout, as the statements say it. -/
theorem payloadFits_iff (now : Options) (payload : List Byte) :
    PayloadFits payload ↔
      payloadFits payload = true ∧ leAt payload 0 2 ≠ 0 ∧ ∃ x, codedOptions now (payload.drop 2) = some x := by
  have hzero : leAt payload 11 7 = 0 ↔ ∀ i, 11 ≤ i → i < 18 → byteAt payload i = 0 := leAt_eq_zero
  have hmask : 0 < leAt payload 0 2 ↔ leAt payload 0 2 ≠ 0 := Nat.pos_iff_ne_zero
  simp only [PayloadFits, payloadFits, codedOptions_defined, Bool.and_eq_true, decide_eq_true_eq, beq_iff_eq, hzero,
    hmask]
  tauto

/-! ### The windows (R104, R187) -/

theorem windowStartOf_eq_some {n x : Nat} : windowStartOf n = some x ↔ x = n ∧ x ≤ 2 ^ 40 - 1 := by
  unfold windowStartOf
  show (if n ≤ 2 ^ 40 - 1 then some n else none) = some x ↔ _
  split_ifs with h
  · simp only [Option.some.injEq]
    omega
  · simp only [false_iff]
    omega

theorem windowEndOf_eq_some {n : Nat} {x : Option Nat} :
    windowEndOf n = some x ↔ x.getD (2 ^ 64 - 1) = n ∧ ∀ e ∈ x, e ≤ 2 ^ 40 - 1 := by
  unfold windowEndOf
  show (if n = 2 ^ 64 - 1 then some none else if n ≤ 2 ^ 40 - 1 then some (some n) else none) = some x ↔ _
  cases x with
  | none =>
    split_ifs with h1 h2 <;> simp [h1] <;> omega
  | some e =>
    split_ifs with h1 h2 <;> simp
    · omega
    · omega
    · omega

/-- R104: each window present takes its field, each absent one keeps its value. -/
def WindowsWritten (now : Options) (payload : List Byte) (w : Nat × Option Nat) : Prop :=
  ((leAt payload 0 2).testBit 1 = true → w.1 = leAt payload 18 8) ∧
    (¬(leAt payload 0 2).testBit 1 = true → w.1 = now.windowStart) ∧
    ((leAt payload 0 2).testBit 2 = true → w.2.getD (2 ^ 64 - 1) = leAt payload 26 8) ∧
    (¬(leAt payload 0 2).testBit 2 = true → w.2 = now.windowEnd)

/-- R104: the windows written lie in their range. -/
def WindowsInRange (payload : List Byte) (w : Nat × Option Nat) : Prop :=
  ((leAt payload 0 2).testBit 1 = true → w.1 ≤ 2 ^ 40 - 1) ∧
    ((leAt payload 0 2).testBit 2 = true → ∀ e ∈ w.2, e ≤ 2 ^ 40 - 1)

theorem writtenWindows_eq_some {mask : Nat} {now : Options} {block : List Byte} {w : Nat × Option Nat} :
    writtenWindows mask now block = some w ↔
      (if mask.testBit 1 then windowStartOf (leAt block 16 8) else some now.windowStart) = some w.1 ∧
        (if mask.testBit 2 then windowEndOf (leAt block 24 8) else some now.windowEnd) = some w.2 := by
  unfold writtenWindows
  split
  · rename_i start stop h1 h2
    rw [h1, h2]
    simp [Prod.ext_iff]
  · rename_i hno
    exact ⟨nofun, fun ⟨h1, h2⟩ => absurd h2 (hno _ _ h1)⟩

theorem writtenStart_iff {present : Bool} {n now x : Nat} :
    (if present then windowStartOf n else some now) = some x ↔
      ((present = true → x = n) ∧ (¬present = true → x = now)) ∧ (present = true → x ≤ 2 ^ 40 - 1) := by
  cases present
  · simp [eq_comm]
  · simp [windowStartOf_eq_some]

theorem writtenEnd_iff {present : Bool} {n : Nat} {now x : Option Nat} :
    (if present then windowEndOf n else some now) = some x ↔
      ((present = true → x.getD (2 ^ 64 - 1) = n) ∧ (¬present = true → x = now)) ∧
        (present = true → ∀ e ∈ x, e ≤ 2 ^ 40 - 1) := by
  cases present
  · simp [eq_comm]
  · simp [windowEndOf_eq_some]

theorem writtenWindows_iff {now : Options} {payload : List Byte} {w : Nat × Option Nat} :
    writtenWindows (leAt payload 0 2) now (payload.drop 2) = some w ↔
      WindowsWritten now payload w ∧ WindowsInRange payload w := by
  rw [writtenWindows_eq_some, writtenStart_iff, writtenEnd_iff, leAt_drop, leAt_drop, and_and_and_comm]
  exact and_congr and_assoc Iff.rfl

/-! ### The options written (R104) -/

/-- R104: a present option takes the value that its field codes, an absent one keeps its value. -/
theorem pick_iff {α β : Type} {code : α → β} {f : β → Option α} (hreads : ∀ {n x}, f n = some x ↔ code x = n)
    {coded : α} {n : β} (hcoded : code coded = n) {present : Bool} {now x : α} :
    ((present = true → code x = n) ∧ (¬present = true → x = now)) ↔ x = pick present now coded := by
  have hinj : code x = n ↔ x = coded := ⟨fun h => Option.some.inj ((hreads.2 h).symm.trans (hreads.2 hcoded)),
    fun h => h ▸ hcoded⟩
  cases present <;> simp [pick, hinj]

theorem options_eq {a b : Options} (h1 : a.pacing = b.pacing) (h2 : a.windowStart = b.windowStart)
    (h3 : a.windowEnd = b.windowEnd) (h4 : a.loop = b.loop) (h5 : a.mode = b.mode) (h6 : a.batchSize = b.batchSize)
    (h7 : a.split = b.split) (h8 : a.form = b.form) (h9 : a.presentation = b.presentation) (h10 : a.source = b.source)
    (h11 : a.action = b.action) : a = b := by
  cases a
  cases b
  simp_all

/-- R104: the options written are those that stand with the present ones taken from the block. -/
theorem optionsWritten_iff {now coded o : Options} {payload : List Byte} (hcoded : coded.CodedBy payload) :
    OptionsWritten now payload o ↔
      WindowsWritten now payload (o.windowStart, o.windowEnd) ∧
        o = mergeOptions (leAt payload 0 2) now coded (o.windowStart, o.windowEnd) := by
  obtain ⟨c1, c2, c3, c4, c5, c6, c7, c8, c9⟩ := hcoded
  have pacing := pick_iff pacing_codes.reads c1 (present := (leAt payload 0 2).testBit 0) (now := now.pacing)
    (x := o.pacing)
  have loop := pick_iff flag_codes.reads c2 (present := (leAt payload 0 2).testBit 3) (now := now.loop) (x := o.loop)
  have mode := pick_iff mode_codes.reads c3 (present := (leAt payload 0 2).testBit 4) (now := now.mode) (x := o.mode)
  have batch := pick_iff (code := id) (f := some) (Option.some_inj.trans eq_comm) c4
    (present := (leAt payload 0 2).testBit 5) (now := now.batchSize) (x := o.batchSize)
  have split := pick_iff flag_codes.reads c5 (present := (leAt payload 0 2).testBit 6) (now := now.split) (x := o.split)
  have form := pick_iff form_codes.reads c6 (present := (leAt payload 0 2).testBit 7) (now := now.form) (x := o.form)
  have presentation := pick_iff presentationOf_reads c7 (present := (leAt payload 0 2).testBit 8)
    (now := now.presentation) (x := o.presentation)
  have source := pick_iff triggerSourceOf_reads c8 (present := (leAt payload 0 2).testBit 9) (now := now.source)
    (x := o.source)
  have action := pick_iff action_codes.reads c9 (present := (leAt payload 0 2).testBit 10) (now := now.action)
    (x := o.action)
  constructor
  · rintro ⟨p1, p0, s1, s0, e1, e0, l1, l0, m1, m0, b1, b0, t1, t0, f1, f0, r1, r0, u1, u0, a1, a0⟩
    exact ⟨⟨s1, s0, e1, e0⟩, options_eq (pacing.1 ⟨p1, p0⟩) rfl rfl (loop.1 ⟨l1, l0⟩) (mode.1 ⟨m1, m0⟩)
      (batch.1 ⟨b1, b0⟩) (split.1 ⟨t1, t0⟩) (form.1 ⟨f1, f0⟩) (presentation.1 ⟨r1, r0⟩) (source.1 ⟨u1, u0⟩)
      (action.1 ⟨a1, a0⟩)⟩
  · rintro ⟨⟨s1, s0, e1, e0⟩, h⟩
    obtain ⟨p1, p0⟩ := pacing.2 (congrArg Options.pacing h)
    obtain ⟨l1, l0⟩ := loop.2 (congrArg Options.loop h)
    obtain ⟨m1, m0⟩ := mode.2 (congrArg Options.mode h)
    obtain ⟨b1, b0⟩ := batch.2 (congrArg Options.batchSize h)
    obtain ⟨t1, t0⟩ := split.2 (congrArg Options.split h)
    obtain ⟨f1, f0⟩ := form.2 (congrArg Options.form h)
    obtain ⟨r1, r0⟩ := presentation.2 (congrArg Options.presentation h)
    obtain ⟨u1, u0⟩ := source.2 (congrArg Options.source h)
    obtain ⟨a1, a0⟩ := action.2 (congrArg Options.action h)
    exact ⟨p1, p0, s1, s0, e1, e0, l1, l0, m1, m0, b1, b0, t1, t0, f1, f0, r1, r0, u1, u0, a1, a0⟩

/-- R104: a payload that fits writes options, in range or not. -/
theorem optionsWritten_exists {payload : List Byte} (h : PayloadFits payload) (now : Options) :
    ∃ x, OptionsWritten now payload x := by
  obtain ⟨-, -, coded, hcoded⟩ := (payloadFits_iff now payload).1 h
  obtain ⟨hcoded, -, -⟩ := codedOptions_iff.1 hcoded
  let w : Nat × Option Nat :=
    (pick ((leAt payload 0 2).testBit 1) now.windowStart (leAt payload 18 8),
      pick ((leAt payload 0 2).testBit 2) now.windowEnd (some (leAt payload 26 8)))
  have hw : WindowsWritten now payload w :=
    ⟨fun h => by simp [w, pick, h], fun h => by simp [w, pick, h], fun h => by simp [w, pick, h],
      fun h => by simp [w, pick, h]⟩
  exact ⟨mergeOptions (leAt payload 0 2) now coded w, (optionsWritten_iff hcoded).2 ⟨hw, rfl⟩⟩

/-- R104: what the options satisfy together. -/
theorem optionsOk_iff {own : Slot} {o : Options} :
    optionsOk own o = true ↔
      (∀ e ∈ o.windowEnd, o.windowStart ≤ e) ∧ (o.loop = true → o.windowEnd ≠ none ∧ o.pacing = .freeRun) ∧
        1 ≤ o.batchSize ∧ o.batchSize ≤ (if o.split then 8 else 16) ∧ o.source ≠ .cursor own := by
  have hpacing : o.pacing ≠ .bound ↔ o.pacing = .freeRun := by cases o.pacing <;> simp
  unfold optionsOk
  cases o.windowEnd <;> cases o.loop <;> simp [hpacing, and_assoc]

theorem optionsAgree_iff {own : Slot} {payload : List Byte} {o : Options} :
    OptionsAgree own payload o ↔
      WindowsInRange payload (o.windowStart, o.windowEnd) ∧ optionsOk own o = true := by
  rw [optionsOk_iff, WindowsInRange, and_assoc]
  rfl

theorem optionsOf_eq_some {own : Slot} {now o : Options} {payload : List Byte} :
    optionsOf own now payload = some o ↔
      payloadFits payload = true ∧ leAt payload 0 2 ≠ 0 ∧ ∃ coded w,
        codedOptions now (payload.drop 2) = some coded ∧
          writtenWindows (leAt payload 0 2) now (payload.drop 2) = some w ∧
          mergeOptions (leAt payload 0 2) now coded w = o ∧ optionsOk own o = true := by
  unfold optionsOf
  dsimp only
  constructor
  · intro h
    split_ifs at h with hfit
    rw [Bool.or_eq_true, not_or, Bool.not_eq_true', Bool.not_eq_false, beq_iff_eq] at hfit
    split at h
    · rename_i coded w hcoded hw
      split_ifs at h with hok
      cases h
      exact ⟨hfit.1, hfit.2, coded, w, hcoded, hw, rfl, hok⟩
    · exact nomatch h
  · rintro ⟨hfit, hmask, coded, w, hcoded, hw, rfl, hok⟩
    rw [if_neg (by simp [hfit, hmask]), hcoded, hw]
    exact if_pos hok

/-- R104, R187: SET_CURSOR accepts exactly the payloads that fit and whose options agree. -/
theorem optionsOf_iff {own : Slot} {now o : Options} {payload : List Byte} :
    optionsOf own now payload = some o ↔
      PayloadFits payload ∧ OptionsWritten now payload o ∧ OptionsAgree own payload o := by
  rw [optionsOf_eq_some, payloadFits_iff now, optionsAgree_iff]
  constructor
  · rintro ⟨hfit, hmask, coded, w, hcoded, hw, rfl, hok⟩
    obtain ⟨hwritten, hrange⟩ := writtenWindows_iff.1 hw
    obtain ⟨hby, -, -⟩ := codedOptions_iff.1 hcoded
    exact ⟨⟨hfit, hmask, coded, hcoded⟩, (optionsWritten_iff hby).2 ⟨hwritten, rfl⟩, hrange, hok⟩
  · rintro ⟨⟨hfit, hmask, coded, hcoded⟩, hwritten, hrange, hok⟩
    obtain ⟨hby, -, -⟩ := codedOptions_iff.1 hcoded
    obtain ⟨hwindows, hmerge⟩ := (optionsWritten_iff hby).1 hwritten
    exact ⟨hfit, hmask, coded, _, hcoded, writtenWindows_iff.2 ⟨hwindows, hrange⟩, hmerge.symm, hok⟩

end Sys2Proof.Machine
end

section
/-!
PROOF. SET_CURSOR (R104, R134, R139): O34.
-/

namespace Sys2Proof.Machine

open Sys2Proof

/-! ### The request and its rule (R104) -/

/-- R187: the rule of SET_CURSOR is judged with the frame's own body. -/
theorem exec_setCursor {s : State} {p : PortId} {tag : Nat} {body : List Byte} (htaken : Taken s p 20 tag body)
    (slot : Nat) (payload : List Byte) :
    exec (.setCursor p slot payload) s =
      .next (takeRequest p 20 (cursorRequest p slot (setCursor payload body)) s) :=
  congrArg Host.Outcome.next ((takeRequest_taken htaken _).trans (takeRequest_taken htaken _).symm)

/-- R104, R123: a snapshot in flight, and the states SEEKING, RUNNING and ARMED, refuse SET_CURSOR. -/
theorem busy_iff (c : Cursor) :
    c.busy = true ↔ c.snap ≠ none ∨ c.state = .seeking ∨ c.state = .running ∨ c.state = .armed := by
  unfold Cursor.busy
  rw [Bool.or_eq_true, snapshotting_iff]
  cases c.state <;> simp

theorem setCursorCarries_iff {k : Slot} {payload body : List Byte} :
    setCursorCarries k payload body = true ↔ body = BitVec.ofNat 8 k.val :: payload := beq_iff_eq

theorem setCursor_busy {c : Cursor} (h : c.busy = true) (payload body : List Byte) (k : Slot) (s : State) :
    setCursor payload body k c s = (Response.plain .cursorBusy, s) := if_pos h

theorem setCursor_badArgument {c : Cursor} {k : Slot} {payload body : List Byte} (h : c.busy = false)
    (hno : ∀ o, ¬(body = BitVec.ofNat 8 k.val :: payload ∧ optionsOf k c.options payload = some o)) (s : State) :
    setCursor payload body k c s = (Response.plain .badArgument, s) := by
  unfold setCursor
  rw [if_neg (by simp [h])]
  split_ifs with hcarries
  · rfl
  · rw [Bool.not_eq_true', Bool.not_eq_false, setCursorCarries_iff] at hcarries
    rw [Option.eq_none_iff_forall_not_mem.2 fun o ho => hno o ⟨hcarries, ho⟩]

theorem setCursor_accepted {c : Cursor} {k : Slot} {payload body : List Byte} {o : Options} (h : c.busy = false)
    (hbody : body = BitVec.ofNat 8 k.val :: payload) (ho : optionsOf k c.options payload = some o) (s : State) :
    setCursor payload body k c s =
      (Response.done, s.withLive (endedToHeld k (s.live.setCursor k (c.setOptions o)))) := by
  unfold setCursor
  rw [if_neg (by simp [h]), if_neg (by simp [setCursorCarries_iff.2 hbody]), ho]

/-! ### The cursor with new options (R134, R139) -/

/-- R139: a delivery setting differs. -/
theorem deliveryChanged_iff (a b : Options) :
    deliveryChanged a b = true ↔
      b.mode ≠ a.mode ∨ b.batchSize ≠ a.batchSize ∨ b.split ≠ a.split ∨ b.form ≠ a.form ∨
        b.presentation ≠ a.presentation := by
  simp only [deliveryChanged, Bool.or_eq_true, bne_iff_ne, or_assoc, ne_comm]

/-- R104, R134: in ENDED the cursor becomes HELD with a flush. -/
theorem endedToHeld_ended {k : Slot} {l : Live} {c : Cursor} (h : l.cursor k = some c) (hs : c.state = .ended) :
    endedToHeld k l = flush k (l.setCursor k { c with state := .held }) := by
  unfold endedToHeld
  rw [withCursor_some _ h, if_pos hs]

theorem endedToHeld_other {k : Slot} {l : Live} {c : Cursor} (h : l.cursor k = some c) (hs : c.state ≠ .ended) :
    endedToHeld k l = l := by
  unfold endedToHeld
  rw [withCursor_some _ h, if_neg hs]

/-- R134: a buffer with no batch being written is left by a flush, and its owner is told nothing. -/
theorem flushed_empty {b : Buffer} (h : b.writing = []) (o : Options) : b.flushed o = b := if_neg (by simp [h])

theorem flushTold_empty {b : Buffer} (h : b.writing = []) (k : Slot) (o : Options) : b.flushTold k o = [] :=
  if_neg (by simp [h])

/-- R104, R134: what the change from ENDED to HELD leaves of a cursor, at its owner's port and elsewhere. -/
theorem endedToHeld_leaves {k : Slot} {l : Live} {c : Cursor} (h : l.cursor k = some c) :
    (∃ b, (endedToHeld k l).cursor k = some
        { c with state := if c.state = .ended then .held else c.state, buffer := b } ∧
      (c.buffer.writing = [] ∨ c.state ≠ .ended → b = c.buffer)) ∧
    (c.buffer.writing = [] → (endedToHeld k l).port c.owner = l.port c.owner) ∧
    (endedToHeld k l).checkpoints = l.checkpoints ∧ Local k c.owner l (endedToHeld k l) := by
  by_cases hs : c.state = .ended
  · rw [endedToHeld_ended h hs, if_pos hs]
    let x : Cursor := { c with state := .held }
    have hx := cursor_setCursor_same l k x
    obtain ⟨h1, h2, h3⟩ := flush_flushed hx
    refine ⟨⟨_, h1, fun hw => flushed_empty (hw.resolve_right fun g => g hs) _⟩, fun hw => ?_, h3,
      (Local.setCursor k _ l x).trans (flush_local fun d hd => by rw [hx] at hd; cases hd; rfl)⟩
    rw [show x.buffer.flushTold k x.options = [] from flushTold_empty hw k _] at h2
    exact h2
  · rw [endedToHeld_other h hs, if_neg hs]
    exact ⟨⟨_, h, fun _ => rfl⟩, fun _ => rfl, rfl, Local.refl k _ l⟩

theorem setOptions_changed {c : Cursor} {o : Options} (h : deliveryChanged c.options o = true) :
    (c.setOptions o).buffer = c.buffer.emptied := if_pos h

theorem setOptions_kept {c : Cursor} {o : Options} (h : deliveryChanged c.options o = false) :
    (c.setOptions o).buffer = c.buffer := if_neg (by simp [h])

/-! ### The obligation -/

/-- R104: the options of an accepted payload, one condition each. -/
theorem optionsOf_within {own : Slot} {now o : Options} {payload : List Byte} (h : optionsOf own now payload = some o) :
    (∀ e ∈ o.windowEnd, o.windowStart ≤ e) ∧ (o.loop = true → o.windowEnd ≠ none ∧ o.pacing = .freeRun) ∧
      1 ≤ o.batchSize ∧ o.batchSize ≤ (if o.split then 8 else 16) ∧ o.source ≠ .cursor own ∧ payload.length = 34 ∧
      (o.windowStart = now.windowStart ∨ o.windowStart ≤ 2 ^ 40 - 1) ∧
      (o.windowEnd = now.windowEnd ∨ ∀ e ∈ o.windowEnd, e ≤ 2 ^ 40 - 1) := by
  obtain ⟨⟨hlen, -⟩, ⟨-, -, -, hstart, -, hend, -⟩, hrangeStart, hrangeEnd, horder, hloop, hlow, hhigh, hsource⟩ :=
    optionsOf_iff.1 h
  exact ⟨horder, hloop, hlow, hhigh, hsource, hlen, (Classical.em _).elim (fun g => .inr (hrangeStart g)) fun g =>
    .inl (hstart g), (Classical.em _).elim (fun g => .inr (hrangeEnd g)) fun g => .inl (hend g)⟩

/-- Settles O34: SET_CURSOR by the cursor's state, then by its payload. -/
theorem setCursorWritesOptions : Obligations.SetCursorWritesOptions := by
  unfold Obligations.SetCursorWritesOptions
  refine ⟨fun s p tag slot body payload k c htaken hr => ?_,
    fun k now o payload => ⟨optionsOf_iff, fun h => optionsWritten_exists h now⟩,
    fun k now o payload h => optionsOf_within h⟩
  intro taken accepts
  obtain ⟨-, hown⟩ := cursor_of_reaches hr
  have hfree : taken → c.busy = false := fun ⟨hsnap, hstate⟩ => by
    rw [← Bool.not_eq_true, busy_iff]
    rcases hstate with h | h | h | h <;> simp [hsnap, h]
  have haccepts : ∀ o, accepts o ↔
      body = BitVec.ofNat 8 k.val :: payload ∧ optionsOf k c.options payload = some o := fun o =>
    and_congr_right fun _ => optionsOf_iff.symm
  refine ⟨fun hbusy => ?_, fun htook hno => ?_, fun o htook hyes => ?_⟩
  · exact (exec_setCursor htaken slot payload).trans
      (congrArg _ (refused_leaves htaken hr (setCursor_busy ((busy_iff c).2 hbusy) payload body k _)))
  · exact (exec_setCursor htaken slot payload).trans (congrArg _ (refused_leaves htaken hr
      (setCursor_badArgument (hfree htook) (fun o g => hno o ((haccepts o).2 g)) _)))
  · obtain ⟨hbody, ho⟩ := (haccepts o).1 hyes
    have hx := cursor_setCursor_same (s.popRequest p).live k (c.setOptions o)
    obtain ⟨⟨b, hb, hsame⟩, hquiet, hcp, hlocal⟩ := endedToHeld_leaves hx
    have howner : (c.setOptions o).owner = p := hown
    obtain ⟨t, ht, h1, h2, h3, h4, h5, h6⟩ := accepted_leaves htaken hr
      (setCursor_accepted (hfree htook) hbody ho _) ((Local.setCursor k p _ _).trans (howner ▸ hlocal))
    refine ⟨t, _, (exec_setCursor htaken slot payload).trans (congrArg _ ht), h1, h2, h3, h5.trans hcp, h4.trans hb,
      rfl, rfl, rfl, rfl, rfl, rfl, rfl, rfl, rfl, fun hchange => ?_, fun hm hs hp hf hpr hst => ?_⟩
    · have hempty := setOptions_changed ((deliveryChanged_iff c.options o).2 hchange)
      have hwriting : (c.setOptions o).buffer.writing = [] := congrArg Buffer.writing hempty
      have hport := hquiet hwriting
      rw [howner] at hport
      have hnotices : (t.live.port p).notices = ((s.popRequest p).live.port p).notices := by
        rw [h6]
        exact (congrArg Port.notices hport :)
      rw [port_popRequest, if_pos rfl] at hnotices
      rw [hsame (.inl hwriting), hempty]
      exact ⟨rfl, rfl, rfl, rfl, rfl, rfl, rfl, hnotices⟩
    · have hkept : deliveryChanged c.options o = false := by
        rw [← Bool.not_eq_true, deliveryChanged_iff]
        simp [hm, hs, hp, hf, hpr]
      exact (hsame (.inr hst)).trans (setOptions_kept hkept)

end Sys2Proof.Machine
end

section
/-!
PROOF. PROBE (R138, R154 to R157, R170): O44.
-/

namespace Sys2Proof.Machine

open Sys2Proof

/-! ### The rule of PROBE (R154) -/

theorem exec_probe {s t : State} {p : PortId} {slot ptag point instant : Nat}
    (ht : takeRequest p 30 (cursorRequest p slot (probeRequest ptag point instant)) s = t) :
    exec (.probe p slot ptag point instant) s = .next t := congrArg Host.Outcome.next ht

theorem probeRequest_badArgument {tag point instant : Nat}
    (h : ¬(point ≤ 4095 ∧ instant ≤ 2 ^ 40 - 1 ∧ tag ≤ 65535)) (k : Slot) (c : Cursor) (s : State) :
    probeRequest tag point instant k c s = (Response.plain .badArgument, s) := by
  unfold probeRequest
  split
  · rfl
  · rename_i x hx
    have hpoint := asIndex_some hx
    refine if_pos ?_
    show 2 ^ 40 - 1 < instant ∨ 65535 < tag
    omega

/-- R154: a fitting probe is refused where 4 are queued, and else accepted. -/
theorem probeRequest_fits {tag point instant : Nat} (hpoint : point ≤ 4095) (hinstant : instant ≤ 2 ^ 40 - 1)
    (htag : tag ≤ 65535) (k : Slot) (c : Cursor) (s : State) :
    probeRequest tag point instant k c s =
      if 4 ≤ c.probes.length then (Response.plain .probeFull, s)
      else
        (Response.plain .accepted,
          s.withLive (probeAccepted s.env k c
            { tag := tag, point := ⟨point, Nat.lt_succ_of_le hpoint⟩, instant := instant, work := none } s.live)) := by
  unfold probeRequest
  rw [asIndex_of_lt (Nat.lt_succ_of_le hpoint)]
  refine if_neg ?_
  show ¬(2 ^ 40 - 1 < instant ∨ 65535 < tag)
  omega

/-! ### The place items are written into (R138) -/

/-- R138: how many items stand in the place items are written into. -/
def Cursor.standing (c : Cursor) : Nat :=
  if c.options.mode = .push then c.buffer.outgoing.length else c.buffer.writing.length

theorem withdrawable_iff (c : Cursor) (f : StepFlight) : withdrawable c f = true ↔ f.written ≤ c.standing := by
  unfold withdrawable Cursor.standing
  cases c.options.mode <;> simp

/-- R138: in NOTICE mode the items of a withdrawn step leave the batch being written, and the completed batches and the
half stand. -/
theorem abortStep_notice {c : Cursor} (h : c.options.mode = .notice) (f : StepFlight) :
    (c.abortStep f).buffer =
      { c.buffer with
        writing := c.buffer.writing.take (c.standing - f.written), waiting := none
        nextNumber := f.undo.nextNumber, refTime := f.undo.refTime } := by
  unfold Cursor.abortStep Buffer.withdraw Cursor.standing
  rw [h]
  rfl

/-- R138: in PUSH mode they leave the outgoing queue. -/
theorem abortStep_push {c : Cursor} (h : c.options.mode = .push) (f : StepFlight) :
    (c.abortStep f).buffer =
      { c.buffer with
        outgoing := c.buffer.outgoing.take (c.standing - f.written), waiting := none
        nextNumber := f.undo.nextNumber, refTime := f.undo.refTime } := by
  unfold Cursor.abortStep Buffer.withdraw Cursor.standing
  rw [h]
  rfl

/-! ### The probe joins the queue (R154, R157) -/

/-- R157: a step of a RUNNING cursor that can be withdrawn is undone. -/
theorem takeProbe_withdraws {c : Cursor} {f : StepFlight} (hs : c.state = .running) (ho : c.op = .step f)
    (hw : f.written ≤ c.standing) (q : Probe) :
    c.takeProbe q = { c.abortStep f with probes := c.probes ++ [q] } := by
  unfold Cursor.takeProbe
  dsimp only
  split
  case h_1 g _ hg =>
    obtain rfl := Op.step.inj (ho.symm.trans hg)
    exact if_pos ((withdrawable_iff c f).2 hw)
  case h_2 hno => exact absurd ho (hno f hs)

/-- R154, R157: where no step can be withdrawn the queue alone changes. -/
theorem takeProbe_joins {c : Cursor} (h : ∀ f, c.state = .running → c.op = .step f → c.standing < f.written)
    (q : Probe) : c.takeProbe q = { c with probes := c.probes ++ [q] } := by
  unfold Cursor.takeProbe
  dsimp only
  split
  case h_1 f hs ho => exact if_neg fun hw => absurd ((withdrawable_iff c f).1 hw) (not_le.2 (h f hs ho))
  case h_2 => rfl

/-- R154, R157: a probe joins the queue alone, or behind a step that is withdrawn. -/
theorem takeProbe_cases (c : Cursor) (q : Probe) :
    c.takeProbe q = { c with probes := c.probes ++ [q] } ∨
      ∃ f, c.takeProbe q = { c.abortStep f with probes := c.probes ++ [q] } := by
  by_cases h : ∃ f, c.state = .running ∧ c.op = .step f ∧ f.written ≤ c.standing
  · obtain ⟨f, hs, ho, hw⟩ := h
    exact .inr ⟨f, takeProbe_withdraws hs ho hw q⟩
  · exact .inl (takeProbe_joins (fun f hs ho => not_le.1 fun hw => h ⟨f, hs, ho, hw⟩) q)

theorem takeProbe_keeps (c : Cursor) (q : Probe) :
    (c.takeProbe q).probes = c.probes ++ [q] ∧ (c.takeProbe q).state = c.state ∧
      (c.takeProbe q).watches = c.watches ∧ (c.takeProbe q).options = c.options := by
  rcases takeProbe_cases c q with h | ⟨f, h⟩ <;> rw [h] <;> exact ⟨rfl, rfl, rfl, rfl⟩

/-- R156, R157: a settled cursor, a RUNNING one at a step boundary and one whose step is withdrawn let a probe begin. -/
theorem takeProbe_mayBegin {c : Cursor}
    (h : c.state ≠ .seeking ∧ c.state ≠ .running ∨
      c.state = .running ∧ (c.op = .none ∨ ∃ f, c.op = .step f ∧ f.written ≤ c.standing))
    (q : Probe) : probesMayBegin (c.takeProbe q) = true := by
  obtain ⟨-, hstate, -⟩ := takeProbe_keeps c q
  rcases h with ⟨hns, hnr⟩ | ⟨hr, ho | ⟨f, ho, hw⟩⟩
  · exact probesMayBegin_of (.inl (by rw [hstate]; exact ⟨hns, hnr⟩))
  · rw [takeProbe_joins (fun f _ hf => nomatch ho.symm.trans hf)]
    exact probesMayBegin_of (.inr (.inr ⟨hr, ho⟩))
  · rw [takeProbe_withdraws hr ho hw]
    exact probesMayBegin_of (.inr (.inr ⟨hr, rfl⟩))

/-- R156, R157: a rebuild, a step that cannot be withdrawn and a marker that waits hold a probe back. -/
theorem takeProbe_mayNotBegin {c : Cursor}
    (h : c.state = .seeking ∧ c.op ≠ .serving ∨
      c.state = .running ∧ c.op ≠ .none ∧ ¬∃ f, c.op = .step f ∧ f.written ≤ c.standing)
    (q : Probe) : probesMayBegin (c.takeProbe q) = false := by
  have hstep : ∀ f, c.state = .running → c.op = .step f → c.standing < f.written := fun f hr ho => by
    rcases h with ⟨hs, -⟩ | ⟨-, -, hno⟩
    · exact nomatch hs.symm.trans hr
    · exact not_le.1 fun hw => hno ⟨f, ho, hw⟩
  rw [takeProbe_joins hstep]
  exact probesMayBegin_busy (h.imp_right fun ⟨hr, ho, _⟩ => ⟨hr, ho⟩)

/-! ### The last probe of the queue (R155, R156) -/

/-- R156: a probe behind another keeps waiting. -/
theorem kickProbe_behind (e : Env) {l : Live} {k : Slot} {c : Cursor} (h : l.cursor k = some c) {q : Probe}
    {ps : List Probe} (hp : c.probes = ps ++ [q]) (hne : ps ≠ []) :
    ∃ qs : List Probe, (kickProbe e k l).cursor k = some { c with probes := qs ++ [q] } ∧ qs.length = ps.length := by
  obtain ⟨x, rest, rfl⟩ := List.exists_cons_of_ne_nil hne
  have hstays : l.cursor k = some { c with probes := x :: rest ++ [q] } := by rw [← hp]; exact h
  unfold kickProbe
  rw [withCursor_some _ h, hp]
  dsimp only [List.cons_append]
  split_ifs
  · rw [beginProbe_cursor e h hp]
    exact ⟨_ :: rest, cursor_setCursor_same _ _ _, rfl⟩
  · exact ⟨x :: rest, hstays, rfl⟩

/-- R97, R155: the only probe of the queue begins, with its choice and the copy of its point's entry. -/
theorem kickProbe_only (e : Env) {l : Live} {k : Slot} {c : Cursor} (h : l.cursor k = some c) {q : Probe}
    (hp : c.probes = [q]) (hw : q.work = none) (hb : probesMayBegin c = true) :
    (kickProbe e k l).cursor k =
        some { c with probes := [{ q with work := some (probeStart e q.point (l.checkpoints.choose q.instant).1) }] } ∧
      (kickProbe e k l).checkpoints = (l.checkpoints.choose q.instant).2 := by
  have hkick : kickProbe e k l = beginProbe e k l := by
    unfold kickProbe
    rw [withCursor_some _ h, hp]
    exact if_pos (by simp [hw, hb])
  rw [hkick, beginProbe_cursor e h hp]
  exact ⟨cursor_setCursor_same _ _ _, rfl⟩

/-- R155, R156: what the accepted probe `q`, last in the queue of `c`, has become as `x` with the table at `u`. -/
def Enqueued (e : Env) (c : Cursor) (q : Probe) (t : CheckpointTable) (x : Probe) (u : CheckpointTable) : Prop :=
  x = { q with work := x.work } ∧
    (c.probes = [] → probesMayBegin (c.takeProbe q) = true →
      x.work = some (probeStart e q.point (t.choose q.instant).1) ∧ u = (t.choose q.instant).2) ∧
    (c.probes ≠ [] → x.work = none) ∧
    (probesMayBegin (c.takeProbe q) = false → x.work = none ∧ u = t)

/-- R154, R170: the LAGGING test apart, a probe's acceptance is its joining and the beginning that follows. -/
theorem probeAccepted_eq (e : Env) (k : Slot) (c : Cursor) (q : Probe) (l : Live) :
    ∃ b : Bool, probeAccepted e k c q l = kickProbe e k (l.setCursor k { c.takeProbe q with lagging := b }) := by
  unfold probeAccepted
  dsimp only
  split_ifs
  · obtain ⟨b, hb⟩ := lagTest_eq e (c.takeProbe q)
    refine ⟨b, ?_⟩
    unfold lagTest
    rw [modify_some _ (cursor_setCursor_same _ _ _), hb, setCursor_setCursor]
  · exact ⟨(c.takeProbe q).lagging, rfl⟩

/-- R154 to R156: what the acceptance of a probe leaves of its cursor and of the table. -/
theorem probeAccepted_queues (e : Env) (k : Slot) (c : Cursor) {q : Probe} (hw : q.work = none) (l : Live) :
    ∃ (b : Bool) (ps : List Probe) (x : Probe),
      (probeAccepted e k c q l).cursor k = some { c.takeProbe q with lagging := b, probes := ps ++ [x] } ∧
        ps.length = c.probes.length ∧
        Enqueued e c q l.checkpoints x (probeAccepted e k c q l).checkpoints := by
  obtain ⟨b, heq⟩ := probeAccepted_eq e k c q l
  let a : Cursor := { c.takeProbe q with lagging := b }
  have ha : (l.setCursor k a).cursor k = some a := cursor_setCursor_same _ _ _
  obtain ⟨hp, -⟩ := takeProbe_keeps c q
  have hq : q = { q with work := q.work } := rfl
  rw [heq]
  cases hb : probesMayBegin (c.takeProbe q) with
  | false =>
    rw [kickProbe_waits e ha hb]
    refine ⟨b, c.probes, q, ?_, rfl, hq, fun _ g => (nomatch hb.symm.trans g), fun _ => hw, fun _ => ⟨hw, rfl⟩⟩
    rw [← hp]
    exact ha
  | true =>
    by_cases hc : c.probes = []
    · obtain ⟨hcur, hcp⟩ := kickProbe_only e ha (hp.trans (by rw [hc]; rfl)) hw hb
      exact ⟨b, [], _, hcur, by rw [hc], rfl, fun _ _ => ⟨rfl, hcp⟩, fun g => absurd hc g,
        fun g => nomatch hb.symm.trans g⟩
    · obtain ⟨ps, hcur, hlen⟩ := kickProbe_behind e ha hp hc
      exact ⟨b, ps, q, hcur, hlen, hq, fun g => absurd g hc, fun _ => hw, fun g => nomatch hb.symm.trans g⟩

theorem probeAccepted_local (e : Env) (k : Slot) (c : Cursor) (q : Probe) (p : PortId) (l : Live) :
    Local k p l (probeAccepted e k c q l) := by
  obtain ⟨b, heq⟩ := probeAccepted_eq e k c q l
  rw [heq]
  exact (Local.setCursor k p l _).trans (kickProbe_local e k p _)

/-! ### The obligation -/

/-- Settles O44: the request by its arguments and the queue, then by whether the cursor's step is withdrawn and whether
its state lets the probe begin. -/
theorem probeJoinsQueue : Obligations.ProbeJoinsQueue := by
  unfold Obligations.ProbeJoinsQueue
  intro s p tag slot ptag point instant body k c htaken hr fits
  refine ⟨fun hbad => ?_, fun ⟨hpoint, hinstant, htag⟩ hfull => ?_, fun ⟨hpoint, hinstant, htag⟩ hroom => ?_⟩
  · exact exec_probe (refused_leaves htaken hr (probeRequest_badArgument hbad k c _))
  · exact exec_probe (refused_leaves htaken hr
      ((probeRequest_fits hpoint hinstant htag k c _).trans (if_pos hfull)))
  · let q : Probe := { tag := ptag, point := ⟨point, Nat.lt_succ_of_le hpoint⟩, instant := instant, work := none }
    obtain ⟨t, ht, h1, h2, h3, h4, h5, -⟩ := accepted_leaves htaken hr
      ((probeRequest_fits hpoint hinstant htag k c _).trans (if_neg (not_le.2 hroom)))
      (probeAccepted_local _ k c q p _)
    obtain ⟨b, ps, x, hcur, hlen, hx, hbegins, hbehind, hwaits⟩ :=
      probeAccepted_queues (s.popRequest p).env k c (q := q) rfl (s.popRequest p).live
    obtain ⟨d, hd, htest, hlag⟩ := probeAccepted_tests (s := s) (l := (s.popRequest p).live) (k := k) c q
    obtain rfl := Option.some.inj (hd.symm.trans hcur)
    obtain ⟨-, hstate, hwatches, hoptions⟩ := takeProbe_keeps c q
    rw [← h5] at hbegins hwaits
    refine ⟨t, _, exec_probe ht, h1, h2, h3, h4.trans hcur,
      ⟨x, by simp, congrArg Probe.tag hx, congrArg (fun y => y.point.val) hx, congrArg Probe.instant hx, ?_⟩,
      by simp [hlen], hstate, hwatches, hoptions, htest, hlag, fun hno => ?_, fun f hrun hstep => ⟨fun hgone => ?_,
      fun hstands => ?_⟩⟩
    · have hpointx : x.point = q.point := by rw [hx]
      refine ⟨fun hp hready => ?_, hbehind, fun hbusy => hwaits (takeProbe_mayNotBegin hbusy q)⟩
      obtain ⟨hwork, htable⟩ := hbegins hp (takeProbe_mayBegin hready q)
      rw [hpointx]
      exact ⟨hwork, htable⟩
    · rw [takeProbe_joins (fun f hrun hstep => hno.elim (absurd hrun) fun g => absurd hstep (g f)) q]
      exact ⟨rfl, rfl, rfl, rfl, rfl, rfl⟩
    · have hall : ∀ g, c.state = .running → c.op = .step g → c.standing < g.written := fun g _ hg => by
        obtain rfl := Op.step.inj (hstep.symm.trans hg)
        exact hgone
      rw [takeProbe_joins hall q]
      exact ⟨rfl, rfl, rfl, rfl⟩
    · rw [takeProbe_withdraws hrun hstep hstands q]
      exact ⟨rfl, rfl, rfl, rfl, rfl, rfl, rfl, rfl, rfl, rfl, fun hm => abortStep_notice hm f,
        fun hm => abortStep_push hm f⟩

end Sys2Proof.Machine
end

section
/-!
PROOF. The requests on watches and the conditions of Table 8-2 (R148, R149, R150, R186): O45.
-/

namespace Sys2Proof.Machine

open Sys2Proof

/-! ### The codes of a watch (Table 11-2) -/

theorem asIndex_eq_some {n i : Nat} {k : Fin n} : asIndex n i = some k ↔ k.val = i :=
  ⟨asIndex_some, fun h => h ▸ asIndex_val k⟩

theorem deviceKindOf_reads {n : Nat} {x : DeviceKind} : deviceKindOf n = some x ↔ DeviceKind.code x = n := by
  match n with
  | 0 | 1 | 2 | 3 => cases x <;> simp [deviceKindOf, DeviceKind.code]
  | n + 4 => cases x <;> simp [deviceKindOf, DeviceKind.code]

theorem thresholdOf_reads {n : Nat} {x : QualityThreshold} : thresholdOf n = some x ↔ x.code = n := by
  match n with
  | 0 | 1 | 2 => cases x <;> simp [thresholdOf, QualityThreshold.code]
  | n + 3 => cases x <;> simp [thresholdOf, QualityThreshold.code]

/-- R186: the point kind of a station count, of which 0 is any. -/
theorem watchPointKind_reads {n : Nat} {x : Option DeviceKind} :
    (if n = 0 then some none else (deviceKindOf n).map some) = some x ↔ watchPointKindCode x = n := by
  cases x with
  | none =>
    have hcode : watchPointKindCode none = 0 := rfl
    rw [hcode]
    split_ifs with h <;> simp [h, eq_comm]
  | some d =>
    have hcode : watchPointKindCode (some d) = DeviceKind.code d := rfl
    have hpos : DeviceKind.code d ≠ 0 := by cases d <;> decide
    rw [hcode, ← deviceKindOf_reads]
    split_ifs with h
    · simp [h, deviceKindOf]
    · simp

/-! ### The conditions of Table 8-2 (R148) -/

theorem watchCondOf_pointState {point st : Nat} {cond : WatchCond} :
    watchCondOf (.pointState point st) = some cond ↔
      ∃ (x : PointId) (y : SwState), x.val = point ∧ swStateCode y = st ∧ cond = .pointState x y := by
  dsimp only [watchCondOf]
  refine ⟨fun h => ?_, ?_⟩
  · split at h
    · rename_i x y hx hy
      exact ⟨x, y, asIndex_some hx, (swStateOf_eq_some.1 hy).symm, (Option.some.inj h).symm⟩
    · exact nomatch h
  · rintro ⟨x, y, rfl, rfl, rfl⟩
    rw [asIndex_val, swStateOf_eq_some.2 rfl]

theorem watchCondOf_stationCount {station kind st n : Nat} {cond : WatchCond} :
    watchCondOf (.stationCount station kind st n) = some cond ↔
      station ≤ 255 ∧ 1 ≤ n ∧ n ≤ 4096 ∧
        ∃ (x : Option DeviceKind) (y : SwState), watchPointKindCode x = kind ∧ swStateCode y = st ∧
          cond = .stationCount station x y n := by
  dsimp only [watchCondOf]
  refine ⟨fun h => ?_, ?_⟩
  · split at h
    · rename_i x y hx hy
      split_ifs at h with hrange
      obtain ⟨h1, h2, h3⟩ := hrange
      exact ⟨h1, h2, h3, x, y, watchPointKind_reads.1 hx, (swStateOf_eq_some.1 hy).symm, (Option.some.inj h).symm⟩
    · exact nomatch h
  · rintro ⟨h1, h2, h3, x, y, hx, rfl, rfl⟩
    rw [watchPointKind_reads.2 hx, swStateOf_eq_some.2 rfl]
    exact if_pos ⟨h1, h2, h3⟩

theorem watchCondOf_quality {th : Nat} {cond : WatchCond} :
    watchCondOf (.quality th) = some cond ↔ ∃ y : QualityThreshold, y.code = th ∧ cond = .quality y := by
  unfold watchCondOf
  simp only [Option.map_eq_some_iff, thresholdOf_reads, eq_comm (a := cond)]

theorem watchCondOf_instant {t : Nat} {cond : WatchCond} :
    watchCondOf (.instant t) = some cond ↔ t ≤ 2 ^ 40 - 1 ∧ cond = .instant t := by
  dsimp only [watchCondOf]
  rw [Option.ite_none_right_eq_some, Option.some.injEq, eq_comm (b := cond)]
  rfl

theorem watchCondOf_gap {r : Nat} {cond : WatchCond} :
    watchCondOf (.gap (some r)) = some cond ↔ ∃ x : RecId, x.val = r ∧ cond = .gap (some x) := by
  unfold watchCondOf
  simp only [Option.map_eq_some_iff, asIndex_eq_some, eq_comm (a := cond)]

/-! ### What a rule answers of its own cursor (R176) -/

/-- R100, R176: what a request leaves whose rule writes the cursor it reaches. -/
theorem written_leaves {s : State} {p : PortId} {code tag slot : Nat} {body : List Byte} {k : Slot} {c d : Cursor}
    (htaken : Taken s p code tag body) (hr : Reaches s p slot body k c)
    {rule : Slot → Cursor → State → Response × State} {r : Response}
    (e : rule k c (s.popRequest p) = (r, withCursorAt (s.popRequest p) k d)) :
    takeRequest p code (cursorRequest p slot rule) s = answered s p tag r (withCursorAt (s.popRequest p) k d) := by
  rw [takeRequest_reaches htaken hr, e]

/-- R148, R149: the states in which a watch can be neither set nor cleared. -/
theorem watchesFixed_iff (c : Cursor) :
    c.watchesFixed = true ↔ c.state = .seeking ∨ c.state = .running ∨ c.state = .armed := by
  unfold Cursor.watchesFixed
  cases c.state <;> simp

/-! ### SET_WATCH (R148) -/

theorem newWatch_some {args : WatchArgs} {cond : WatchCond} {acts : Byte} (hcond : watchCondOf args = some cond)
    (hacts : acts.toNat < 8) :
    newWatch args acts = some
      { cond := cond, actions := { hold := acts.getLsbD 0, mark := acts.getLsbD 1, signal := acts.getLsbD 2 }
        fired := false, hits := 0 } := by
  unfold newWatch actionsOf
  rw [hcond, if_pos hacts]

theorem newWatch_none {args : WatchArgs} {acts : Byte} (h : watchCondOf args = none ∨ 8 ≤ acts.toNat) :
    newWatch args acts = none := by
  unfold newWatch actionsOf
  rcases h with h | h
  · rw [h]
  · rw [if_neg (not_lt.2 h)]
    cases watchCondOf args <;> rfl

theorem setWatch_busy {c : Cursor} (h : c.watchesFixed = true) (n : Nat) (args : WatchArgs) (acts : Byte) (k : Slot)
    (s : State) : setWatch n args acts k c s = (Response.plain .cursorBusy, s) := if_pos h

theorem setWatch_fills {c : Cursor} (h : ¬c.watchesFixed = true) (w : WatchId) {args : WatchArgs} {acts : Byte}
    {x : Watch} (hx : newWatch args acts = some x) (k : Slot) (s : State) :
    setWatch w.val args acts k c s =
      (Response.done, withCursorAt s k { c with watches := vput c.watches w (some x) }) := by
  unfold setWatch
  rw [if_neg h, asIndex_val, hx]
  rfl

theorem setWatch_badArgument {c : Cursor} (h : ¬c.watchesFixed = true) {n : Nat} {args : WatchArgs} {acts : Byte}
    (hbad : 8 ≤ n ∨ newWatch args acts = none) (k : Slot) (s : State) :
    setWatch n args acts k c s = (Response.plain .badArgument, s) := by
  unfold setWatch
  rw [if_neg h]
  rcases hbad with hn | hx
  · rw [asIndex_none.2 hn]
  · rw [hx]
    cases asIndex 8 n <;> rfl

/-! ### CLEAR_WATCH (R149) -/

theorem clearWatch_busy {c : Cursor} (h : c.watchesFixed = true) (n : Nat) (k : Slot) (s : State) :
    clearWatch n k c s = (Response.plain .cursorBusy, s) := if_pos h

theorem clearWatch_empties {c : Cursor} (h : ¬c.watchesFixed = true) (w : WatchId) (k : Slot) (s : State) :
    clearWatch w.val k c s = (Response.done, withCursorAt s k { c with watches := vput c.watches w none }) := by
  unfold clearWatch
  rw [if_neg h, asIndex_val]
  rfl

theorem clearWatch_badArgument {c : Cursor} (h : ¬c.watchesFixed = true) {n : Nat} (hn : 8 ≤ n) (k : Slot)
    (s : State) : clearWatch n k c s = (Response.plain .badArgument, s) := by
  unfold clearWatch
  rw [if_neg h, asIndex_none.2 hn]

/-! ### READ_WATCHES (R150) -/

theorem mem_readAll {α β : Type} {f : α → Option β} {xs : List α} {ys : List β} (h : readAll f xs = some ys) {y : β} :
    y ∈ ys ↔ ∃ x ∈ xs, f x = some y := by
  calc
    y ∈ ys ↔ some y ∈ ys.map some := by simp
    _ ↔ some y ∈ xs.map f := by rw [readAll_eq_some.1 h]
    _ ↔ ∃ x ∈ xs, f x = some y := List.mem_map

/-- R150: the clear set is read where every slot of it is one of the 8. -/
theorem clearSet_read {ns : List Nat} (h : ∀ n ∈ ns, n < 8) :
    ∃ ws : List WatchId, readAll (asIndex 8) ns = some ws ∧ ∀ i : WatchId, i ∈ ws ↔ i.val ∈ ns := by
  cases hread : readAll (asIndex 8) ns with
  | none =>
    obtain ⟨n, hn, hno⟩ := readAll_eq_none.1 hread
    exact absurd (h n hn) (not_lt.2 (asIndex_none.1 hno))
  | some ws =>
    refine ⟨ws, rfl, fun i => (mem_readAll hread).trans ?_⟩
    simp [asIndex_eq_some]

theorem get_clearNamed (ws : List WatchId) (v : Vector (Option Watch) 8) (i : WatchId) :
    (clearNamed ws v).get i = if i ∈ ws then (v.get i).map Watch.cleared else v.get i := vofFn_get _ i

theorem readWatches_clears {ns : List Nat} {ws : List WatchId} (h : readAll (asIndex 8) ns = some ws) (k : Slot)
    (c : Cursor) (s : State) :
    readWatches ns k c s =
      ({ code := .done, body := .watches c.watches },
        withCursorAt s k { c with watches := clearNamed ws c.watches }) := by
  unfold readWatches
  rw [h]
  rfl

theorem readWatches_badArgument {ns : List Nat} (h : ∃ n ∈ ns, 8 ≤ n) (k : Slot) (c : Cursor) (s : State) :
    readWatches ns k c s = (Response.plain .badArgument, s) := by
  obtain ⟨n, hn, hlarge⟩ := h
  unfold readWatches
  rw [readAll_eq_none.2 ⟨n, hn, asIndex_none.2 hlarge⟩]

/-! ### The obligation -/

/-- Settles O45: each request by its rule, the cursor's state before the arguments where the state is asked; then the
conditions kind by kind. -/
theorem watchRequests : Obligations.WatchRequests := by
  unfold Obligations.WatchRequests
  refine ⟨fun s p tag slot body k c hr => ?_, fun cond =>
    ⟨fun _ _ => watchCondOf_pointState, fun _ _ _ _ => watchCondOf_stationCount, fun _ => watchCondOf_quality,
      fun _ => watchCondOf_instant, by simp [watchCondOf, eq_comm], fun _ => watchCondOf_gap, fun _ => rfl⟩⟩
  intro done fixed
  have hfixed : c.watchesFixed = true ↔ fixed := watchesFixed_iff c
  rw [← hfixed]
  refine ⟨fun w args cond acts htaken hfree hcond hacts => ?_, fun n args acts htaken => ⟨fun hbusy => ?_,
    fun hfree hbad => ?_⟩, fun w htaken hfree => ?_, fun n htaken => ⟨fun hbusy => ?_, fun hfree hn => ?_⟩,
    fun ns htaken => ⟨fun hsmall => ?_, fun hlarge => ?_⟩⟩
  · exact congrArg Host.Outcome.next
      (written_leaves htaken hr (setWatch_fills hfree w (newWatch_some hcond hacts) k _))
  · exact congrArg Host.Outcome.next (refused_leaves htaken hr (setWatch_busy hbusy n args acts k _))
  · exact congrArg Host.Outcome.next
      (refused_leaves htaken hr (setWatch_badArgument hfree (hbad.imp_right newWatch_none) k _))
  · exact congrArg Host.Outcome.next (written_leaves htaken hr (clearWatch_empties hfree w k _))
  · exact congrArg Host.Outcome.next (refused_leaves htaken hr (clearWatch_busy hbusy n k _))
  · exact congrArg Host.Outcome.next (refused_leaves htaken hr (clearWatch_badArgument hfree hn k _))
  · obtain ⟨ws, hread, hmem⟩ := clearSet_read hsmall
    refine ⟨clearNamed ws c.watches,
      congrArg Host.Outcome.next (written_leaves htaken hr (readWatches_clears hread k c _)), fun i => ?_⟩
    rw [get_clearNamed]
    exact if_congr (hmem i) rfl rfl
  · exact congrArg Host.Outcome.next (refused_leaves htaken hr (readWatches_badArgument hlarge k c _))

end Sys2Proof.Machine
end

section
/-!
PROOF. The laws of the Common Clock, and what each of its operations keeps of them (R159 to R166).
-/

namespace Sys2Proof.Machine

open Sys2Proof

/-! ### The laws of the clock, on the ports that are UP -/

/-- R161: the port is UP. -/
def State.upAt (s : State) (p : PortId) : Prop := (s.live.port p).up = true

/-- R159 to R164: a clock within its laws, where `up` tells which ports are UP. -/
def Clock.lawfulAt (up : PortId → Prop) (c : Clock) : Prop :=
  c.lawful ∧ c.waitList.Nodup ∧ (∀ p ∈ c.controller, p ∉ c.waitList) ∧ (c.controller = none → c.waitList = []) ∧
    (∀ p ∈ c.controller, up p) ∧ ∀ p ∈ c.waitList, up p

theorem clockLaw_iff (s : State) : ClockLaw s ↔ s.clock.lawfulAt s.upAt := Iff.rfl

theorem Clock.lawfulAt.mono {up up' : PortId → Prop} {c : Clock} (h : c.lawfulAt up) (hup : ∀ p, up p → up' p) :
    c.lawfulAt up' := by
  obtain ⟨hlaw, hnd, hapart, hfree, hctl, hwait⟩ := h
  exact ⟨hlaw, hnd, hapart, hfree, fun p hp => hup p (hctl p hp), fun p hp => hup p (hwait p hp)⟩

/-- The law of a state after which no port has gone DOWN. -/
theorem clockLaw_of_up {s t : State} (hup : ∀ p, s.upAt p → t.upAt p) (h : t.clock.lawfulAt s.upAt) : ClockLaw t :=
  h.mono hup

/-! ### The clock's operations (R160 to R166) -/

section
variable {up up' : PortId → Prop} {c : Clock}

/-- R164: the lease timer of a clock that a port controls starts within its range. -/
theorem Clock.lawfulAt.startLease (h : c.lawfulAt up) (hc : c.controller ≠ none) : c.startLease.lawfulAt up := by
  obtain ⟨⟨hinst, hr, hr', hl, hl', hpace, -, hpacing, -⟩, hroles⟩ := h
  refine ⟨⟨hinst, hr, hr', hl, hl', hpace, ?_, hpacing, fun t ht => ?_⟩, hroles⟩
  · exact ⟨fun _ => Option.isSome_iff_ne_none.2 hc, fun _ => rfl⟩
  · obtain rfl := Option.some.inj ht
    show c.leasePeriod * 1000 ≤ 3600000
    omega

/-- R162: a free clock is taken by an UP port. -/
theorem Clock.lawfulAt.taken (h : c.lawfulAt up) (hc : c.controller = none) {p : PortId} (hp : up p) :
    (Clock.startLease { c with controller := some p }).lawfulAt up := by
  obtain ⟨⟨hinst, hr, hr', hl, hl', hpace, -, hpacing, -⟩, -, -, hfree, -, -⟩ := h
  refine ⟨⟨hinst, hr, hr', hl, hl', hpace, ⟨fun _ => rfl, fun _ => rfl⟩, hpacing, ?_⟩, ?_⟩
  · simp only [Clock.startLease, Option.mem_some_iff, forall_eq']
    omega
  · simp [Clock.startLease, hfree hc, hp]

/-- R162: an UP port that has no role joins the waiting list. -/
theorem Clock.lawfulAt.joined (h : c.lawfulAt up) {p q : PortId} (hq : c.controller = some q) (hqp : q ≠ p)
    (hp : p ∉ c.waitList) (hup : up p) : Clock.lawfulAt up { c with waitList := c.waitList ++ [p] } := by
  obtain ⟨hlaw, hnd, hapart, -, hctl, hwait⟩ := h
  have hnd' : (c.waitList ++ [p]).Nodup := by
    simpa [List.nodup_append, hnd] using fun x hx (e : x = p) => hp (e ▸ hx)
  refine ⟨hlaw, hnd', fun x hx => ?_, fun hn => absurd (hq.symm.trans hn) (by simp), hctl, fun x hx => ?_⟩
  · obtain rfl := Option.some.inj (hq.symm.trans hx)
    simpa [hqp] using hapart q hx
  · rcases List.mem_append.1 hx with hx | hx
    · exact hwait x hx
    · exact List.mem_singleton.1 hx ▸ hup

/-- R163: a port that does not control the clock leaves the waiting list; it may have gone DOWN. -/
theorem Clock.lawfulAt.unlisted (h : c.lawfulAt up) {p : PortId} (hc : c.controller ≠ some p)
    (hup : ∀ q, q ≠ p → up q → up' q) : (c.unlist p).lawfulAt up' := by
  obtain ⟨hlaw, hnd, hapart, hfree, hctl, hwait⟩ := h
  have hmem : ∀ x, x ∈ (c.unlist p).waitList ↔ x ∈ c.waitList ∧ x ≠ p := fun x => by simp [Clock.unlist]
  refine ⟨hlaw, hnd.filter _, fun x hx hin => hapart x hx ((hmem x).1 hin).1, fun hn => ?_,
    fun x hx => hup x (fun e => hc (e ▸ hx)) (hctl x hx), fun x hx => ?_⟩
  · simp [Clock.unlist, hfree hn]
  · obtain ⟨hin, hne⟩ := (hmem x).1 hx
    exact hup x hne (hwait x hin)

/-- R163, R164: the clock passes on to the first port that waits, or becomes free; the port that it leaves may have gone
DOWN. -/
theorem Clock.lawfulAt.passedOn (h : c.lawfulAt up) (hup : ∀ q ∈ c.waitList, up q → up' q) :
    c.passOn.lawfulAt up' := by
  obtain ⟨⟨hinst, hr, hr', hl, hl', hpace, -, hpacing, -⟩, hnd, -, -, -, hwait⟩ := h
  unfold Clock.passOn
  split
  · rename_i hnil
    exact ⟨⟨hinst, hr, hr', hl, hl', hpace, by simp, hpacing, by simp⟩, by simp [hnil]⟩
  · rename_i q rest hcons
    rw [hcons] at hnd hup hwait
    refine ⟨⟨hinst, hr, hr', hl, hl', hpace, ⟨fun _ => rfl, fun _ => rfl⟩, hpacing, ?_⟩, ?_⟩
    · simp only [Clock.startLease, Option.mem_some_iff, forall_eq']
      omega
    · have hleft : ∀ x ∈ q :: rest, up' x := fun x hx => hup x hx (hwait x hx)
      obtain ⟨hout, hnd⟩ := List.nodup_cons.1 hnd
      simpa [Clock.startLease, hout, hnd] using hleft

/-- R160: the clock stops where it stands, or at another instant of the grid. -/
theorem Clock.lawfulAt.halted (h : c.lawfulAt up) : c.halt.lawfulAt up := by
  obtain ⟨⟨hinst, hr, hr', hl, hl', -, hlease, -, hleft⟩, hroles⟩ := h
  exact ⟨⟨hinst, hr, hr', hl, hl', by simp [Clock.halt], hlease, by simp [Clock.halt], hleft⟩, hroles⟩

/-- R160: the clock runs, and its next millisecond begins. -/
theorem Clock.lawfulAt.started (h : c.lawfulAt up) : c.start.lawfulAt up := by
  obtain ⟨⟨hinst, hr, hr', hl, hl', -, hlease, -, hleft⟩, hroles⟩ := h
  exact ⟨⟨hinst, hr, hr', hl, hl', by simp [Clock.start], hlease, by simp [Clock.start], hleft⟩, hroles⟩

/-- R159, R166: the clock stands at another instant of the grid. -/
theorem Clock.lawfulAt.setInstant (h : c.lawfulAt up) {t : Nat} (ht : t ≤ Config.maxGrid) :
    Clock.lawfulAt up { c with instant := t } := by
  obtain ⟨⟨-, hrest⟩, hroles⟩ := h
  exact ⟨⟨ht, hrest⟩, hroles⟩

/-- R165: the clock takes another rate. -/
theorem Clock.lawfulAt.setRate (h : c.lawfulAt up) {r : Nat} (h1 : 1 ≤ r) (h2 : r ≤ 65535) :
    Clock.lawfulAt up { c with rate := r } := by
  obtain ⟨⟨hinst, -, -, hrest⟩, hroles⟩ := h
  exact ⟨⟨hinst, h1, h2, hrest⟩, hroles⟩

/-- R165: the clock takes another lease period. -/
theorem Clock.lawfulAt.setLease (h : c.lawfulAt up) {n : Nat} (h1 : 1 ≤ n) (h2 : n ≤ 3600) :
    Clock.lawfulAt up { c with leasePeriod := n } := by
  obtain ⟨⟨hinst, hr, hr', -, -, hrest⟩, hroles⟩ := h
  exact ⟨⟨hinst, hr, hr', h1, h2, hrest⟩, hroles⟩

/-- R164: wall time passes at the lease timer. -/
theorem Clock.lawfulAt.spent (h : c.lawfulAt up) (ms : Nat) : (c.spend ms).lawfulAt up := by
  obtain ⟨⟨hinst, hr, hr', hl, hl', hpace, hlease, hpacing, hleft⟩, hroles⟩ := h
  refine ⟨⟨hinst, hr, hr', hl, hl', hpace, by simpa [Clock.spend] using hlease, hpacing, fun t ht => ?_⟩, hroles⟩
  obtain ⟨u, hu, rfl⟩ := Option.mem_map.1 ht
  exact (Nat.sub_le u ms).trans (hleft u hu)

/-- R160: wall time passes at the pacing timer. -/
theorem Clock.lawfulAt.paced (h : c.lawfulAt up) (ms : Nat) :
    Clock.lawfulAt up { c with pacing := c.pacing.map fun t => t - ms } := by
  obtain ⟨⟨hinst, hr, hr', hl, hl', hpace, hlease, hpacing, hleft⟩, hroles⟩ := h
  refine ⟨⟨hinst, hr, hr', hl, hl', by simpa using hpace, hlease, fun t ht => ?_, hleft⟩, hroles⟩
  obtain ⟨u, hu, rfl⟩ := Option.mem_map.1 ht
  exact (Nat.sub_le u ms).trans (hpacing u hu)

/-- R160: an advance of a RUNNING clock moves its instant, and stops it at the end of the grid. -/
theorem Clock.lawfulAt.advanced (h : c.lawfulAt up) (hrun : c.run = .running) : c.advance.lawfulAt up := by
  by_cases hgrid : c.instant + c.rate ≤ 2 ^ 40 - 1
  · have hstart : c.start = { c with pacing := some 1 } := by rw [Clock.start, ← hrun]
    rw [advance_within hgrid]
    exact (hstart ▸ h.started).setInstant hgrid
  · rw [advance_limit (not_le.1 hgrid)]
    exact (h.setInstant le_rfl).halted

/-- R161, R183: no port has a role. -/
theorem Clock.lawfulAt.noRoles (h : c.lawfulAt up) : c.noRoles.lawfulAt up' := by
  obtain ⟨⟨hinst, hr, hr', hl, hl', hpace, -, hpacing, -⟩, -⟩ := h
  exact ⟨⟨hinst, hr, hr', hl, hl', hpace, by simp [Clock.noRoles], hpacing, by simp [Clock.noRoles]⟩,
    by simp [Clock.noRoles]⟩

end

end Sys2Proof.Machine
end

section
/-!
PROOF. The commands that leave the clock alone, and every port UP that is UP.
-/

namespace Sys2Proof.Machine

open Sys2Proof

/-! ### What leaves the clock alone -/

/-- From `s` to `t` the clock is the same, and no port has gone DOWN. -/
def SameClock (s t : State) : Prop := t.clock = s.clock ∧ ∀ p, s.upAt p → t.upAt p

theorem SameClock.refl (s : State) : SameClock s s := ⟨rfl, fun _ => id⟩

theorem SameClock.trans {a b c : State} (h : SameClock a b) (g : SameClock b c) : SameClock a c :=
  ⟨g.1.trans h.1, fun p hp => g.2 p (h.2 p hp)⟩

theorem SameClock.clockLaw {s t : State} (h : SameClock s t) (hs : ClockLaw s) : ClockLaw t :=
  clockLaw_of_up h.2 (h.1.symm ▸ hs)

/-- A port that has only taken notices is as UP as before. -/
theorem Kept.upAt {s t : State} (h : Kept s t) (p : PortId) (hp : s.upAt p) : t.upAt p :=
  ((h.2.2.2 p).up).trans hp

theorem Kept.sameClock {s t : State} (h : Kept s t) (e : t.clock = s.clock) : SameClock s t := ⟨e, h.upAt⟩

/-- A change of the live part in which ports only take notices. -/
theorem SameClock.withLive {s : State} {l : Live} (h : Grows s.live l) : SameClock s (s.withLive l) :=
  (Kept.withLive h).sameClock rfl

/-- A port becomes another that is as UP. -/
theorem SameClock.setPort {s : State} {l : Live} {p : PortId} {x : Port} (hl : l.ports = (s.live.setPort p x).ports)
    (h : s.upAt p → x.up = true) : SameClock s (s.withLive l) := by
  refine ⟨rfl, fun q hq => ?_⟩
  have hport : l.port q = if p = q then x else s.live.port q := by
    rw [← port_setPort]
    exact congrArg (fun v : Vector Port 4 => v.get q) hl
  show (l.port q).up = true
  rw [hport]
  split_ifs with e
  · exact h (e ▸ hq)
  · exact hq

theorem popRequest_sameClock (s : State) (p : PortId) : SameClock s (s.popRequest p) := SameClock.setPort rfl id

theorem respond_sameClock (s : State) (p : PortId) (t a : Nat) (r : Response) : SameClock s (s.respond p t a r) :=
  SameClock.setPort rfl id

/-- An event that acts while RESET_N is high, where it acts at all. -/
theorem event_sameClock {s t : State} (idle : Bool) (h : SameClock s t) :
    SameClock s (if idle = true then s else t) := by
  split_ifs
  · exact SameClock.refl s
  · exact h

theorem takeRequest_sameClock {rule : List Byte → State → Response × State} (h : ∀ b u, SameClock u (rule b u).2)
    (p : PortId) (code : Nat) (s : State) : SameClock s (takeRequest p code rule s) := by
  rcases takeRequest_cases p code rule s with e | ⟨tag, body, -, e⟩ <;> rw [e]
  · exact SameClock.refl s
  · exact ((popRequest_sameClock s p).trans (h body _)).trans (respond_sameClock _ _ _ _ _)

/-- A request whose rule changes nothing. -/
theorem takeRequest_same_sameClock {rule : List Byte → State → Response × State} (h : ∀ b u, (rule b u).2 = u)
    (p : PortId) (code : Nat) (s : State) : SameClock s (takeRequest p code rule s) :=
  takeRequest_sameClock (fun b u => by rw [h b u]; exact SameClock.refl u) p code s

/-- A request whose rule makes the ports take notices at most. -/
theorem takeRequest_kept_sameClock {rule : List Byte → State → Response × State} (hk : ∀ b u, Kept u (rule b u).2)
    (hc : ∀ b u, (rule b u).2.clock = u.clock) (p : PortId) (code : Nat) (s : State) :
    SameClock s (takeRequest p code rule s) :=
  takeRequest_sameClock (fun b u => (hk b u).sameClock (hc b u)) p code s

/-- A request on a cursor, whose rule changes the live part alone and makes the ports take notices at most. -/
theorem cursorRequest_sameClock {rule : Slot → Cursor → State → Response × State} (hl : LiveOnly rule)
    (hk : ∀ k c s, s.live.cursor k = some c → Kept s (rule k c s).2) (p : PortId) (slot : Nat) (b : List Byte)
    (s : State) : SameClock s (cursorRequest p slot rule b s).2 := by
  refine (cursorRequest_kept p slot hk b s).sameClock ?_
  rcases cursorRequest_cases p slot rule b s with ⟨code, e⟩ | ⟨k, c, -, -, e⟩ <;> rw [e]
  obtain ⟨l, hl⟩ := hl k c s
  rw [hl, clock_withLive]

theorem takeCursorRequest_sameClock {rule : Slot → Cursor → State → Response × State} (hl : LiveOnly rule)
    (hk : ∀ k c s, s.live.cursor k = some c → Kept s (rule k c s).2) (p : PortId) (code slot : Nat) (s : State) :
    SameClock s (takeRequest p code (cursorRequest p slot rule) s) :=
  takeRequest_sameClock (cursorRequest_sameClock hl hk p slot) p code s

theorem foldl_clock {α : Type} {f : State → α → State} (h : ∀ s x, (f s x).clock = s.clock) (xs : List α) (s : State) :
    (xs.foldl f s).clock = s.clock := by
  induction xs generalizing s with
  | nil => rfl
  | cons x xs ih => exact (ih _).trans (h s x)

/-! ### The requests and events that leave the clock alone -/

theorem beginCollection_clock (b : List Byte) (s : State) : (beginCollection b s).2.clock = s.clock := by
  unfold beginCollection
  split_ifs
  · rfl
  · split <;> rfl

theorem handOut_clock (r : Option Nat) (ts : List Touched) (s : State) : (handOut r ts s).clock = s.clock :=
  clock_withLive s _

theorem sealCursors_clock (s : State) : (sealCursors s).clock = s.clock := clock_withLive s _

theorem notifyStore_clock (s : State) : (notifyStore s).clock = s.clock := rfl

theorem sealHistory_clock (s : State) : (sealHistory s).clock = s.clock := by
  unfold sealHistory
  rw [sealCursors_clock, handOut_clock, notifyStore_clock]
  exact foldl_clock (f := sealContext s _ _) (fun _ _ => rfl) _ _

theorem sealRequest_clock (b : List Byte) (s : State) : (sealRequest b s).2.clock = s.clock := by
  unfold sealRequest
  split_ifs
  · rfl
  · rfl
  · exact sealHistory_clock s

theorem clearRequest_clock (b : List Byte) (s : State) : (clearRequest b s).2.clock = s.clock := by
  unfold clearRequest
  split_ifs
  · rfl
  · exact foldl_clock (f := clearSegment) (fun _ _ => rfl) _ _

theorem tableWrite_clock (w : Tables → Option (RespBody × Tables)) (b : List Byte) (s : State) :
    (tableWrite w b s).2.clock = s.clock := by
  rcases tableWrite_cases w b s with h | ⟨t, h⟩ <;> rw [h]

theorem setEventZero_clock (t : Nat) (b : List Byte) (s : State) : (setEventZero t b s).2.clock = s.clock := by
  unfold setEventZero
  split_ifs <;> rfl

theorem loadSegment_clock (p : PortId) (b : List Byte) (s : State) : (loadSegment p b s).2.clock = s.clock := by
  unfold loadSegment joinQueue
  repeat' split
  all_goals rfl

theorem cancelSegment_clock (p : PortId) (r q : Nat) (b : List Byte) (s : State) :
    (cancelSegment p r q b s).2.clock = s.clock := by
  unfold cancelSegment cancelAt
  repeat' split
  all_goals rfl

theorem setAttentionMask_clock (b : List Byte) (s : State) : (setAttentionMask b s).2.clock = s.clock := by
  unfold setAttentionMask
  split <;> rfl

theorem clearCauses_clock (b : List Byte) (s : State) : (clearCauses b s).2.clock = s.clock := by
  unfold clearCauses
  split <;> rfl

theorem subscribe_sameClock (p : PortId) (set : Byte) (b : List Byte) (s : State) :
    SameClock s (subscribe p set b s).2 := by
  unfold subscribe
  split
  · exact SameClock.refl s
  · exact SameClock.setPort rfl id

theorem openCursor_sameClock (p : PortId) (b : List Byte) (s : State) : SameClock s (openCursor p b s).2 := by
  unfold openCursor
  split_ifs
  · exact SameClock.refl s
  · split <;> exact SameClock.refl s

theorem closeCursor_sameClock (p : PortId) (slot : Nat) (b : List Byte) (s : State) :
    SameClock s (cursorRequest p slot closeCursor b s).2 := by
  rcases cursorRequest_cases p slot closeCursor b s with ⟨code, e⟩ | ⟨k, c, -, -, e⟩ <;> rw [e] <;>
    exact SameClock.refl s

theorem frameError_sameClock (p : PortId) (s : State) : ∃ t, execFrameError p s = .next t ∧ SameClock s t := by
  refine ⟨_, rfl, ?_⟩
  split
  · split_ifs
    · exact (popRequest_sameClock s p).trans (respond_sameClock _ _ _ _ _)
    · exact SameClock.refl s
  · exact SameClock.refl s

theorem unknownRequest_sameClock (p : PortId) (s : State) :
    ∃ t, execUnknownRequest p s = .next t ∧ SameClock s t := by
  refine ⟨_, rfl, ?_⟩
  split
  · split_ifs
    · exact (popRequest_sameClock s p).trans (respond_sameClock _ _ _ _ _)
    · exact SameClock.refl s
  · exact SameClock.refl s

theorem popNotice_up (p : Port) : p.popNotice.up = p.up := by
  unfold Port.popNotice
  dsimp only
  split_ifs <;> rfl

/-- R137, R177: an item leaves a PUSH queue, and a waiting item is written. -/
theorem sendItem_sameClock (p : PortId) (k : Slot) (c : Cursor) (it : Item) (rest : List Item) (s : State) :
    SameClock s (sendItem p k c it rest s) := by
  have resumed : ∀ (l : Live) (x : Port), l.ports = (s.live.setPort p x).ports → x.up = (s.live.port p).up →
      SameClock s (s.withLive (resumeWaiting s.env k l)) := fun l x hl hx =>
    (SameClock.setPort hl hx.trans).trans (SameClock.withLive (s := s.withLive l) (resumeWaiting_grows s.env k l))
  exact resumed _ _ rfl rfl

theorem transmit_sameClock (p : PortId) (s : State) : SameClock s (transmit p s) := by
  have response : ∀ h, SameClock s (sendResponse p h s) := fun _ => SameClock.setPort rfl id
  have notice : ∀ n, SameClock s (sendNotice p n s) := fun _ =>
    SameClock.setPort rfl fun hup => (popNotice_up _).trans hup
  unfold transmit
  split
  · split_ifs
    · exact response _
    · exact notice _
  · exact response _
  · exact notice _
  · unfold sendDelivery
    split
    · exact SameClock.refl s
    · split
      · exact SameClock.refl s
      · split
        · exact SameClock.refl s
        · exact sendItem_sameClock p _ _ _ _ s

theorem linkUp_sameClock (p : PortId) (s : State) : ∃ t, execLinkUp p s = .next t ∧ SameClock s t :=
  ⟨_, rfl, event_sameClock _ (SameClock.setPort rfl fun _ => rfl)⟩

theorem segmentCommit_sameClock (s : State) : ∃ t, execSegmentCommit s = .next t ∧ SameClock s t := by
  refine ⟨_, rfl, event_sameClock _ ?_⟩
  split
  · refine (handOver_kept _ _ s).sameClock ?_
    unfold handOver
    split_ifs <;> rfl
  · exact SameClock.refl s

theorem segmentFailure_sameClock (s : State) : ∃ t, execSegmentFailure s = .next t ∧ SameClock s t := by
  refine ⟨_, rfl, event_sameClock _ ?_⟩
  split
  · exact (failSegment_kept _ _ _ s).sameClock rfl
  · exact SameClock.refl s

/-- The commands that may write the clock, or take a link DOWN. -/
def WritesClock : Instr → Bool
  | .powerOn | .resetAssert | .resetRelease | .linkDown _ | .takeClock .. | .releaseClock _ | .clockRun _
  | .clockPause _ | .clockSet .. | .clockRate .. | .setLease .. | .clockAdvance | .leaseExpiry => true
  | _ => false

/-- Every other command leaves them. -/
theorem exec_sameClock {i : Instr} (hi : WritesClock i = false) (s : State) :
    ∃ t, exec i s = .next t ∧ SameClock s t := by
  cases i with
  | powerOn | resetAssert | resetRelease | linkDown | takeClock | releaseClock | clockRun | clockPause | clockSet
  | clockRate | setLease | clockAdvance | leaseExpiry => cases hi
  | linkUp p => exact linkUp_sameClock p s
  | markInEdge => exact ⟨_, rfl, event_sameClock _ (SameClock.withLive (triggerEvent_grows s.env .line s.live))⟩
  | frameReceive p bytes => exact ⟨_, rfl, event_sameClock _ (SameClock.setPort rfl id)⟩
  | frameError p => exact frameError_sameClock p s
  | unknownRequest p => exact unknownRequest_sameClock p s
  | frameTransmit p => exact ⟨_, rfl, event_sameClock _ (transmit_sameClock p s)⟩
  | describe p => exact ⟨_, rfl, takeRequest_same_sameClock (fun _ _ => rfl) p 1 s⟩
  | subscribe p set => exact ⟨_, rfl, takeRequest_sameClock (subscribe_sameClock p set) p 2 s⟩
  | beginCollection p => exact ⟨_, rfl, takeRequest_kept_sameClock beginCollection_kept beginCollection_clock p 3 s⟩
  | sealHistory p => exact ⟨_, rfl, takeRequest_kept_sameClock sealRequest_kept sealRequest_clock p 4 s⟩
  | clearHistory p => exact ⟨_, rfl, takeRequest_kept_sameClock clearRequest_kept clearRequest_clock p 5 s⟩
  | readRecords p st e n z => exact ⟨_, rfl, takeRequest_same_sameClock (readRecords_same st e n z) p 6 s⟩
  | readGaps p a n r => exact ⟨_, rfl, takeRequest_same_sameClock (readGaps_same a n r) p 7 s⟩
  | setPoint p first xs => exact ⟨_, rfl, takeRequest_kept_sameClock (tableWrite_kept _) (tableWrite_clock _) p 8 s⟩
  | setRecorder p r e u o d f =>
    exact ⟨_, rfl, takeRequest_kept_sameClock (tableWrite_kept _) (tableWrite_clock _) p 9 s⟩
  | setMapBlock p r b x => exact ⟨_, rfl, takeRequest_kept_sameClock (tableWrite_kept _) (tableWrite_clock _) p 10 s⟩
  | setStudy p e w t v => exact ⟨_, rfl, takeRequest_kept_sameClock (tableWrite_kept _) (tableWrite_clock _) p 11 s⟩
  | setEventZero p t =>
    exact ⟨_, rfl, takeRequest_kept_sameClock (setEventZero_kept t) (setEventZero_clock t) p 12 s⟩
  | loadSegment p => exact ⟨_, rfl, takeRequest_kept_sameClock (loadSegment_kept p) (loadSegment_clock p) p 13 s⟩
  | cancelSegment p r q =>
    exact ⟨_, rfl, takeRequest_kept_sameClock (cancelSegment_kept p r q) (cancelSegment_clock p r q) p 14 s⟩
  | readRecorder p r => exact ⟨_, rfl, takeRequest_same_sameClock (readRecorder_same r) p 15 s⟩
  | setAttentionMask p =>
    exact ⟨_, rfl, takeRequest_kept_sameClock setAttentionMask_kept setAttentionMask_clock p 16 s⟩
  | clearCauses p => exact ⟨_, rfl, takeRequest_kept_sameClock clearCauses_kept clearCauses_clock p 17 s⟩
  | openCursor p => exact ⟨_, rfl, takeRequest_sameClock (openCursor_sameClock p) p 18 s⟩
  | readCursor p slot => exact ⟨_, rfl, takeRequest_same_sameClock (readCursor_same slot) p 19 s⟩
  | setCursor p slot x =>
    exact ⟨_, rfl, takeRequest_sameClock
      (fun b => cursorRequest_sameClock (setCursor_liveOnly x b) (setCursor_kept x b) p slot b) p _ s⟩
  | seek p slot t ch => exact ⟨_, rfl, takeCursorRequest_sameClock (seek_liveOnly t ch) (seek_kept t ch) p _ slot s⟩
  | play p slot re => exact ⟨_, rfl, takeCursorRequest_sameClock (play_liveOnly re) (play_kept re) p _ slot s⟩
  | step p slot n =>
    exact ⟨_, rfl, takeCursorRequest_sameClock (stepRequest_liveOnly n) (stepRequest_kept n) p _ slot s⟩
  | hold p slot => exact ⟨_, rfl, takeCursorRequest_sameClock hold_liveOnly hold_kept p _ slot s⟩
  | stop p slot => exact ⟨_, rfl, takeCursorRequest_sameClock stop_liveOnly stop_kept p _ slot s⟩
  | arm p slot => exact ⟨_, rfl, takeCursorRequest_sameClock arm_liveOnly arm_kept p _ slot s⟩
  | snapshot p slot a b st =>
    exact ⟨_, rfl, takeCursorRequest_sameClock (snapshot_liveOnly a b st) (snapshot_kept a b st) p _ slot s⟩
  | closeCursor p slot => exact ⟨_, rfl, takeRequest_sameClock (closeCursor_sameClock p slot) p _ s⟩
  | fetch p slot => exact ⟨_, rfl, takeCursorRequest_sameClock fetch_liveOnly fetch_kept p _ slot s⟩
  | probe p slot tag pt t =>
    exact ⟨_, rfl, takeCursorRequest_sameClock (probeRequest_liveOnly tag pt t) (probeRequest_kept tag pt t) p _ slot s⟩
  | setWatch p slot w args a =>
    exact ⟨_, rfl, takeCursorRequest_sameClock (setWatch_liveOnly w args a) (setWatch_kept w args a) p _ slot s⟩
  | clearWatch p slot w =>
    exact ⟨_, rfl, takeCursorRequest_sameClock (clearWatch_liveOnly w) (clearWatch_kept w) p _ slot s⟩
  | readWatches p slot ws =>
    exact ⟨_, rfl, takeCursorRequest_sameClock (readWatches_liveOnly ws) (readWatches_kept ws) p _ slot s⟩
  | readTrail p slot =>
    exact ⟨_, rfl, takeCursorRequest_sameClock readTrail_liveOnly (fun _ _ u _ => Kept.refl u) p _ slot s⟩
  | readClock p => exact ⟨_, rfl, takeRequest_same_sameClock (fun _ _ => rfl) p 37 s⟩
  | segmentCommit => exact segmentCommit_sameClock s
  | segmentFailure => exact segmentFailure_sameClock s
  | stepRead k => exact ⟨_, rfl, event_sameClock _ (SameClock.withLive (stepRead_grows s.env k s.live))⟩
  | rebuildRead k => exact ⟨_, rfl, event_sameClock _ (SameClock.withLive (rebuildRead_grows s.env k s.live))⟩
  | probeRead k => exact ⟨_, rfl, event_sameClock _ (SameClock.withLive (probeRead_grows s.env k s.live))⟩
  | itemWritten k => exact ⟨_, rfl, event_sameClock _ (SameClock.withLive (itemWritten_grows s.env k s.live))⟩

end Sys2Proof.Machine
end

section
/-!
PROOF. Every step keeps the laws of the Common Clock (R159 to R164): O58.
-/

namespace Sys2Proof.Machine

open Sys2Proof

/-! ### The requests of the clock -/

/-- R176: a request whose rule keeps the law of the clock for a port that is UP. -/
theorem takeRequest_clockLaw {rule : List Byte → State → Response × State} {p : PortId}
    (h : ∀ b u, u.upAt p → ClockLaw u → ClockLaw (rule b u).2) (code : Nat) {s : State} (hs : ClockLaw s) :
    ClockLaw (takeRequest p code rule s) := by
  rcases takeRequest_cases p code rule s with e | ⟨tag, body, htaken, e⟩ <;> rw [e]
  · exact hs
  · have hpop := popRequest_sameClock s p
    exact (respond_sameClock _ _ _ _ _).clockLaw (h body _ (hpop.2 p (taken_port htaken).2.1) (hpop.clockLaw hs))

/-- What the laws ask of an operation in which the ports take notices at most. -/
theorem Kept.clockLaw {s t : State} (hk : Kept s t) (h : t.clock.lawfulAt s.upAt) : ClockLaw t :=
  clockLaw_of_up hk.upAt h

theorem clock_passClock (l : Option PortId) (s : State) : (passClock l s).clock = s.clock.passOn := by
  unfold passClock notifyClock notifyGranted notifyLost
  repeat' split
  all_goals rfl

theorem passClock_clockLaw (l : Option PortId) {s : State} (hs : ClockLaw s) : ClockLaw (passClock l s) := by
  refine (passClock_kept l s).clockLaw ?_
  rw [clock_passClock]
  exact Clock.lawfulAt.passedOn hs fun _ _ => id

theorem takeClock_clockLaw {p : PortId} (w : Bool) (b : List Byte) {s : State} (hup : s.upAt p) (hs : ClockLaw s) :
    ClockLaw (takeClock p w b s).2 := by
  refine (takeClock_kept p w b s).clockLaw ?_
  unfold takeClock
  dsimp only
  split
  · rename_i hfree
    exact Clock.lawfulAt.taken hs hfree hup
  · rename_i q hq
    split_ifs with h1 h2 h3
    · exact Clock.lawfulAt.startLease hs (by simp [hq])
    · exact hs
    · exact hs
    · exact Clock.lawfulAt.joined hs hq h1 h3 hup

theorem releaseClock_clockLaw (p : PortId) (b : List Byte) {s : State} (hs : ClockLaw s) :
    ClockLaw (releaseClock p b s).2 := by
  unfold releaseClock
  split_ifs with hctl
  · exact passClock_clockLaw none hs
  · exact Clock.lawfulAt.unlisted hs hctl fun _ _ => id
  · exact hs

theorem clockRun_clock (s : State) :
    (clockRun s).clock = s.clock ∨ (clockRun s).clock = s.clock.start := by
  unfold clockRun
  split
  · exact .inl rfl
  · split_ifs
    · exact .inr rfl
    · exact .inl rfl

theorem clockRun_clockLaw {s : State} (hs : ClockLaw s) : ClockLaw (clockRun s) := by
  refine (clockRun_kept s).clockLaw ?_
  rcases clockRun_clock s with e | e <;> rw [e]
  · exact hs
  · exact Clock.lawfulAt.started hs

theorem clockPause_clockLaw {s : State} (hs : ClockLaw s) : ClockLaw (clockPause s) := by
  refine (clockPause_kept s).clockLaw ?_
  unfold clockPause
  split
  · exact hs
  · exact Clock.lawfulAt.halted hs

theorem clockSet_clockLaw {t : Nat} (ht : t ≤ Config.maxGrid) {s : State} (hs : ClockLaw s) :
    ClockLaw (clockSet t s) :=
  (clockSet_kept t s).clockLaw (Clock.lawfulAt.setInstant hs ht)

theorem clockRate_clock (r : Nat) (s : State) : (clockRate r s).clock = { s.clock with rate := r } := by
  unfold clockRate
  dsimp only
  split_ifs <;> rfl

theorem clockRate_clockLaw {r : Nat} (h1 : 1 ≤ r) (h2 : r ≤ 65535) {s : State} (hs : ClockLaw s) :
    ClockLaw (clockRate r s) := by
  refine (clockRate_kept r s).clockLaw ?_
  rw [clockRate_clock]
  exact Clock.lawfulAt.setRate hs h1 h2

/-- R165: no control request changes the controlling port. -/
theorem controlRequest_clockLaw {p : PortId} {ok : Bool} {rule : State → State}
    (h : ok = true → ∀ s, ClockLaw s → ClockLaw (rule s)) (hc : ∀ s, (rule s).clock.controller = s.clock.controller)
    (b : List Byte) {s : State} (hs : ClockLaw s) : ClockLaw (controlRequest p ok rule b s).2 := by
  unfold controlRequest
  split_ifs with hctl hok
  · exact hs
  · exact Clock.lawfulAt.startLease (h hok s hs) (by rw [hc, not_not.1 hctl]; simp)
  · exact hs

theorem takeControlRequest_clockLaw (p : PortId) {ok : Bool} {rule : State → State}
    (h : ok = true → ∀ s, ClockLaw s → ClockLaw (rule s)) (hc : ∀ s, (rule s).clock.controller = s.clock.controller)
    (code : Nat) {s : State} (hs : ClockLaw s) : ClockLaw (takeRequest p code (controlRequest p ok rule) s) :=
  takeRequest_clockLaw (fun b _ _ hu => controlRequest_clockLaw h hc b hu) code hs

/-! ### The timers, the lines and the links -/

theorem clockAdvance_clockLaw {s : State} (hrun : s.clock.run = .running) (hs : ClockLaw s) :
    ClockLaw (clockAdvance s) := by
  refine (clockAdvance_kept s).clockLaw ?_
  rw [(clockAdvance_keeps s).1]
  exact Clock.lawfulAt.advanced hs hrun

theorem idle_clockLaw {s : State} (hs : ClockLaw s) : ClockLaw (idle s) := by
  unfold idle
  split_ifs with hlow hpace hlease
  · exact hs
  · obtain ⟨⟨-, -, -, -, -, hrun, -⟩, -⟩ := id hs
    exact clockAdvance_clockLaw (hrun.1 (by simp [hpace])) hs
  · exact passClock_clockLaw _ hs
  · exact Clock.lawfulAt.paced (Clock.lawfulAt.spent hs 1) 1

theorem execClockAdvance_clockLaw {s : State} (hs : ClockLaw s) :
    ∃ t, execClockAdvance s = .next t ∧ ClockLaw t := by
  refine ⟨_, rfl, ?_⟩
  split_ifs with h
  · exact hs
  · have hrun : s.clock.run = .running := by
      cases hr : s.clock.run with
      | running => rfl
      | stopped => exact absurd (by simp [hr]) h
    exact clockAdvance_clockLaw (s := { s with clock := _ }) hrun (Clock.lawfulAt.spent hs _)

theorem execLeaseExpiry_clockLaw {s : State} (hs : ClockLaw s) : ∃ t, execLeaseExpiry s = .next t ∧ ClockLaw t := by
  refine ⟨_, rfl, ?_⟩
  split_ifs
  · exact hs
  · exact passClock_clockLaw _ hs

theorem reset_clockLaw (pending : List Instr) : ClockLaw { State.reset with pending := pending } := by
  simp [ClockLaw, Clock.lawful, State.reset, Clock.reset]

/-- R180, R164: the port that goes DOWN ends its role, whatever becomes of its cursors. -/
theorem linkDown_clockLaw (p : PortId) {s : State} (hs : ClockLaw s) :
    ∃ t, execLinkDown p s = .next t ∧ ClockLaw t := by
  refine ⟨_, rfl, ?_⟩
  split_ifs
  · exact hs
  · generalize hd : s.withLive (closeOwned p (s.live.setPort p Port.reset)) = d
    have hclock : d.clock = s.clock := by rw [← hd]; rfl
    have hother : ∀ q, q ≠ p → s.upAt q → d.upAt q := fun q hq hup => by
      subst hd
      show ((s.live.setPort p Port.reset).port q).up = true
      rw [port_setPort_ne _ _ (Ne.symm hq)]
      exact hup
    refine clockLaw_of_up (endClockRole_kept p d).upAt ?_
    unfold endClockRole
    split_ifs with hctl <;> rw [hclock] at hctl
    · rw [clock_passClock, hclock]
      obtain ⟨-, -, hapart, -⟩ := id hs
      exact Clock.lawfulAt.passedOn hs fun q hq => hother q fun e => hapart p hctl (e ▸ hq)
    · show (d.clock.unlist p).lawfulAt d.upAt
      rw [hclock]
      exact Clock.lawfulAt.unlisted hs hctl hother

/-! ### Every step -/

/-- Every command keeps the laws. -/
theorem exec_clockLaw (i : Instr) {s : State} (hs : ClockLaw s) : ∃ t, exec i s = .next t ∧ ClockLaw t := by
  by_cases hw : WritesClock i = true
  · cases i with
    | powerOn => exact ⟨_, rfl, reset_clockLaw _⟩
    | resetAssert => exact ⟨_, rfl, Clock.lawfulAt.noRoles hs⟩
    | resetRelease =>
      refine ⟨_, rfl, ?_⟩
      split_ifs
      · exact reset_clockLaw _
      · exact hs
    | linkDown p => exact linkDown_clockLaw p hs
    | takeClock p w => exact ⟨_, rfl, takeRequest_clockLaw (fun b _ hup hu => takeClock_clockLaw w b hup hu) 35 hs⟩
    | releaseClock p => exact ⟨_, rfl, takeRequest_clockLaw (fun b _ _ hu => releaseClock_clockLaw p b hu) 36 hs⟩
    | clockRun p =>
      refine ⟨_, rfl, takeControlRequest_clockLaw p (fun _ _ => clockRun_clockLaw) (fun u => ?_) 38 hs⟩
      exact (clockRun_clock u).elim (congrArg Clock.controller) (congrArg Clock.controller)
    | clockPause p =>
      refine ⟨_, rfl, takeControlRequest_clockLaw p (fun _ _ => clockPause_clockLaw) (fun u => ?_) 39 hs⟩
      unfold clockPause
      split <;> rfl
    | clockSet p t =>
      exact ⟨_, rfl, takeControlRequest_clockLaw p (fun h _ => clockSet_clockLaw (of_decide_eq_true h))
        (fun _ => rfl) 40 hs⟩
    | clockRate p r =>
      refine ⟨_, rfl, takeControlRequest_clockLaw p (fun h u hu => ?_) (fun u => ?_) 41 hs⟩
      · obtain ⟨h1, h2⟩ : 1 ≤ r ∧ r ≤ 65535 := by simpa using h
        exact clockRate_clockLaw h1 h2 hu
      · rw [clockRate_clock]
    | setLease p n =>
      refine ⟨_, rfl, takeControlRequest_clockLaw p (rule := setLease n) (fun h u hu => ?_) (fun _ => rfl) 42 hs⟩
      obtain ⟨h1, h2⟩ : 1 ≤ n ∧ n ≤ 3600 := by simpa using h
      exact Clock.lawfulAt.setLease hu h1 h2
    | clockAdvance => exact execClockAdvance_clockLaw hs
    | leaseExpiry => exact execLeaseExpiry_clockLaw hs
    | _ => cases hw
  · obtain ⟨t, he, hsame⟩ := exec_sameClock (by simpa using hw) s
    exact ⟨t, he, hsame.clockLaw hs⟩

/-- Settles O58: a role is given to an UP port that has none, and leaves with its link; each operation of the clock
keeps its ranges and its timers; every other command leaves the clock, and every port that is UP. -/
theorem stepKeepsClockLaw : Obligations.StepKeepsClockLaw := by
  unfold Obligations.StepKeepsClockLaw
  intro s t hs h
  exact step_keeps (P := ClockLaw) (fun _ _ hu => hu) (fun _ hu => idle_clockLaw hu)
    (fun i _ hu => exec_clockLaw i hu) hs h

end Sys2Proof.Machine
end

section
/-!
PROOF. Power-on and the two edges of RESET_N, and what stands while it is low (R174, R183): O4.
-/

namespace Sys2Proof.Machine

open Sys2Proof

/-! ### While RESET_N is low (R183) -/

/-- R176: a request command is the taking of its code at its port, with a rule of its own. -/
theorem exec_request {c : Instr} {p : PortId} {code : Nat} (h : requestOf c = some (p, code)) :
    ∃ rule, ∀ s, exec c s = .next (takeRequest p code rule s) := by
  cases c <;> cases h <;> exact ⟨_, fun _ => rfl⟩

/-- R183: no port takes a request while RESET_N is low. -/
theorem takeRequest_low {s : State} (h : s.resetLow = true) (p : PortId) (code : Nat)
    (rule : List Byte → State → Response × State) : takeRequest p code rule s = s :=
  takeRequest_waits (by simp [State.frontRequest, h]) rule

theorem exec_frameError_low {s : State} (h : s.resetLow = true) (p : PortId) : exec (.frameError p) s = .next s := by
  refine congrArg Host.Outcome.next ?_
  split
  · exact if_neg (by simp [State.mayTake, h])
  · rfl

theorem exec_unknownRequest_low {s : State} (h : s.resetLow = true) (p : PortId) :
    exec (.unknownRequest p) s = .next s := by
  refine congrArg Host.Outcome.next ?_
  split
  · exact if_neg (by simp [State.mayTake, h])
  · rfl

/-- R183: while RESET_N is low no command but its two edges and power-on has any effect. -/
theorem exec_low {c : Instr} {s : State} (h : s.resetLow = true) (hon : c ≠ .powerOn) (hfall : c ≠ .resetAssert)
    (hrise : c ≠ .resetRelease) : exec c s = .next s := by
  cases hreq : requestOf c with
  | some x =>
    obtain ⟨rule, hexec⟩ := exec_request (p := x.1) (code := x.2) hreq
    rw [hexec, takeRequest_low h]
  | none =>
    have idle : ∀ (b : Bool) (t : State), (if (s.resetLow || b) = true then s else t) = s := fun b t =>
      if_pos (by simp [h])
    cases c with
    | powerOn => exact absurd rfl hon
    | resetAssert => exact absurd rfl hfall
    | resetRelease => exact absurd rfl hrise
    | frameError p => exact exec_frameError_low h p
    | unknownRequest p => exact exec_unknownRequest_low h p
    | frameReceive p bytes => exact congrArg Host.Outcome.next (if_pos (by simp [h]))
    | markInEdge | segmentCommit | segmentFailure | stepRead | rebuildRead | probeRead | itemWritten =>
      exact congrArg Host.Outcome.next (if_pos h)
    | linkUp | linkDown | frameTransmit | clockAdvance | leaseExpiry => exact congrArg Host.Outcome.next (idle _ _)
    | _ => cases hreq

/-! ### The obligation -/

/-- Settles O4: the lines act on every block at once; each other command asks RESET_N first. -/
theorem resetLinesAct : Obligations.ResetLinesAct := by
  unfold Obligations.ResetLinesAct
  refine ⟨fun s => ⟨rfl, fun h => congrArg Host.Outcome.next (if_pos h)⟩, fun s => ?_,
    fun c s h hon hfall hrise => exec_low h hon hfall hrise⟩
  have hcursor : ∀ k : Slot, (s.live.cursors.map fun c => c.map Cursor.endOps).get k =
      (s.live.cursor k).map Cursor.endOps := fun k => vmap_get _ _ k
  refine ⟨_, rfl, rfl, rfl, rfl, rfl, fun p => vreplicate_get _ p, fun k hk => ?_, fun k c hk => ?_, rfl, rfl, rfl, rfl,
    rfl, rfl, rfl⟩
  · exact (hcursor k).trans (by rw [hk]; rfl)
  · exact (hcursor k).trans (by rw [hk]; rfl)

end Sys2Proof.Machine
end

section
/-!
PROOF. Links that come up and go down (R174, R180), and the role at the clock that ends with a link (R163, R164): O5.
-/

namespace Sys2Proof.Machine

open Sys2Proof

/-! ### The clock passes on (R163, R164, R167) -/

theorem passOn_free {c : Clock} (h : c.waitList = []) :
    c.passOn = { c with controller := none, leaseLeft := none } := by
  unfold Clock.passOn
  rw [h]

theorem passOn_promotes {c : Clock} {q : PortId} {rest : List PortId} (h : c.waitList = q :: rest) :
    c.passOn = { c with controller := some q, waitList := rest, leaseLeft := some (c.leasePeriod * 1000) } := by
  unfold Clock.passOn
  rw [h]
  rfl

/-- R163: the instant, the run state, the rate and the lease period stand whoever controls the clock. -/
theorem passOn_keeps (c : Clock) :
    c.passOn.instant = c.instant ∧ c.passOn.run = c.run ∧ c.passOn.rate = c.rate ∧
      c.passOn.leasePeriod = c.leasePeriod := by
  unfold Clock.passOn
  split <;> exact ⟨rfl, rfl, rfl, rfl⟩

/-- R167: the port promoted is told, and no other. -/
theorem port_notifyGranted (s : State) (q : PortId) :
    (notifyGranted s).live.port q =
      (s.live.port q).takes
        (if s.clock.controller = some q then
          [.clockGranted s.clock.instant s.clock.run s.clock.rate s.clock.leasePeriod] else []) := by
  unfold notifyGranted
  split
  · rename_i hnone
    rw [hnone]
    rfl
  · rename_i p hp
    rw [hp, live_withLive, port_notify]
    by_cases e : p = q
    · subst e
      rw [if_pos rfl, if_pos rfl]
      rfl
    · rw [if_neg e, if_neg fun h => e (Option.some.inj h)]
      rfl

/-- R163, R167: what a port is told where the clock passes on with no CLOCK_LOST. -/
def passedOnTold (c : Clock) (pt : Port) (q : PortId) : List Notice :=
  (if c.passOn.controller = some q then [.clockGranted c.instant c.run c.rate c.leasePeriod] else []) ++
    (if pt.subs.clock then
      [.clock .control c.instant c.run c.rate c.passOn.controller c.passOn.waitList.length] else [])

theorem clock_notifyGranted (s : State) : (notifyGranted s).clock = s.clock := by
  unfold notifyGranted
  split <;> rfl

theorem port_passClock (s : State) (q : PortId) :
    (passClock none s).live.port q = (s.live.port q).takes (passedOnTold s.clock (s.live.port q) q) := by
  let t : State := { s with clock := s.clock.passOn }
  obtain ⟨hinst, hrun, hrate, hperiod⟩ := passOn_keeps s.clock
  have hsubs : ((notifyGranted t).live.port q).subs = (s.live.port q).subs := ((notifyGranted_kept t).2.2.2 q).subs
  have hpass : passClock none s = notifyClock .control (notifyGranted t) := rfl
  rw [hpass, port_notifyClock, hsubs, port_notifyGranted, ← takes_append, clock_notifyGranted, Clock.notice]
  simp only [t, passedOnTold, hinst, hrun, hrate, hperiod]

/-! ### The role of a port ends (R164) -/

theorem endClockRole_leaves (p : PortId) (s : State) :
    (∀ k, (endClockRole p s).live.cursor k = s.live.cursor k) ∧
      (endClockRole p s).live.checkpoints = s.live.checkpoints ∧ (endClockRole p s).history = s.history ∧
      (endClockRole p s).tables = s.tables ∧ (endClockRole p s).contexts = s.contexts ∧
      (endClockRole p s).gaps = s.gaps ∧ (endClockRole p s).merge = s.merge ∧
      (endClockRole p s).resetLow = s.resetLow ∧ (endClockRole p s).pending = s.pending := by
  unfold endClockRole passClock notifyGranted
  repeat' split
  all_goals exact ⟨fun _ => rfl, rfl, rfl, rfl, rfl, rfl, rfl, rfl, rfl⟩

/-- R164: the controlling port goes: the clock passes on. -/
theorem endClockRole_controlling {p : PortId} {s : State} (h : s.clock.controller = some p) :
    endClockRole p s = passClock none s := if_pos h

/-- R164: any other port leaves the waiting list at most. -/
theorem endClockRole_other {p : PortId} {s : State} (h : s.clock.controller ≠ some p) :
    endClockRole p s = { s with clock := s.clock.unlist p } := if_neg h

/-! ### A link goes down (R180) -/

/-- R99, R105: a cursor of the port is closed. -/
theorem cursor_closeOwned (p : PortId) (l : Live) (k : Slot) :
    (closeOwned p l).cursor k = if (l.cursor k).elim false (fun x => x.owner == p) then none else l.cursor k :=
  vmap_get _ _ k

theorem closeOwned_owned {p : PortId} {l : Live} {k : Slot} {c : Cursor} (h : l.cursor k = some c) (ho : c.owner = p) :
    (closeOwned p l).cursor k = none := by simp [cursor_closeOwned, h, ho]

theorem closeOwned_other {p : PortId} {l : Live} {k : Slot} {c : Cursor} (h : l.cursor k = some c) (ho : c.owner ≠ p) :
    (closeOwned p l).cursor k = some c := by simp [cursor_closeOwned, h, ho]

theorem closeOwned_free {p : PortId} {l : Live} {k : Slot} (h : l.cursor k = none) :
    (closeOwned p l).cursor k = none := by simp [cursor_closeOwned, h]

/-- R174: a DOWN port takes no notice. -/
theorem Port.takes_down {x : Port} (h : x.up = false) (ns : List Notice) : x.takes ns = x := by
  induction ns with
  | nil => rfl
  | cons n ns ih => rw [takes_cons, push_down h, ih]

/-- R180: the port emptied and its cursors closed, with its role at the clock still to end. -/
def emptied (p : PortId) (s : State) : State := s.withLive (closeOwned p (s.live.setPort p Port.reset))

theorem exec_linkDown {s : State} {p : PortId} (hlow : s.resetLow = false) (hup : (s.live.port p).up = true) :
    exec (.linkDown p) s = .next (endClockRole p (emptied p s)) :=
  congrArg Host.Outcome.next (if_neg (by simp [hlow, hup]))

theorem emptied_port_same (p : PortId) (s : State) : (emptied p s).live.port p = Port.reset := port_setPort_same _ p _

theorem emptied_port_other {p q : PortId} (h : q ≠ p) (s : State) : (emptied p s).live.port q = s.live.port q :=
  port_setPort_ne _ _ (Ne.symm h)

/-- R180: the port that goes down keeps the values of Table 10-1, whatever is told at the clock. -/
theorem endClockRole_emptied_port (p : PortId) (s : State) :
    (endClockRole p (emptied p s)).live.port p = Port.reset := by
  by_cases hctl : s.clock.controller = some p
  · rw [endClockRole_controlling (s := emptied p s) hctl, port_passClock, emptied_port_same,
      Port.takes_down (x := Port.reset) rfl]
  · rw [endClockRole_other (s := emptied p s) hctl]
    exact emptied_port_same p s

/-- Settles O5: the port is emptied and its cursors close; then its role at the clock ends, by RELEASE_CLOCK's own rule
where it controls. -/
theorem linksComeAndGo : Obligations.LinksComeAndGo := by
  unfold Obligations.LinksComeAndGo
  refine ⟨fun s p hlow hdown => congrArg Host.Outcome.next (if_neg (by simp [hlow, hdown])), fun s p hlow hup => ?_⟩
  obtain ⟨hcursor, hcp, hhist, htab, hctx, hgaps, hmerge, hreset, hpend⟩ := endClockRole_leaves p (emptied p s)
  refine ⟨_, exec_linkDown hlow hup, endClockRole_emptied_port p s, fun k c hk ho => ?_, fun k c hk ho => ?_,
    fun k hk => ?_, fun hctl => ?_, fun hctl hw => ?_, fun q rest hctl hw => ?_, fun hctl q hq => ?_, hhist, htab, hctx,
    hgaps, hmerge, hcp, hreset, hpend⟩
  · exact (hcursor k).trans (closeOwned_owned (l := s.live.setPort p Port.reset) hk ho)
  · exact (hcursor k).trans (closeOwned_other (l := s.live.setPort p Port.reset) hk ho)
  · exact (hcursor k).trans (closeOwned_free (l := s.live.setPort p Port.reset) hk)
  · rw [endClockRole_other (s := emptied p s) hctl]
    exact ⟨rfl, fun q hq => emptied_port_other hq s⟩
  · rw [endClockRole_controlling (s := emptied p s) hctl, clock_passClock]
    exact passOn_free hw
  · rw [endClockRole_controlling (s := emptied p s) hctl, clock_passClock]
    exact passOn_promotes hw
  · rw [endClockRole_controlling (s := emptied p s) hctl, port_passClock, clock_passClock, emptied_port_other hq]
    rfl

end Sys2Proof.Machine
end

section
/-!
PROOF. The clock's arbiter: TAKE_CLOCK, RELEASE_CLOCK and READ_CLOCK (R162, R163, R168): O46.
-/

namespace Sys2Proof.Machine

open Sys2Proof

/-- R162, R168: the place of a port is counted from 1, at its first entry in the waiting list. -/
theorem place_eq {c : Clock} {p : PortId} {before after : List PortId} (h : c.waitList = before ++ p :: after)
    (hp : p ∉ before) : c.place p = before.length + 1 := by
  rw [Clock.place, h, List.idxOf_append_of_notMem hp, List.idxOf_cons_self]

/-! ### TAKE_CLOCK (R162) -/

section
variable {s : State} {p : PortId}

/-- R162: a free clock is granted. -/
theorem takeClock_granted (h : s.clock.controller = none) (wait : Bool) (body : List Byte) :
    takeClock p wait body s =
      ({ code := .done, body := .granted },
        notifyClock .control { s with clock := Clock.startLease { s.clock with controller := some p } }) := by
  simp [takeClock, h]

/-- R162: the controlling port renews its lease. -/
theorem takeClock_renewed (h : s.clock.controller = some p) (wait : Bool) (body : List Byte) :
    takeClock p wait body s =
      ({ code := .done, body := .renewed }, { s with clock := s.clock.startLease }) := by
  simp [takeClock, h]

variable {q : PortId} (h : s.clock.controller = some q) (hq : q ≠ p)
include h hq

/-- R162: another port that will not wait is refused. -/
theorem takeClock_busy (body : List Byte) : takeClock p false body s = (Response.plain .clockBusy, s) := by
  simp [takeClock, h, hq]

/-- R162: another port that will wait joins the waiting list. -/
theorem takeClock_joins (hp : p ∉ s.clock.waitList) (body : List Byte) :
    takeClock p true body s =
      ({ code := .queued, body := .place (s.clock.waitList.length + 1) },
        { s with clock := { s.clock with waitList := s.clock.waitList ++ [p] } }) := by
  simp [takeClock, h, hq, hp]

/-- R162: a port that waits already is told its place. -/
theorem takeClock_waits (hp : p ∈ s.clock.waitList) (body : List Byte) :
    takeClock p true body s = ({ code := .queued, body := .place (s.clock.place p) }, s) := by
  simp [takeClock, h, hq, hp]

end

/-! ### RELEASE_CLOCK (R163) -/

section
variable {s : State} {p : PortId}

theorem releaseClock_controlling (h : s.clock.controller = some p) (body : List Byte) :
    releaseClock p body s = (Response.done, passClock none s) := if_pos h

theorem releaseClock_waiting (h : s.clock.controller ≠ some p) (hp : p ∈ s.clock.waitList) (body : List Byte) :
    releaseClock p body s = (Response.done, { s with clock := s.clock.unlist p }) :=
  (if_neg h).trans (if_pos hp)

theorem releaseClock_notFound (h : s.clock.controller ≠ some p) (hp : p ∉ s.clock.waitList) (body : List Byte) :
    releaseClock p body s = (Response.plain .notFound, s) :=
  (if_neg h).trans (if_neg hp)

/-- R163: with no port waiting the clock becomes free. -/
theorem releaseClock_frees (h : s.clock.controller = some p) (hw : s.clock.waitList = []) (body : List Byte) :
    releaseClock p body s =
      (Response.done,
        notifyClock .control { s with clock := { s.clock with controller := none, leaseLeft := none } }) := by
  rw [releaseClock_controlling h, passClock, passOn_free hw]
  rfl

/-- R163, R167: the head of the waiting list is promoted, and told. -/
theorem releaseClock_promotes {q : PortId} {rest : List PortId} (h : s.clock.controller = some p)
    (hw : s.clock.waitList = q :: rest) (body : List Byte) :
    releaseClock p body s =
      (Response.done,
        notifyClock .control
          { s with
            clock :=
              { s.clock with
                controller := some q, waitList := rest, leaseLeft := some (s.clock.leasePeriod * 1000) }
            live := s.live.notify q
              (.clockGranted s.clock.instant s.clock.run s.clock.rate s.clock.leasePeriod) }) := by
  rw [releaseClock_controlling h, passClock, passOn_promotes hw]
  rfl

end

/-! ### READ_CLOCK (R168) -/

theorem role_controlling {c : Clock} {p : PortId} (h : c.controller = some p) : c.role p = .controlling := if_pos h

theorem role_waiting {c : Clock} {p : PortId} (h : c.controller ≠ some p) (hp : p ∈ c.waitList) :
    c.role p = .waiting (c.place p) := (if_neg h).trans (if_pos hp)

theorem role_none {c : Clock} {p : PortId} (h : c.controller ≠ some p) (hp : p ∉ c.waitList) : c.role p = .none :=
  (if_neg h).trans (if_neg hp)

/-! ### The obligation -/

/-- Settles O46: each rule decides by who controls the clock, and by whether the requester waits. -/
theorem clockArbitration : Obligations.ClockArbitration := by
  unfold Obligations.ClockArbitration
  refine ⟨fun s p tag body wait htaken => ?_, fun s p tag body htaken => ?_, fun s p tag body htaken => ?_⟩
  · have gives : ∀ {r : Response} {t : State}, takeClock p wait body (s.popRequest p) = (r, t) →
        exec (.takeClock p wait) s = .next (answered s p tag r t) :=
      fun h => congrArg Host.Outcome.next (takeRequest_gives htaken h)
    refine ⟨fun h => gives (takeClock_granted (s := s.popRequest p) h wait body),
      fun h => gives (takeClock_renewed (s := s.popRequest p) h wait body), fun q h hq => ⟨?_, ?_, ?_⟩⟩
    · rintro rfl
      exact gives (takeClock_busy (s := s.popRequest p) h hq body)
    · rintro rfl hp
      exact gives (takeClock_joins (s := s.popRequest p) h hq hp body)
    · rintro before after rfl hw hp
      have hmem : p ∈ s.clock.waitList := by simp [hw]
      rw [gives (takeClock_waits (s := s.popRequest p) h hq hmem body), clock_popRequest, place_eq hw hp]
      rfl
  · have gives : ∀ {r : Response} {t : State}, releaseClock p body (s.popRequest p) = (r, t) →
        exec (.releaseClock p) s = .next (answered s p tag r t) :=
      fun h => congrArg Host.Outcome.next (takeRequest_gives htaken h)
    exact ⟨fun h hw => gives (releaseClock_frees (s := s.popRequest p) h hw body),
      fun q rest h hw => gives (releaseClock_promotes (s := s.popRequest p) h hw body),
      fun h hp => gives (releaseClock_waiting (s := s.popRequest p) h hp body),
      fun h hp => gives (releaseClock_notFound (s := s.popRequest p) h hp body)⟩
  · refine ⟨s.clock.role p, congrArg Host.Outcome.next (takeRequest_taken htaken _), role_controlling, role_none,
      fun before after h hw hp => ?_⟩
    rw [role_waiting h (by simp [hw]), place_eq hw hp]

end Sys2Proof.Machine
end

section
/-!
PROOF. The control requests: their refusals, and CLOCK_RUN, CLOCK_PAUSE, CLOCK_RATE and SET_LEASE (R164, R165, R167,
R169, R170): O47.
-/

namespace Sys2Proof.Machine

open Sys2Proof

/-! ### What every control request shares (R165) -/

/-- R165, R166: a control request whose argument is out of its range. -/
def OutOfRange (p : PortId) (c : Instr) : Prop :=
  (∃ t, c = .clockSet p t ∧ 2 ^ 40 - 1 < t) ∨ (∃ r, c = .clockRate p r ∧ (r = 0 ∨ 65535 < r)) ∨
    ∃ n, c = .setLease p n ∧ (n = 0 ∨ 3600 < n)

/-- Table 10-2, R165: the requests of codes from 38 are the control requests, and each tests its argument's range. -/
theorem exec_control {c : Instr} {p : PortId} {code : Nat} (h : requestOf c = some (p, code)) (hc : 38 ≤ code) :
    ∃ (ok : Bool) (rule : State → State),
      (∀ s, exec c s = .next (takeRequest p code (controlRequest p ok rule) s)) ∧ (OutOfRange p c → ok = false) := by
  cases c with
  | clockRun | clockPause =>
    obtain ⟨rfl, rfl⟩ := Prod.mk.inj (Option.some.inj h)
    exact ⟨_, _, fun _ => rfl, by simp [OutOfRange]⟩
  | clockSet q t =>
    obtain ⟨rfl, rfl⟩ := Prod.mk.inj (Option.some.inj h)
    exact ⟨_, _, fun _ => rfl, fun hout => decide_eq_false (by simpa [OutOfRange, Config.maxGrid] using hout)⟩
  | clockRate q r =>
    obtain ⟨rfl, rfl⟩ := Prod.mk.inj (Option.some.inj h)
    exact ⟨_, _, fun _ => rfl, by simp [OutOfRange]; omega⟩
  | setLease q n =>
    obtain ⟨rfl, rfl⟩ := Prod.mk.inj (Option.some.inj h)
    exact ⟨_, _, fun _ => rfl, by simp [OutOfRange]; omega⟩
  | _ => simp [requestOf] at h <;> omega

theorem controlRequest_notController {s : State} {p : PortId} (h : s.clock.controller ≠ some p) (ok : Bool)
    (rule : State → State) (body : List Byte) :
    controlRequest p ok rule body s = (Response.plain .notController, s) := if_pos h

theorem controlRequest_badArgument {s : State} {p : PortId} (h : s.clock.controller = some p) (rule : State → State)
    (body : List Byte) : controlRequest p false rule body s = (Response.plain .badArgument, s) :=
  if_neg (not_not.2 h)

/-- R165: an accepted control request is done, and starts the lease timer with the period that stands after it. -/
theorem takeControlRequest_accepted {s : State} {p : PortId} {code tag : Nat} {body : List Byte}
    (htaken : Taken s p code tag body) (h : s.clock.controller = some p) {ok : Bool} (hok : ok = true)
    {rule : State → State} {t : State} (ht : rule (s.popRequest p) = t) :
    takeRequest p code (controlRequest p ok rule) s =
      answered s p tag Response.done { t with clock := t.clock.startLease } := by
  subst hok ht
  exact takeRequest_gives htaken (controlRequest_accepted (s := s.popRequest p) h rule body)

/-! ### The rules (R165) -/

section
variable {s : State}

theorem clockPause_stopped (h : s.clock.run = .stopped) : clockPause s = s := by simp [clockPause, h]

theorem clockPause_running (h : s.clock.run = .running) :
    clockPause s = notifyClock .pause { s with clock := s.clock.halt } := by simp [clockPause, h]

theorem clockRate_changes {r : Nat} (h : r ≠ s.clock.rate) :
    clockRate r s = notifyClock .rate { s with clock := { s.clock with rate := r } } := if_neg (Ne.symm h)

theorem clockRate_same (s : State) : clockRate s.clock.rate s = s := if_pos rfl

theorem clockRun_running (h : s.clock.run = .running) : clockRun s = s := by simp [clockRun, h]

/-- R160, R167: a clock at the end of the grid does not run. -/
theorem clockRun_limit (h : s.clock.run = .stopped) (hend : 2 ^ 40 - 1 ≤ s.clock.instant) :
    clockRun s = notifyClock .limit s := by
  have hmax : ¬s.clock.instant < Config.maxGrid := not_lt.2 hend
  simp [clockRun, h, hmax]

theorem clockRun_runs (h : s.clock.run = .stopped) (hend : s.clock.instant < 2 ^ 40 - 1) :
    clockRun s = followers (notifyClock .run { s with clock := s.clock.start }) := by
  have hmax : s.clock.instant < Config.maxGrid := hend
  simp [clockRun, h, hmax]

end

/-! ### The bound cursors (R169, R170) -/

/-- R169, R170: what a CLOCK_RUN that makes the clock run makes of the cursors, one by one. -/
theorem followClockAll_reaches (e : Env) (l : Live) (k : Slot) :
    (l.cursor k = none → (followClockAll e l).cursor k = none) ∧
      ∀ d : Cursor, l.cursor k = some d →
        ((d.state ≠ .running ∨ d.options.pacing = .freeRun) → (followClockAll e l).cursor k = some d) ∧
        (d.state = .running → d.options.pacing = .bound →
          ∃ lag : Bool, LagTested e.history.records e.clock.instant d lag ∧
            (d.waiting = true → d.op = .none →
              (followClockAll e l).cursor k =
                some { d with instant := some e.clock.instant, parked := false, lagging := lag }) ∧
            (d.waiting = false ∨ d.op ≠ .none → (followClockAll e l).cursor k = some { d with lagging := lag })) := by
  rw [cursor_followClockAll]
  refine ⟨fun h => by rw [h]; rfl, fun d h => ⟨fun hfree => ?_, fun hrun hbound => ?_⟩⟩
  · rw [h, Option.map_some, followClock_free hfree]
  · rw [h, Option.map_some]
    by_cases hw : d.waiting = true ∧ d.op = .none
    · obtain ⟨lag, htest, hfollow⟩ := followClock_waiting (e := e) hrun hbound hw.1 hw.2
      refine ⟨lag, htest, fun _ _ => congrArg some hfollow, fun h => ?_⟩
      simp [hw] at h
    · have hother : d.waiting = false ∨ d.op ≠ .none := by
        rw [← Bool.not_eq_true]
        exact not_and_or.1 hw
      obtain ⟨lag, htest, hfollow⟩ := followClock_tested (e := e) hrun hbound hother
      exact ⟨lag, htest, fun h1 h2 => absurd ⟨h1, h2⟩ hw, fun _ => congrArg some hfollow⟩

/-! ### The obligation -/

/-- Settles O47: the shared test of a control request, and then each rule on its own. -/
theorem clockControlRequests : Obligations.ClockControlRequests := by
  unfold Obligations.ClockControlRequests
  refine ⟨fun c s p code tag body hreq hcode htaken => ?_, fun s p tag body hctl => ?_,
    fun s p tag body htaken hctl => ?_⟩
  · obtain ⟨ok, rule, hexec, hrange⟩ := exec_control hreq hcode
    have refused : ∀ {r : RespCode}, controlRequest p ok rule body (s.popRequest p) =
        (Response.plain r, s.popRequest p) → exec c s = .next (answeredOnly s p tag { code := r, body := .empty }) :=
      fun h => (hexec s).trans (congrArg Host.Outcome.next (takeRequest_gives htaken h))
    refine ⟨fun hctl => refused (controlRequest_notController (s := s.popRequest p) hctl ok rule body),
      fun hctl hout => refused ?_⟩
    rw [hrange hout]
    exact controlRequest_badArgument (s := s.popRequest p) hctl rule body
  · refine ⟨fun htaken hrun => congrArg Host.Outcome.next ?_, fun htaken hrun => congrArg Host.Outcome.next ?_,
      fun r htaken h1 h2 hr => congrArg Host.Outcome.next ?_, fun htaken h1 h2 => congrArg Host.Outcome.next ?_,
      fun n htaken h1 h2 => congrArg Host.Outcome.next ?_⟩
    · exact takeControlRequest_accepted htaken hctl rfl (clockPause_stopped (s := s.popRequest p) hrun)
    · exact takeControlRequest_accepted htaken hctl rfl (clockPause_running (s := s.popRequest p) hrun)
    · exact takeControlRequest_accepted htaken hctl (by simp [h1, h2]) (clockRate_changes (s := s.popRequest p) hr)
    · exact takeControlRequest_accepted htaken hctl (by simp [h1, h2]) (clockRate_same (s.popRequest p))
    · exact takeControlRequest_accepted (rule := setLease n) htaken hctl (by simp [h1, h2]) rfl
  · refine ⟨fun hrun => congrArg Host.Outcome.next ?_, fun hrun hend => congrArg Host.Outcome.next ?_,
      fun hrun hend => ?_⟩
    · exact takeControlRequest_accepted htaken hctl rfl (clockRun_running (s := s.popRequest p) hrun)
    · exact takeControlRequest_accepted htaken hctl rfl (clockRun_limit (s := s.popRequest p) hrun hend)
    · let u : State := notifyClock .run { s.popRequest p with clock := s.clock.start }
      exact ⟨(followClockAll u.env u.live).cursors, congrArg Host.Outcome.next
        (takeControlRequest_accepted htaken hctl rfl (clockRun_runs (s := s.popRequest p) hrun hend)),
        fun k => followClockAll_reaches u.env u.live k⟩

end Sys2Proof.Machine
end

section
/-!
PROOF. The laws of one port, and what each operation of the Port Interface keeps of them (R174 to R180).
-/

namespace Sys2Proof.Machine

open Sys2Proof

/-! ### The laws of one port (R174 to R178) -/

/-- The laws of an UP port: those of a DOWN one ask nothing of it. -/
theorem Port.lawful_up {p : Port} (h : p.up = true) :
    p.lawful ↔
      p.requests.length ≤ 4 ∧ p.notices.length ≤ 32 ∧ p.droppedCount ≤ 65535 ∧
        (p.lost = false → p.droppedCount = 0 ∧ p.droppedKinds = []) ∧ ∀ r ∈ p.response, r.ahead ≤ p.notices.length := by
  simp [Port.lawful, h, Config.requestCapacity, Config.noticeCapacity, Config.countLimit]

theorem Port.reset_lawful : Port.reset.lawful := by simp [Port.lawful, Port.reset]

/-- R174, R178: a notice joins the queue, or is counted among the dropped, or goes without trace. -/
theorem Port.lawful.push {p : Port} (h : p.lawful) (n : Notice) : (p.push n).lawful := by
  cases hup : p.up with
  | false => rwa [push_down hup]
  | true =>
    have hpush := (push_up p n).trans hup
    rw [Port.lawful_up hpush]
    obtain ⟨hreq, hnot, hcount, hlost, hahead⟩ := (Port.lawful_up hup).1 h
    by_cases hroom : p.notices.length < 32
    · rw [push_joins hup hroom]
      refine ⟨hreq, ?_, hcount, hlost, fun r hr => (hahead r hr).trans ?_⟩
      all_goals
        rw [List.length_append, List.length_singleton]
        omega
    · rw [push_drops hup (not_lt.1 hroom)]
      exact ⟨hreq, hnot, min_le_right _ _, nofun, hahead⟩

theorem Pushed.lawful {a b : Port} (h : Pushed a b) (ha : a.lawful) : b.lawful :=
  h.keeps (P := Port.lawful) (fun _ n hx => hx.push n) ha

section
variable {p : Port}

/-- R175: link flow holds a fifth frame. -/
theorem Port.lawful.queued (h : p.lawful) (hup : p.up = true) (hroom : p.requests.length < 4) (f : QueuedFrame) :
    Port.lawful { p with requests := p.requests ++ [f] } := by
  obtain ⟨-, hrest⟩ := (Port.lawful_up hup).1 h
  exact (Port.lawful_up (by exact hup)).2 ⟨by simpa using Nat.succ_le_of_lt hroom, hrest⟩

/-- R176: the request taken leaves the queue. -/
theorem Port.lawful.unqueued (h : p.lawful) : Port.lawful { p with requests := p.requests.drop 1 } := by
  obtain ⟨hreq, hnot, hcount, hlost, hahead, hdown⟩ := h
  refine ⟨by simp only [List.length_drop]; omega, hnot, hcount, hlost, hahead, fun hup => ?_⟩
  obtain ⟨hnil, hrest⟩ := hdown hup
  exact ⟨by simp [hnil], hrest⟩

/-- R176, R177: a response stands behind notices of the queue. -/
theorem Port.lawful.responded (h : p.lawful) (hup : p.up = true) {x : HeldResponse}
    (hx : x.ahead ≤ p.notices.length) : Port.lawful { p with response := some x } := by
  obtain ⟨hreq, hnot, hcount, hlost, -⟩ := (Port.lawful_up hup).1 h
  exact (Port.lawful_up (by exact hup)).2 ⟨hreq, hnot, hcount, hlost, fun y hy => Option.some.inj hy ▸ hx⟩

/-- R177, R179: the subscriptions, the delivery turn and the frame sent are an UP port's to change. -/
theorem Port.lawful.sending (h : p.lawful) (hup : p.up = true) (x : Subs) (k : Option Slot) (f : Option SentFrame) :
    Port.lawful { p with subs := x, turn := k, sent := f } :=
  (Port.lawful_up (by exact hup)).2 ((Port.lawful_up hup).1 h)

/-- R177: the holder empties. -/
theorem Port.lawful.responseSent (h : p.lawful) (f : Option SentFrame) :
    Port.lawful { p with response := none, sent := f } := by
  obtain ⟨hreq, hnot, hcount, hlost, -, hdown⟩ := h
  refine ⟨hreq, hnot, hcount, hlost, by simp, fun hup => ?_⟩
  obtain ⟨hnil, -, hrest⟩ := hdown hup
  exact ⟨hnil, rfl, hrest⟩

/-- R177, R178: a notice leaves, RESYNC takes the freed place where notices were dropped, and a response comes one place
nearer. -/
theorem Port.lawful.noticeSent (h : p.lawful) (hup : p.up = true) (hn : p.notices ≠ []) (f : Option SentFrame) :
    Port.lawful
      { p.popNotice with
        response := p.popNotice.response.map fun x => { x with ahead := x.ahead - 1 }, sent := f } := by
  obtain ⟨hreq, hnot, hcount, hlost, hahead⟩ := (Port.lawful_up hup).1 h
  have hpos : 0 < p.notices.length := List.length_pos_iff.2 hn
  have nearer : ∀ x ∈ p.response.map fun x : HeldResponse => { x with ahead := x.ahead - 1 },
      x.ahead ≤ p.notices.length - 1 := by
    intro x hx
    obtain ⟨y, hy, rfl⟩ := Option.mem_map.1 hx
    exact Nat.sub_le_sub_right (hahead y hy) 1
  cases hl : p.lost with
  | false =>
    rw [popNotice_kept hl]
    refine (Port.lawful_up (by exact hup)).2 ⟨hreq, ?_, hcount, hlost, fun x hx => ?_⟩ <;> simp only [List.length_drop]
    · omega
    · exact nearer x hx
  | true =>
    rw [popNotice_resync hl]
    refine (Port.lawful_up (by exact hup)).2 ⟨hreq, ?_, Nat.zero_le _, fun _ => ⟨rfl, rfl⟩, fun x hx => ?_⟩ <;>
      simp only [List.length_append, List.length_drop, List.length_singleton]
    · omega
    · exact (nearer x hx).trans (Nat.le_add_right _ _)

end

/-! ### The laws of the ports, and the owners of the cursors -/

/-- A change in which ports take notices at most, and every open cursor keeps its owner. -/
theorem Kept.portLaw {s t : State} (h : Kept s t) (hs : PortLaw s) : PortLaw t := by
  obtain ⟨-, hlow, -, hports⟩ := id h
  refine ⟨fun p => (hports p).lawful (hs.1 p), fun hrun k d hd => ?_⟩
  cases hc : s.live.cursor k with
  | none => exact nomatch (h.2.2.free hc).symm.trans hd
  | some c =>
    obtain ⟨d', hd', howner⟩ := h.2.2.opened hc
    obtain rfl := Option.some.inj (hd'.symm.trans hd)
    rw [howner]
    exact h.upAt c.owner (hs.2 (hlow ▸ hrun) k c hc)

/-- One port becomes another that is lawful and as UP. -/
theorem PortLaw.setPort {s : State} (hs : PortLaw s) {l : Live} {p : PortId} {x : Port}
    (hc : l.cursors = s.live.cursors) (hl : l.ports = (s.live.setPort p x).ports) (hx : x.lawful)
    (hup : s.upAt p → x.up = true) : PortLaw (s.withLive l) := by
  refine ⟨fun q => ?_, fun hrun k c hk => (SameClock.setPort hl hup).2 c.owner (hs.2 hrun k c ?_)⟩
  · have hport : l.port q = if p = q then x else s.live.port q := by
      rw [← port_setPort]
      exact congrArg (fun v : Vector Port 4 => v.get q) hl
    rw [live_withLive, hport]
    split_ifs
    · exact hx
    · exact hs.1 q
  · unfold Live.cursor at hk ⊢
    rwa [← hc]

/-- From `s` to `t` the laws of the ports are kept, and an UP port stays UP with its notices. -/
def KeepsPorts (s t : State) : Prop :=
  (PortLaw s → PortLaw t) ∧
    ∀ p, s.upAt p → t.upAt p ∧ (s.live.port p).notices.length ≤ (t.live.port p).notices.length

theorem KeepsPorts.refl (s : State) : KeepsPorts s s := ⟨id, fun _ h => ⟨h, le_rfl⟩⟩

theorem Kept.keepsPorts {s t : State} (h : Kept s t) : KeepsPorts s t :=
  ⟨h.portLaw, fun p hp => ⟨h.upAt p hp, (h.2.2.2 p).notices.length_le⟩⟩

/-- A change of the cursors in which each one open was open with its owner, or belongs to an UP port. -/
theorem KeepsPorts.cursors {s : State} {l : Live} (hp : l.ports = s.live.ports)
    (hc : ∀ k c, l.cursor k = some c →
      s.upAt c.owner ∨ ∃ d, s.live.cursor k = some d ∧ d.owner = c.owner) : KeepsPorts s (s.withLive l) := by
  have hport : ∀ p, l.port p = s.live.port p := fun p => congrArg (fun v : Vector Port 4 => v.get p) hp
  refine ⟨fun hs => ⟨fun p => ?_, fun hrun k c hk => ?_⟩, fun p hup => ?_⟩ <;> rw [live_withLive, hport]
  · exact hs.1 p
  · obtain hup | ⟨d, hd, howner⟩ := hc k c hk
    · exact hup
    · exact howner ▸ hs.2 hrun k d hd
  · exact ⟨(congrArg Port.up (hport p)).trans hup, le_rfl⟩

/-! ### A request taken and answered (R176, R177) -/

theorem popRequest_portLaw {s : State} (hs : PortLaw s) (p : PortId) : PortLaw (s.popRequest p) :=
  hs.setPort rfl rfl (hs.1 p).unqueued id

/-- R177: the notices of the event stand behind its response, those before it in front. -/
theorem answered_portLaw {s u : State} {p : PortId} (hs : PortLaw s) (hup : s.upAt p)
    (h : KeepsPorts (s.popRequest p) u) (tag : Nat) (r : Response) : PortLaw (answered s p tag r u) := by
  have hpop := popRequest_sameClock s p
  obtain ⟨hu, hahead⟩ := h.2 p (hpop.2 p hup)
  have hlaw := h.1 (popRequest_portLaw hs p)
  refine hlaw.setPort rfl rfl ((hlaw.1 p).responded hu ?_) id
  rwa [port_popRequest, if_pos rfl] at hahead

theorem takeRequest_portLaw {rule : List Byte → State → Response × State} {p : PortId}
    (h : ∀ b u, u.upAt p → KeepsPorts u (rule b u).2) (code : Nat) {s : State} (hs : PortLaw s) :
    PortLaw (takeRequest p code rule s) := by
  rcases takeRequest_cases p code rule s with e | ⟨tag, body, htaken, e⟩ <;> rw [e]
  · exact hs
  · have hup := (taken_port htaken).2.1
    exact answered_portLaw hs hup (h body _ ((popRequest_sameClock s p).2 p hup)) _ _

/-- A request whose rule makes the ports take notices at most. -/
theorem takeRequest_kept_portLaw {rule : List Byte → State → Response × State} (h : ∀ b u, Kept u (rule b u).2)
    (p : PortId) (code : Nat) {s : State} (hs : PortLaw s) : PortLaw (takeRequest p code rule s) :=
  takeRequest_portLaw (fun b u _ => (h b u).keepsPorts) code hs

/-- A request whose rule changes nothing. -/
theorem takeRequest_same_portLaw {rule : List Byte → State → Response × State} (h : ∀ b u, (rule b u).2 = u)
    (p : PortId) (code : Nat) {s : State} (hs : PortLaw s) : PortLaw (takeRequest p code rule s) :=
  takeRequest_kept_portLaw (fun b u => by rw [h b u]; exact Kept.refl u) p code hs

theorem takeCursorRequest_portLaw {rule : Slot → Cursor → State → Response × State}
    (h : ∀ k c s, s.live.cursor k = some c → Kept s (rule k c s).2) (p : PortId) (code slot : Nat) {s : State}
    (hs : PortLaw s) : PortLaw (takeRequest p code (cursorRequest p slot rule) s) :=
  takeRequest_kept_portLaw (cursorRequest_kept p slot h) p code hs

theorem takeControlRequest_portLaw (ok : Bool) {rule : State → State} (h : ∀ s, Kept s (rule s)) (p : PortId)
    (code : Nat) {s : State} (hs : PortLaw s) : PortLaw (takeRequest p code (controlRequest p ok rule) s) :=
  takeRequest_kept_portLaw (controlRequest_kept p ok h) p code hs

/-- R179: a set replaces the port's own, which a DOWN port has empty. -/
theorem subscribe_keepsPorts {p : PortId} (set : Byte) (b : List Byte) {s : State} (hup : s.upAt p) :
    KeepsPorts s (subscribe p set b s).2 := by
  unfold subscribe
  split
  · exact KeepsPorts.refl s
  · rename_i x _
    refine ⟨fun hs => hs.setPort rfl rfl ((hs.1 p).sending hup _ _ _) id, fun q hq => ?_⟩
    refine ⟨(SameClock.setPort (x := { s.live.port p with subs := x }) rfl id).2 q hq, ?_⟩
    rw [live_withLive, port_setPort]
    split_ifs with e
    · rw [e]
    · exact le_rfl

/-- R103: the cursor opened belongs to the port that asks. -/
theorem openCursor_keepsPorts {p : PortId} (b : List Byte) {s : State} (hup : s.upAt p) :
    KeepsPorts s (openCursor p b s).2 := by
  unfold openCursor
  split_ifs
  · exact KeepsPorts.refl s
  · split
    · exact KeepsPorts.refl s
    · refine KeepsPorts.cursors rfl fun j c hj => ?_
      rw [cursor_setCursor] at hj
      split_ifs at hj
      · cases hj
        exact .inl hup
      · exact .inr ⟨c, hj, rfl⟩

/-- R105: the cursor closed has no owner. -/
theorem closeCursor_keepsPorts (p : PortId) (slot : Nat) (b : List Byte) (s : State) :
    KeepsPorts s (cursorRequest p slot closeCursor b s).2 := by
  rcases cursorRequest_cases p slot closeCursor b s with ⟨code, e⟩ | ⟨k, c, -, -, e⟩ <;> rw [e]
  · exact KeepsPorts.refl s
  · refine KeepsPorts.cursors rfl fun j c hj => .inr ⟨c, ?_, rfl⟩
    by_cases hk : k = j
    · subst hk
      exact nomatch (cursor_freeCursor_same s.live k).symm.trans hj
    · rwa [cursor_freeCursor_ne s.live hk] at hj

/-! ### Frames (R175, R177) -/

theorem mayTake_up {s : State} {p : PortId} (h : s.mayTake p = true) : s.upAt p := by
  simp only [State.mayTake, Bool.and_eq_true] at h
  exact h.1.2

/-- R175: the link holds a frame while the part does not run, the link is DOWN, or four frames wait. -/
def HoldsFrame (s : State) (p : PortId) : Prop :=
  s.resetLow = true ∨ (s.live.port p).up = false ∨ 4 ≤ (s.live.port p).requests.length

theorem holdsFrame_iff (s : State) (p : PortId) :
    (s.resetLow || !(s.live.port p).up || decide (Config.requestCapacity ≤ (s.live.port p).requests.length)) = true ↔
      HoldsFrame s p := by
  rw [Bool.or_eq_true, Bool.or_eq_true, Bool.not_eq_true', decide_eq_true_iff, or_assoc]
  rfl

theorem frameReceive_portLaw (p : PortId) (bytes : List Byte) {s : State} (hs : PortLaw s) :
    ∃ t, execFrameReceive p bytes s = .next t ∧ PortLaw t := by
  refine ⟨_, rfl, ?_⟩
  split_ifs with hheld
  · exact hs
  · simp only [holdsFrame_iff, HoldsFrame, not_or, Bool.not_eq_false, not_le] at hheld
    obtain ⟨-, hup, hroom⟩ := hheld
    exact hs.setPort rfl rfl ((hs.1 p).queued hup hroom _) id

theorem frameError_portLaw (p : PortId) {s : State} (hs : PortLaw s) :
    ∃ t, execFrameError p s = .next t ∧ PortLaw t := by
  refine ⟨_, rfl, ?_⟩
  split
  · split_ifs with hmay
    · exact answered_portLaw hs (mayTake_up hmay) (KeepsPorts.refl _) 0 _
    · exact hs
  · exact hs

theorem unknownRequest_portLaw (p : PortId) {s : State} (hs : PortLaw s) :
    ∃ t, execUnknownRequest p s = .next t ∧ PortLaw t := by
  refine ⟨_, rfl, ?_⟩
  split
  · split_ifs with hmay
    · exact answered_portLaw hs (mayTake_up (Bool.and_eq_true_iff.1 hmay).1) (KeepsPorts.refl _) _ _
    · exact hs
  · exact hs

/-- R137, R177: an item leaves a PUSH queue, and a waiting item is written. -/
theorem sendItem_portLaw {p : PortId} {k : Slot} {c : Cursor} {s : State} (hup : s.upAt p)
    (hc : s.live.cursor k = some c) (it : Item) (rest : List Item) (hs : PortLaw s) :
    PortLaw (sendItem p k c it rest s) := by
  rw [sendItem_eq]
  generalize SentFrame.mk _ _ = f
  have hsent : PortLaw (s.withLive (s.live.sending p ((s.live.port p).delivering k f))) :=
    hs.setPort rfl rfl ((hs.1 p).sending hup _ _ _) id
  have hpopped : Grows (s.live.sending p ((s.live.port p).delivering k f)) _ :=
    Grows.setCursor (d := { c with buffer := { c.buffer with outgoing := rest } }) hc rfl
  exact (Kept.withLive (s := s.withLive _) (hpopped.trans (resumeWaiting_grows s.env k _))).portLaw hsent

theorem sendDelivery_portLaw {p : PortId} {s : State} (hup : s.upAt p) (hs : PortLaw s) :
    PortLaw (sendDelivery p s) := by
  unfold sendDelivery
  split
  · exact hs
  · split
    · exact hs
    · split
      · exact hs
      · exact sendItem_portLaw hup ‹_› _ _ hs

theorem transmit_portLaw {p : PortId} {s : State} (hup : s.upAt p) (hs : PortLaw s) : PortLaw (transmit p s) := by
  have response : ∀ h, PortLaw (sendResponse p h s) := fun _ => hs.setPort rfl rfl ((hs.1 p).responseSent _) id
  have notice : ∀ n rest, (s.live.port p).notices = n :: rest → PortLaw (sendNotice p n s) := fun n rest hn =>
    hs.setPort rfl rfl ((hs.1 p).noticeSent hup (by simp [hn]) _) fun h => (popNotice_up _).trans h
  unfold transmit
  split
  · split_ifs
    · exact response _
    · exact notice _ _ ‹_›
  · exact response _
  · exact notice _ _ ‹_›
  · exact sendDelivery_portLaw hup hs

theorem frameTransmit_portLaw (p : PortId) {s : State} (hs : PortLaw s) :
    ∃ t, execFrameTransmit p s = .next t ∧ PortLaw t := by
  refine ⟨_, rfl, ?_⟩
  split_ifs with h
  · exact hs
  · simp only [Bool.or_eq_true, Bool.not_eq_true', not_or, Bool.not_eq_false] at h
    exact transmit_portLaw h.2 hs

/-! ### The lines and the links (R174, R180, R183) -/

theorem reset_portLaw (pending : List Instr) : PortLaw { State.reset with pending := pending } :=
  ⟨fun p => by
    rw [show State.reset.live.port p = Port.reset from vreplicate_get _ p]
    exact Port.reset_lawful,
   fun _ k _ hc => nomatch (reset_free k).symm.trans hc⟩

theorem resetAssert_portLaw (s : State) : ∃ t, execResetAssert s = .next t ∧ PortLaw t := by
  refine ⟨_, rfl, fun p => ?_, nofun⟩
  show ((Vector.replicate 4 Port.reset).get p).lawful
  rw [vreplicate_get]
  exact Port.reset_lawful

theorem linkUp_portLaw (p : PortId) {s : State} (hs : PortLaw s) : ∃ t, execLinkUp p s = .next t ∧ PortLaw t := by
  refine ⟨_, rfl, ?_⟩
  split_ifs
  · exact hs
  · exact hs.setPort rfl rfl (by simp [Port.lawful, Port.reset]) fun _ => rfl

/-- R180: the port is empty, and no cursor is left to it. -/
theorem emptied_portLaw (p : PortId) {s : State} (hs : PortLaw s) : PortLaw (emptied p s) := by
  refine ⟨fun q => ?_, fun hrun k c hk => ?_⟩
  · by_cases e : q = p
    · rw [e, emptied_port_same]
      exact Port.reset_lawful
    · rw [emptied_port_other e]
      exact hs.1 q
  · cases hd : s.live.cursor k with
    | none => exact nomatch (closeOwned_free (l := s.live.setPort p Port.reset) hd).symm.trans hk
    | some d =>
      by_cases ho : d.owner = p
      · exact nomatch (closeOwned_owned (l := s.live.setPort p Port.reset) hd ho).symm.trans hk
      · obtain rfl := Option.some.inj ((closeOwned_other (l := s.live.setPort p Port.reset) hd ho).symm.trans hk)
        rw [emptied_port_other ho]
        exact hs.2 hrun k d hd

theorem linkDown_portLaw (p : PortId) {s : State} (hs : PortLaw s) :
    ∃ t, execLinkDown p s = .next t ∧ PortLaw t := by
  refine ⟨_, rfl, ?_⟩
  split_ifs
  · exact hs
  · exact (endClockRole_kept p (emptied p s)).portLaw (emptied_portLaw p hs)

end Sys2Proof.Machine
end

section
/-!
PROOF. Every step keeps the laws of the ports (R174 to R180): O59.
-/

namespace Sys2Proof.Machine

open Sys2Proof

/-! ### The cursors' own events and the Merge Engine -/

/-- An event that acts while RESET_N is high, where it acts at all. -/
theorem event_portLaw {s t : State} (idle : Bool) (h : Kept s t) (hs : PortLaw s) :
    PortLaw (if idle = true then s else t) := by
  split_ifs
  · exact hs
  · exact h.portLaw hs

/-- An event of the live part alone. -/
theorem liveEvent_portLaw {s : State} {l : Live} (h : Grows s.live l) (hs : PortLaw s) :
    PortLaw (if s.resetLow = true then s else s.withLive l) := event_portLaw _ (Kept.withLive h) hs

theorem segmentCommit_portLaw {s : State} (hs : PortLaw s) :
    ∃ t, execSegmentCommit s = .next t ∧ PortLaw t := by
  refine ⟨_, rfl, event_portLaw _ ?_ hs⟩
  split
  · exact handOver_kept _ _ s
  · exact Kept.refl s

theorem segmentFailure_portLaw {s : State} (hs : PortLaw s) :
    ∃ t, execSegmentFailure s = .next t ∧ PortLaw t := by
  refine ⟨_, rfl, event_portLaw _ ?_ hs⟩
  split
  · exact failSegment_kept _ _ _ s
  · exact Kept.refl s

theorem execClockAdvance_portLaw {s : State} (hs : PortLaw s) : ∃ t, execClockAdvance s = .next t ∧ PortLaw t :=
  ⟨_, rfl, event_portLaw _
    (Kept.trans (b := { s with clock := s.clock.spend (s.clock.pacing.getD 0) }) (Kept.same rfl rfl rfl)
      (clockAdvance_kept _)) hs⟩

/-! ### Every step -/

/-- Every command keeps the laws. -/
theorem exec_portLaw (i : Instr) {s : State} (hs : PortLaw s) : ∃ t, exec i s = .next t ∧ PortLaw t := by
  cases i with
  | powerOn => exact ⟨_, rfl, reset_portLaw _⟩
  | resetAssert => exact resetAssert_portLaw s
  | resetRelease =>
    refine ⟨_, rfl, ?_⟩
    split_ifs
    · exact reset_portLaw _
    · exact hs
  | linkUp p => exact linkUp_portLaw p hs
  | linkDown p => exact linkDown_portLaw p hs
  | markInEdge => exact ⟨_, rfl, liveEvent_portLaw (triggerEvent_grows s.env .line s.live) hs⟩
  | frameReceive p bytes => exact frameReceive_portLaw p bytes hs
  | frameError p => exact frameError_portLaw p hs
  | unknownRequest p => exact unknownRequest_portLaw p hs
  | frameTransmit p => exact frameTransmit_portLaw p hs
  | describe p => exact ⟨_, rfl, takeRequest_same_portLaw (fun _ _ => rfl) p 1 hs⟩
  | subscribe p set => exact ⟨_, rfl, takeRequest_portLaw (fun b _ => subscribe_keepsPorts set b) 2 hs⟩
  | beginCollection p => exact ⟨_, rfl, takeRequest_kept_portLaw beginCollection_kept p 3 hs⟩
  | sealHistory p => exact ⟨_, rfl, takeRequest_kept_portLaw sealRequest_kept p 4 hs⟩
  | clearHistory p => exact ⟨_, rfl, takeRequest_kept_portLaw clearRequest_kept p 5 hs⟩
  | readRecords p st e n z => exact ⟨_, rfl, takeRequest_same_portLaw (readRecords_same st e n z) p 6 hs⟩
  | readGaps p a n r => exact ⟨_, rfl, takeRequest_same_portLaw (readGaps_same a n r) p 7 hs⟩
  | setPoint p first xs => exact ⟨_, rfl, takeRequest_kept_portLaw (tableWrite_kept _) p 8 hs⟩
  | setRecorder p r e u o d f => exact ⟨_, rfl, takeRequest_kept_portLaw (tableWrite_kept _) p 9 hs⟩
  | setMapBlock p r b x => exact ⟨_, rfl, takeRequest_kept_portLaw (tableWrite_kept _) p 10 hs⟩
  | setStudy p e w t v => exact ⟨_, rfl, takeRequest_kept_portLaw (tableWrite_kept _) p 11 hs⟩
  | setEventZero p t => exact ⟨_, rfl, takeRequest_kept_portLaw (setEventZero_kept t) p 12 hs⟩
  | loadSegment p => exact ⟨_, rfl, takeRequest_kept_portLaw (loadSegment_kept p) p 13 hs⟩
  | cancelSegment p r q => exact ⟨_, rfl, takeRequest_kept_portLaw (cancelSegment_kept p r q) p 14 hs⟩
  | readRecorder p r => exact ⟨_, rfl, takeRequest_same_portLaw (readRecorder_same r) p 15 hs⟩
  | setAttentionMask p => exact ⟨_, rfl, takeRequest_kept_portLaw setAttentionMask_kept p 16 hs⟩
  | clearCauses p => exact ⟨_, rfl, takeRequest_kept_portLaw clearCauses_kept p 17 hs⟩
  | openCursor p => exact ⟨_, rfl, takeRequest_portLaw (fun b _ => openCursor_keepsPorts b) 18 hs⟩
  | readCursor p slot => exact ⟨_, rfl, takeRequest_same_portLaw (readCursor_same slot) p 19 hs⟩
  | setCursor p slot x =>
    exact ⟨_, rfl, takeRequest_kept_portLaw (fun b => cursorRequest_kept p slot (setCursor_kept x b) b) p _ hs⟩
  | seek p slot t ch => exact ⟨_, rfl, takeCursorRequest_portLaw (seek_kept t ch) p _ slot hs⟩
  | play p slot re => exact ⟨_, rfl, takeCursorRequest_portLaw (play_kept re) p _ slot hs⟩
  | step p slot n => exact ⟨_, rfl, takeCursorRequest_portLaw (stepRequest_kept n) p _ slot hs⟩
  | hold p slot => exact ⟨_, rfl, takeCursorRequest_portLaw hold_kept p _ slot hs⟩
  | stop p slot => exact ⟨_, rfl, takeCursorRequest_portLaw stop_kept p _ slot hs⟩
  | arm p slot => exact ⟨_, rfl, takeCursorRequest_portLaw arm_kept p _ slot hs⟩
  | snapshot p slot a b st => exact ⟨_, rfl, takeCursorRequest_portLaw (snapshot_kept a b st) p _ slot hs⟩
  | closeCursor p slot => exact ⟨_, rfl, takeRequest_portLaw (fun b u _ => closeCursor_keepsPorts p slot b u) _ hs⟩
  | fetch p slot => exact ⟨_, rfl, takeCursorRequest_portLaw fetch_kept p _ slot hs⟩
  | probe p slot tag pt t => exact ⟨_, rfl, takeCursorRequest_portLaw (probeRequest_kept tag pt t) p _ slot hs⟩
  | setWatch p slot w args a => exact ⟨_, rfl, takeCursorRequest_portLaw (setWatch_kept w args a) p _ slot hs⟩
  | clearWatch p slot w => exact ⟨_, rfl, takeCursorRequest_portLaw (clearWatch_kept w) p _ slot hs⟩
  | readWatches p slot ws => exact ⟨_, rfl, takeCursorRequest_portLaw (readWatches_kept ws) p _ slot hs⟩
  | readTrail p slot => exact ⟨_, rfl, takeCursorRequest_portLaw (fun _ _ u _ => Kept.refl u) p _ slot hs⟩
  | takeClock p w => exact ⟨_, rfl, takeRequest_kept_portLaw (takeClock_kept p w) p 35 hs⟩
  | releaseClock p => exact ⟨_, rfl, takeRequest_kept_portLaw (releaseClock_kept p) p 36 hs⟩
  | readClock p => exact ⟨_, rfl, takeRequest_same_portLaw (fun _ _ => rfl) p 37 hs⟩
  | clockRun p => exact ⟨_, rfl, takeControlRequest_portLaw true clockRun_kept p _ hs⟩
  | clockPause p => exact ⟨_, rfl, takeControlRequest_portLaw true clockPause_kept p _ hs⟩
  | clockSet p t => exact ⟨_, rfl, takeControlRequest_portLaw _ (clockSet_kept t) p _ hs⟩
  | clockRate p n => exact ⟨_, rfl, takeControlRequest_portLaw _ (clockRate_kept n) p _ hs⟩
  | setLease p n =>
    exact ⟨_, rfl, takeControlRequest_portLaw (rule := setLease n) _ (fun _ => Kept.same rfl rfl rfl) p _ hs⟩
  | clockAdvance => exact execClockAdvance_portLaw hs
  | leaseExpiry => exact ⟨_, rfl, event_portLaw _ (expireLease_kept s) hs⟩
  | segmentCommit => exact segmentCommit_portLaw hs
  | segmentFailure => exact segmentFailure_portLaw hs
  | stepRead k => exact ⟨_, rfl, liveEvent_portLaw (stepRead_grows s.env k s.live) hs⟩
  | rebuildRead k => exact ⟨_, rfl, liveEvent_portLaw (rebuildRead_grows s.env k s.live) hs⟩
  | probeRead k => exact ⟨_, rfl, liveEvent_portLaw (probeRead_grows s.env k s.live) hs⟩
  | itemWritten k => exact ⟨_, rfl, liveEvent_portLaw (itemWritten_grows s.env k s.live) hs⟩

/-- Settles O59: a frame changes the queues of its own port within their capacity; a link that goes down takes its port's
contents and cursors with it; every other event has the ports take notices, and each open cursor keep its owner. -/
theorem stepKeepsPortLaw : Obligations.StepKeepsPortLaw := by
  unfold Obligations.StepKeepsPortLaw
  intro s t hs h
  exact step_keeps (P := PortLaw) (fun _ _ hu => hu) (fun u hu => (idle_kept u).portLaw hu)
    (fun i _ hu => exec_portLaw i hu) hs h

end Sys2Proof.Machine
end

section
/-!
PROOF. The command at the front of the queue, and the part after reset (R176, R183): O1 and O3.
-/

namespace Sys2Proof.Machine

open Sys2Proof

/-- Settles O1: the step reads the front of the queue. -/
theorem stepTakesFront : Obligations.StepTakesFront := by
  unfold Obligations.StepTakesFront
  intro c rest s h
  unfold step
  rw [h]

/-! ### The tables of equal entries after reset -/

theorem reset_point (p : PointId) : State.reset.tables.points.get p = PointEntry.reset := vreplicate_get _ p

theorem reset_recorder (r : RecId) : State.reset.tables.recorders.get r = RecorderEntry.reset := vreplicate_get _ r

theorem reset_block (b : BlockId) : RecorderEntry.reset.blocks.get b = none := vreplicate_get _ b

theorem reset_context (r : RecId) : State.reset.contexts.get r = Context.reset := vreplicate_get _ r

theorem reset_finished (p : PortId) : State.reset.merge.finished.get p = [] := vreplicate_get _ p

theorem reset_checkpoint (i : CkptId) : State.reset.live.checkpoints.entries.get i = Checkpoint.reset :=
  vreplicate_get _ i

theorem reset_port (p : PortId) : State.reset.live.port p = Port.reset := vreplicate_get _ p

/-- R183: every law of the model holds of the part after reset. -/
theorem reset_laws :
    StoreLaw State.reset ∧ SetupLaw State.reset ∧ TablesLaw State.reset ∧ IngestLaw State.reset ∧
      ClockLaw State.reset ∧ PortLaw State.reset ∧ CursorLaw State.reset :=
  ⟨reset_storeLaw (ph := .setup) rfl, reset_setupLaw rfl rfl rfl rfl, reset_tablesLaw rfl rfl, reset_ingestLaw [],
    reset_clockLaw [], reset_portLaw [], lawful_of_free reset_free⟩

/-- Settles O3: each table holds its reset entry at every place. -/
theorem partAfterReset : Obligations.PartAfterReset := by
  unfold Obligations.PartAfterReset
  refine ⟨⟨rfl, rfl, rfl, rfl, rfl, rfl, reset_point, fun r => ?_, rfl, fun r => ?_, rfl, rfl, rfl, reset_finished,
    fun i => ?_, rfl, reset_free, rfl, fun p => ?_⟩, reset_laws⟩
  · rw [reset_recorder]
    exact ⟨rfl, rfl, rfl, rfl, rfl, reset_block⟩
  · rw [reset_context]
    exact ⟨rfl, rfl, rfl, rfl, rfl, rfl, rfl, rfl, rfl, rfl, rfl, rfl, rfl, rfl⟩
  · rw [reset_checkpoint]
    rfl
  · rw [reset_port]
    exact ⟨rfl, rfl, rfl, rfl, rfl, rfl, rfl, rfl, rfl⟩

end Sys2Proof.Machine
end

section
/-!
PROOF. Frames that arrive, and the answers of faulty frames and unknown requests (R175, R176, R184, R185): O7 and O9.
-/

namespace Sys2Proof.Machine

open Sys2Proof

/-! ### The check of a frame (R175, R184, R185) -/

/-- R175, Table 11-1: what makes a frame faulty. -/
def FrameFault (bytes : List Byte) : Prop :=
  bytes.length < 16 ∨
    crc32 (bytes.take (bytes.length - 4)) ≠ BitVec.ofNat 32 (leAt bytes (bytes.length - 4) 4) ∨
    16392 < leAt bytes 6 2 ∨ leAt bytes 6 2 + 16 ≠ bytes.length ∨ byteAt bytes 0 ≠ 1 ∨ byteAt bytes 1 ≠ 0 ∨
    leAt bytes 8 4 ≠ 0

/-- R175: a body as long as the header says fills the frame but for header and CRC-32. -/
theorem bodyLength_fits {bytes : List Byte} (h : 16 ≤ bytes.length) :
    leAt bytes 6 2 + 16 ≠ bytes.length ↔ leAt bytes 6 2 ≠ bytes.length - 16 := by omega

theorem receiveFrame_faulty {bytes : List Byte} (h : FrameFault bytes) : receiveFrame bytes = .faulty := by
  refine if_pos ?_
  by_cases hshort : bytes.length < 16
  · exact .inl hshort
  · rw [← bodyLength_fits (not_lt.1 hshort)]
    exact h

theorem receiveFrame_sound {bytes : List Byte} (h : ¬FrameFault bytes) :
    receiveFrame bytes = .sound (leAt bytes 2 2) (leAt bytes 4 2) ((bytes.drop 12).take (bytes.length - 16)) := by
  refine if_neg ?_
  rwa [← bodyLength_fits (not_lt.1 fun hshort => h (.inl hshort))]

theorem receiveFrame_faulty_iff {bytes : List Byte} : receiveFrame bytes = .faulty ↔ FrameFault bytes := by
  refine ⟨fun h => ?_, receiveFrame_faulty⟩
  by_contra hsound
  exact nomatch (receiveFrame_sound hsound).symm.trans h

/-! ### The request queue (R175) -/

theorem exec_frameReceive {s : State} {p : PortId} (h : ¬HoldsFrame s p) (bytes : List Byte) :
    exec (.frameReceive p bytes) s =
      .next (s.withLive (s.live.setPort p
        { s.live.port p with requests := (s.live.port p).requests ++ [receiveFrame bytes] })) :=
  congrArg Host.Outcome.next (if_neg (mt (holdsFrame_iff s p).1 h))

theorem exec_frameReceive_held {s : State} {p : PortId} (h : HoldsFrame s p) (bytes : List Byte) :
    exec (.frameReceive p bytes) s = .next s := congrArg Host.Outcome.next (if_pos ((holdsFrame_iff s p).2 h))

/-- Settles O7: a frame is checked as it joins the queue, and keeps its code, tag and body unless one check of R175
fails. -/
theorem framesAreQueuedAndChecked : Obligations.FramesAreQueuedAndChecked := by
  unfold Obligations.FramesAreQueuedAndChecked
  refine ⟨fun s p bytes => ⟨fun hlow hup hroom => exec_frameReceive ?_ bytes, fun h => exec_frameReceive_held h bytes⟩,
    fun bytes => ⟨receiveFrame_faulty_iff, fun h => receiveFrame_sound (mt receiveFrame_faulty h)⟩⟩
  simp [HoldsFrame, hlow, hup, hroom]

/-! ### Frames that name no request (R175, R176) -/

theorem mayTake_of {s : State} {p : PortId} (hlow : s.resetLow = false) (hup : (s.live.port p).up = true)
    (hr : (s.live.port p).response = none) : s.mayTake p = true := by simp [State.mayTake, hlow, hup, hr]

/-- R185: the codes of Table 10-2 are 1 to 42. -/
theorem knownCode_outside {code : Nat} (h : code = 0 ∨ 42 < code) : knownCode code = false := by
  simp only [knownCode, Bool.and_eq_false_iff, decide_eq_false_iff_not]
  omega

/-- R175: a faulty frame is answered with tag 0. -/
theorem exec_frameError {s : State} {p : PortId} (hmay : s.mayTake p = true)
    (hq : (s.live.port p).requests.head? = some .faulty) :
    exec (.frameError p) s = .next (answeredOnly s p 0 { code := .frameError, body := .empty }) := by
  obtain ⟨rest, hq⟩ := List.head?_eq_some_iff.1 hq
  show execFrameError p s = _
  rw [execFrameError, hq]
  exact congrArg Host.Outcome.next (if_pos hmay)

/-- R176: a code that names no request is answered with the frame's tag. -/
theorem exec_unknownRequest {s : State} {p : PortId} {code tag : Nat} {body : List Byte} (hmay : s.mayTake p = true)
    (hq : (s.live.port p).requests.head? = some (.sound code tag body)) (hcode : code = 0 ∨ 42 < code) :
    exec (.unknownRequest p) s = .next (answeredOnly s p tag { code := .unknownRequest, body := .empty }) := by
  obtain ⟨rest, hq⟩ := List.head?_eq_some_iff.1 hq
  show execUnknownRequest p s = _
  rw [execUnknownRequest, hq]
  exact congrArg Host.Outcome.next (if_pos (by simp [hmay, knownCode_outside hcode]))

/-- Settles O9: both answers change their port alone. -/
theorem portAnswersBadFrames : Obligations.PortAnswersBadFrames := by
  unfold Obligations.PortAnswersBadFrames
  exact fun s p hlow hup hr => ⟨exec_frameError (mayTake_of hlow hup hr), fun code tag body =>
    exec_unknownRequest (mayTake_of hlow hup hr)⟩

end Sys2Proof.Machine
end

section
/-!
PROOF. Requests that wait, the answer of one taken, and DESCRIBE and SUBSCRIBE (R176, R177, R179, R181, R186): O10 and
O12.
-/

namespace Sys2Proof.Machine

open Sys2Proof

/-! ### Requests that wait (R176) -/

/-- R176: no request of this code is at the front of a port that can take it. -/
theorem frontRequest_none {s : State} {p : PortId} {code : Nat}
    (h : s.resetLow = true ∨ (s.live.port p).up = false ∨ (s.live.port p).response ≠ none ∨
      ∀ tag body, (s.live.port p).requests.head? ≠ some (.sound code tag body)) : s.frontRequest p code = none := by
  by_contra hsome
  obtain ⟨⟨tag, body⟩, hfront⟩ := Option.ne_none_iff_exists'.1 hsome
  obtain ⟨hlow, hup, hresp, hhead⟩ := (taken_iff s p code tag body).1 hfront
  rcases h with h | h | h | h
  · exact nomatch hlow.symm.trans h
  · exact nomatch hup.symm.trans h
  · exact h hresp
  · exact h tag body hhead

/-- R176: a request that its port cannot take changes nothing. -/
theorem exec_waits {c : Instr} {s : State} {p : PortId} {code : Nat} (hreq : requestOf c = some (p, code))
    (h : s.resetLow = true ∨ (s.live.port p).up = false ∨ (s.live.port p).response ≠ none ∨
      ∀ tag body, (s.live.port p).requests.head? ≠ some (.sound code tag body)) : exec c s = .next s := by
  obtain ⟨rule, hexec⟩ := exec_request hreq
  rw [hexec, takeRequest_waits (frontRequest_none h)]

/-! ### The answer of one taken (R176, R177) -/

/-- A change of one port leaves the cursors, the other ports and the rest of the part. -/
theorem setPort_leaves (s : State) (p : PortId) (x : Port) :
    OthersSame s (s.withLive (s.live.setPort p x)) 0 p ∧
      (s.withLive (s.live.setPort p x)).live.cursor 0 = s.live.cursor 0 ∧
      SameStore s (s.withLive (s.live.setPort p x)) :=
  ⟨⟨fun _ _ => rfl, fun _ hq => port_setPort_ne s.live x (Ne.symm hq)⟩, rfl, rfl, rfl, rfl, rfl, rfl, rfl, rfl, rfl⟩

/-- Settles O10: the request leaves its port's queue, and the response enters its port's holder; neither touches
anything else. -/
theorem requestsWaitOrAreAnswered : Obligations.RequestsWaitOrAreAnswered := by
  unfold Obligations.RequestsWaitOrAreAnswered
  refine ⟨fun c s p code => exec_waits, fun s u p code tag body r _ => ?_⟩
  obtain ⟨hothers, hcursor, hstore⟩ := setPort_leaves s p
    { s.live.port p with requests := (s.live.port p).requests.drop 1 }
  exact ⟨(port_popRequest s p p).trans (if_pos rfl), (port_answered s p p tag r u).trans (if_pos rfl), hothers, hcursor,
    hstore, setPort_leaves u p _⟩

/-! ### SUBSCRIBE (R179) -/

theorem subsOf_set {set : Byte} (h : set.toNat < 16) :
    subsOf set =
      some
        { attention := set.getLsbD 0, segmentsAll := set.getLsbD 1, clock := set.getLsbD 2
          store := set.getLsbD 3 } := if_pos h

theorem subscribe_sets (p : PortId) {set : Byte} {x : Subs} (h : subsOf set = some x) (b : List Byte) (s : State) :
    subscribe p set b s =
      ({ code := .done, body := .subscriptions x }, s.withLive (s.live.setPort p { s.live.port p with subs := x })) := by
  rw [subscribe, h]

/-- R186: a reserved bit of the set is refused (log 38). -/
theorem subscribe_refuses (p : PortId) {set : Byte} (h : 16 ≤ set.toNat) (b : List Byte) (s : State) :
    subscribe p set b s = (Response.plain .badArgument, s) := by
  rw [subscribe, subsOf, if_neg (not_lt.2 h)]

/-- Settles O12: the set and the description are the rules' own answers to a request taken. -/
theorem describeAndSubscribe : Obligations.DescribeAndSubscribe := by
  unfold Obligations.DescribeAndSubscribe
  refine ⟨fun s p tag body set htaken => ⟨fun hset => ?_, fun hset => ?_⟩,
    fun s p tag body htaken => congrArg Host.Outcome.next (takeRequest_gives htaken rfl)⟩
  · have gives := takeRequest_gives htaken (subscribe_sets p (subsOf_set hset) body _)
    exact ⟨_, rfl, rfl, rfl, rfl, congrArg Host.Outcome.next gives⟩
  · exact congrArg Host.Outcome.next (takeRequest_gives htaken (subscribe_refuses p hset body _))

end Sys2Proof.Machine
end

section
/-!
SUPPORT. A body laid out as fields one behind the other: where each stands, and the bits of a field of flags (R185).
-/

namespace Sys2Proof.Machine

open Sys2Proof

/-! ### Fields one behind the other -/

/-- Fields of given widths and numbers, one behind the other. -/
def laid (fs : List (Nat × Nat)) : List Byte := fs.flatMap fun f => le f.1 f.2

/-- The bytes hold the fields from an offset on, one behind the other. -/
def Holds (bs : List Byte) : Nat → List (Nat × Nat) → Prop
  | _, [] => True
  | off, (n, v) :: fs => FieldIs bs off n v ∧ Holds bs (off + n) fs

@[simp] theorem laid_nil : laid [] = [] := rfl

@[simp] theorem laid_cons (n v : Nat) (fs : List (Nat × Nat)) : laid ((n, v) :: fs) = le n v ++ laid fs := rfl

theorem laid_length (fs : List (Nat × Nat)) : (laid fs).length = (fs.map Prod.fst).sum := by
  simp [laid, List.length_flatMap]

theorem holds_behind (front : List Byte) (fs : List (Nat × Nat)) (rest : List Byte) :
    Holds (front ++ (laid fs ++ rest)) front.length fs := by
  induction fs generalizing front with
  | nil => trivial
  | cons f fs ih =>
    obtain ⟨n, v⟩ := f
    rw [laid_cons, List.append_assoc]
    refine ⟨(FieldIs.head n v _).behind, ?_⟩
    have := ih (front ++ le n v)
    rwa [List.append_assoc, List.length_append, le_length] at this

/-- A body of fields, with what stands behind them. -/
theorem holds_laid {bs : List Byte} {fs : List (Nat × Nat)} {rest : List Byte} (h : bs = laid fs ++ rest) :
    Holds bs 0 fs := h ▸ holds_behind [] fs rest

/-- A body of fields alone. -/
theorem holds_all {bs : List Byte} {fs : List (Nat × Nat)} (h : bs = laid fs) : Holds bs 0 fs :=
  holds_laid (rest := []) (by rw [h, List.append_nil])

/-- A body of fields and parts of one length each. -/
theorem laid_parts_length {α : Type} {f : α → List Byte} {w : Nat} (hw : ∀ x, (f x).length = w) (fs : List (Nat × Nat))
    (xs : List α) : (laid fs ++ xs.flatMap f).length = (fs.map Prod.fst).sum + w * xs.length := by
  rw [List.length_append, laid_length, flatMap_length_of_eq hw]

/-- A field of the i-th of the parts of one length that stand behind the fields. -/
theorem FieldIs.inPart {α : Type} {f : α → List Byte} {w : Nat} (hw : ∀ x, (f x).length = w) {bs : List Byte}
    {fs : List (Nat × Nat)} {xs : List α} (h : bs = laid fs ++ xs.flatMap f) {front : Nat}
    (hfront : (fs.map Prod.fst).sum = front) {i : Nat} {x : α} (hx : xs[i]? = some x) {off n v place : Nat}
    (hf : FieldIs (f x) off n v) (hplace : place = front + (w * i + off)) : FieldIs bs place n v := by
  have := (FieldIs.part hw hx hf).behind (a := laid fs)
  rwa [laid_length, hfront, ← hplace, ← h] at this

/-! ### What the lists of fields make up -/

theorem laid_append (fs gs : List (Nat × Nat)) : laid (fs ++ gs) = laid fs ++ laid gs := List.flatMap_append

theorem holds_append {bs : List Byte} {off : Nat} {fs gs : List (Nat × Nat)} :
    Holds bs off (fs ++ gs) ↔ Holds bs off fs ∧ Holds bs (off + (fs.map Prod.fst).sum) gs := by
  induction fs generalizing off with
  | nil => simp [Holds]
  | cons f fs ih => simp [Holds, ih, and_assoc, Nat.add_assoc]

/-- Behind the fields stands the rest. -/
theorem laid_drop (fs : List (Nat × Nat)) (rest : List Byte) : (laid fs ++ rest).drop (fs.map Prod.fst).sum = rest := by
  rw [← laid_length, List.drop_left]

/-! ### Bytes of flags -/

/-- A field of one byte that its number fits. -/
theorem FieldIs.byteAt {bs : List Byte} {i v : Nat} (h : FieldIs bs i 1 v) (hv : v < 256) : byteAt bs i = v := by
  rw [byteAt_eq_leAt h.1, h.2]
  exact Nat.mod_eq_of_lt hv

end Sys2Proof.Machine
end

section
/-!
PROOF. A request frame is received as it was sent (R175, R184, R185).
-/

namespace Sys2Proof.Machine

open Sys2Proof

/-- Table 11-1: the header of a frame with a body of this length. -/
def headerFields (kind code tag len : Nat) : List (Nat × Nat) :=
  [(1, kind), (1, 0), (2, code), (2, tag), (2, len), (4, 0)]

/-- R184: what the CRC-32 of a frame is taken over. -/
def frameHead (kind code tag : Nat) (body : List Byte) : List Byte :=
  laid (headerFields kind code tag body.length) ++ body

theorem frameBytes_eq (kind code tag : Nat) (body : List Byte) :
    frameBytes kind code tag body =
      frameHead kind code tag body ++ le 4 (crc32 (frameHead kind code tag body)).toNat := rfl

theorem frameHead_length (kind code tag : Nat) (body : List Byte) :
    (frameHead kind code tag body).length = 12 + body.length := by
  rw [frameHead, List.length_append, laid_length]
  rfl

theorem frameBytes_length (kind code tag : Nat) (body : List Byte) :
    (frameBytes kind code tag body).length = 12 + body.length + 4 := by
  rw [frameBytes_eq, List.length_append, frameHead_length, le_length]

/-- R185: the CRC-32 that a frame carries is that of its header and body. -/
theorem frameBytes_crc (kind code tag : Nat) (body : List Byte) :
    let bs := frameBytes kind code tag body
    crc32 (bs.take (bs.length - 4)) = BitVec.ofNat 32 (leAt bs (bs.length - 4) 4) := by
  intro bs
  have hoff : bs.length - 4 = (frameHead kind code tag body).length := by
    rw [frameBytes_length, frameHead_length, Nat.add_sub_cancel]
  have hfield : FieldIs bs (frameHead kind code tag body).length 4 (crc32 (frameHead kind code tag body)).toNat :=
    (FieldIs.last 4 _).behind
  have htake : bs.take (frameHead kind code tag body).length = frameHead kind code tag body := List.take_left
  rw [hoff, hfield.2, htake]
  apply BitVec.eq_of_toNat_eq
  rw [BitVec.toNat_ofNat]
  omega

/-- Table 11-1: the fields of a frame's header. -/
theorem frameBytes_holds (kind code tag : Nat) (body : List Byte) :
    Holds (frameBytes kind code tag body) 0 (headerFields kind code tag body.length) :=
  holds_laid (rest := body ++ le 4 (crc32 (frameHead kind code tag body)).toNat) (by
    rw [frameBytes_eq, frameHead, List.append_assoc])

/-- R184: the body of a frame stands between header and CRC-32. -/
theorem frameBytes_body (kind code tag : Nat) (body : List Byte) :
    ((frameBytes kind code tag body).drop 12).take body.length = body := by
  have hdrop : (frameBytes kind code tag body).drop 12 = body ++ le 4 (crc32 (frameHead kind code tag body)).toNat := by
    rw [frameBytes_eq, frameHead, List.append_assoc]
    exact laid_drop (headerFields kind code tag body.length) _
  rw [hdrop, List.take_left]

/-- R175, R184: the check of a frame formed by Table 11-1 finds no fault, and reads the fields that were written. -/
theorem receiveFrame_frameBytes {code tag : Nat} {body : List Byte} (hcode : code < 65536) (htag : tag < 65536)
    (hbody : body.length ≤ 16392) : receiveFrame (frameBytes 1 code tag body) = .sound code tag body := by
  have hlen := frameBytes_length 1 code tag body
  have hcrc := frameBytes_crc 1 code tag body
  have hholds := frameBytes_holds 1 code tag body
  have hread := frameBytes_body 1 code tag body
  generalize frameBytes 1 code tag body = bs at *
  obtain ⟨hkind, hzero, ⟨-, hc⟩, ⟨-, ht⟩, ⟨-, hl⟩, ⟨-, hr⟩, -⟩ := hholds
  have hc' : leAt bs 2 2 = code := hc.trans (Nat.mod_eq_of_lt hcode)
  have ht' : leAt bs 4 2 = tag := ht.trans (Nat.mod_eq_of_lt htag)
  have hl' : leAt bs 6 2 = body.length := hl.trans (Nat.mod_eq_of_lt (show body.length < 65536 by omega))
  have hsound : ¬FrameFault bs := by
    rintro (h | h | h | h | h | h | h)
    · omega
    · exact h hcrc
    · omega
    · omega
    · exact h (hkind.byteAt (by decide))
    · exact h (hzero.byteAt (by decide))
    · exact h hr
  rw [receiveFrame_sound hsound, hc', ht', show bs.length - 16 = body.length by omega, hread]

end Sys2Proof.Machine
end

section
/-!
PROOF. The items and the laid-out bodies as lists of fields (R185, R187, R189, R190, Tables 11-5 to 11-10).
-/

namespace Sys2Proof.Machine

open Sys2Proof

/-! ### Bits of flags -/

/-- Table 11-5: the flags of a RECORD item, and its presentation. -/
theorem recordFlags_bits :
    ∀ (a b c d : Bool) (k : Fin 4),
      let n := bitAt 0 a + bitAt 1 b + bitAt 2 c + bitAt 3 d + 16 * k.val
      n < 256 ∧ n.testBit 0 = a ∧ n.testBit 1 = b ∧ n.testBit 2 = c ∧ n.testBit 3 = d ∧ n / 16 = k.val := by
  decide

/-- Table 11-9: three flags, and the pending hold above them. -/
theorem cursorFlags_bits :
    ∀ (a b c : Bool) (k : Fin 3),
      let n := bitAt 0 a + bitAt 1 b + bitAt 2 c + 8 * k.val
      n < 256 ∧ n.testBit 0 = a ∧ n.testBit 1 = b ∧ n.testBit 2 = c ∧ n / 8 = k.val := by
  decide

/-- Table 11-2: the activity flags. -/
theorem activityFlags_bits :
    ∀ a b c d e f g : Bool,
      let n := bitAt 0 a + bitAt 1 b + bitAt 2 c + bitAt 3 d + bitAt 4 e + bitAt 5 f + bitAt 6 g
      n < 256 ∧ n.testBit 0 = a ∧ n.testBit 1 = b ∧ n.testBit 2 = c ∧ n.testBit 3 = d ∧ n.testBit 4 = e ∧
        n.testBit 5 = f ∧ n.testBit 6 = g ∧ n.testBit 7 = false := by
  decide

/-- Table 11-10: the flags of READ_RECORDER. -/
theorem recorderFlags_bits :
    ∀ a b c d : Bool,
      let n := bitAt 0 a + bitAt 1 b + bitAt 2 c + bitAt 3 d
      n < 16 ∧ n.testBit 0 = a ∧ n.testBit 1 = b ∧ n.testBit 2 = c ∧ n.testBit 3 = d := by
  decide

theorem presentation_code_lt (x : Presentation) : x.code < 4 := by cases x <;> decide

theorem pendingHoldCode_lt (x : Option PendingHold) : pendingHoldCode x < 3 := by
  cases x with
  | none => decide
  | some x => cases x <;> decide

/-! ### Items (Tables 11-5 to 11-7) -/

/-- Table 11-5. -/
def RecordItem.fields (n : Nat) (r : RecordItem) : List (Nat × Nat) :=
  [(1, r.kind), (1, r.flags), (2, n), (8, (r.time % 2 ^ 64).toNat), (2, r.point.val), (1, swStateCode r.state),
    (1, qualityCode r.quality)]

/-- Table 11-6: the FULL continuation. -/
def FullPart.fields (f : FullPart) : List (Nat × Nat) :=
  [(1, f.cause.getD 0), (1, f.sources.length), (2, 0), (4, f.commit)]

/-- Table 11-6: a source. -/
def Source.fields (x : Source) : List (Nat × Nat) :=
  [(1, x.recorder.val), (1, 0), (2, x.seq), (2, x.idx), (2, 0), (8, x.recorderTime)]

theorem source_bytes (x : Source) : x.bytes = laid x.fields := rfl

theorem source_length (x : Source) : x.bytes.length = 16 := rfl

theorem recordItem_bytes (n : Nat) (r : RecordItem) :
    RecordItem.bytes n r = laid (r.fields n) ++ (r.full.map FullPart.bytes).getD [] := rfl

theorem recordItem_bytes_full (n : Nat) {r : RecordItem} {f : FullPart} (h : r.full = some f) :
    RecordItem.bytes n r = laid (r.fields n ++ f.fields) ++ f.sources.flatMap Source.bytes := by
  rw [recordItem_bytes, h]
  rfl

theorem recordItem_flags (n : Nat) (r : RecordItem) :
    let b := byteAt (RecordItem.bytes n r) 1
    b.testBit 0 = r.late ∧ b.testBit 1 = r.repositioned ∧ b.testBit 2 = r.corroborated ∧
      b.testBit 3 = r.noChange ∧ b / 16 = r.presentation.code := by
  obtain ⟨hlt, hbits⟩ := recordFlags_bits r.late r.repositioned r.corroborated r.noChange
    ⟨r.presentation.code, presentation_code_lt _⟩
  obtain ⟨-, hfield, -⟩ := holds_laid (recordItem_bytes n r)
  intro b
  rw [show b = r.flags from hfield.byteAt hlt]
  exact hbits

/-- Table 11-7: a SNAP item. -/
theorem snap_bytes (n : Nat) (p : PointId) (st : PtState) (t commit : Option Nat) :
    Item.bytes { number := n, body := .snap p st t commit } =
      laid [(1, 3), (1, ptStateCode st), (2, n), (2, p.val), (2, 0), (8, t.getD (2 ^ 64 - 1)), (4, commit.getD 0),
        (4, 0)] := rfl

/-- Section 11.4: a marker's argument word. -/
def Marker.wordFields : Marker → List (Nat × Nat)
  | .rebase _ n => [(2, n), (2, 0)]
  | .watch w => [(1, w.val), (3, 0)]
  | .gapOpen r i _ => [(1, r.val), (1, 0), (2, i)]
  | .gapClose r i _ => [(1, r.val), (1, 0), (2, i)]
  | _ => [(4, 0)]

/-- Table 11-7. -/
def Marker.fields (n : Nat) (m : Marker) : List (Nat × Nat) :=
  [(1, 4), (1, m.code), (2, n), (8, m.time.getD (2 ^ 64 - 1))] ++ m.wordFields

theorem marker_bytes (n : Nat) (m : Marker) :
    Item.bytes { number := n, body := .marker m } = laid (m.fields n) := by
  cases m <;> rfl

theorem marker_length (n : Nat) (m : Marker) : (Item.bytes { number := n, body := .marker m }).length = 16 := by
  cases m <;> rfl

/-! ### READ_RECORDS, READ_GAPS, FETCH and PROBE_RESULT (Table 11-8) -/

theorem records_bytes (rs : List ReadRecord) (more : Bool) (phase : Phase) (n : Nat) :
    recordsBody rs more phase n =
      laid [(1, rs.length), (1, bitAt 0 more), (1, phase.code), (1, 0), (4, n)] ++ rs.flatMap ReadRecord.bytes := rfl

/-- R185: the FETCH response. -/
theorem batch_bytes (b : Batch) :
    b.bytes = laid [(1, halfCode b.half), (1, b.items.length), (2, b.first)] ++ b.items.flatMap Item.bytes := rfl

theorem probeResult_bytes (k : Slot) (tag : Nat) (point : PointId) (instant : Nat) (a : ProbeAnswer) :
    probeResultBody k tag point instant a =
      laid [(1, k.val), (1, 0), (2, tag), (2, point.val), (1, ptStateCode a.state),
        (1, (a.quality.map qualityCode).getD 0), (8, instant), (8, a.time.getD (2 ^ 64 - 1)), (4, a.commit.getD 0),
        (4, 0)] := rfl

/-- Table 11-8: an entry of READ_GAPS. -/
def gapFields (x : Nat × Gap) : List (Nat × Nat) :=
  [(2, x.1), (1, x.2.recorder.val), (1, bitAt 0 x.2.stop.isSome + bitAt 1 x.2.lost.isSome), (4, x.2.lost.getD 0),
    (8, x.2.start), (8, x.2.stop.getD (2 ^ 64 - 1))]

theorem gapEntry_bytes (x : Nat × Gap) : gapEntryBytes x = laid (gapFields x) := rfl

theorem gapEntry_length (x : Nat × Gap) : (gapEntryBytes x).length = 24 := rfl

theorem gaps_bytes (gs : List (Nat × Gap)) (more : Bool) (held : Nat) :
    gapsBody gs more held =
      laid [(1, gs.length), (1, bitAt 0 more), (2, held), (4, 0)] ++ gs.flatMap gapEntryBytes := rfl

theorem gaps_length (gs : List (Nat × Gap)) (more : Bool) (held : Nat) :
    (gapsBody gs more held).length = 8 + 24 * gs.length := by
  rw [gaps_bytes, laid_parts_length gapEntry_length]
  rfl

/-- Table 11-8: the presence bits of an absent stop and an absent lost count are clear. -/
theorem presence_code (g : Gap) :
    bitAt 0 g.stop.isSome + bitAt 1 g.lost.isSome = (if g.stop = none then 0 else 1) + if g.lost = none then 0 else 2 := by
  cases g.stop <;> cases g.lost <;> rfl

/-! ### READ_CURSOR (Table 11-9) -/

/-- Table 11-9: the options block. -/
def Options.fields (o : Options) : List (Nat × Nat) :=
  [(1, o.pacing.code), (1, bitAt 0 o.loop), (1, o.mode.code), (1, o.batchSize), (1, bitAt 0 o.split),
    (1, o.form.code), (1, o.presentation.code), (1, o.source.code), (1, o.action.code), (7, 0), (8, o.windowStart),
    (8, o.windowEnd.getD (2 ^ 64 - 1))]

theorem options_bytes (o : Options) : o.bytes = laid o.fields := rfl

/-- Table 11-9: a position. -/
def positionFields (q : Option Key) : List (Nat × Nat) :=
  [(8, (q.map Key.time).getD (2 ^ 64 - 1)), (1, (q.map Key.slot).getD 255), (1, 0),
    (2, (q.map Key.seq).getD 65535), (2, (q.map Key.idx).getD 65535)]

theorem position_bytes (q : Option Key) : positionBytes q = laid (positionFields q) := by cases q <;> rfl

/-- Table 11-9: the rebuild record. -/
def rebuildFields : Option RebuildRecord → List (Nat × Nat)
  | none => [(8, 0), (8, 2 ^ 64 - 1), (8, 2 ^ 64 - 1)]
  | some x =>
      [(1, x.kind.code), (1, x.outcome.code), (2, 0), (4, x.applied), (8, x.target),
        (8, x.start.getD (2 ^ 64 - 1))]

theorem rebuild_bytes (x : Option RebuildRecord) : rebuildBytes x = laid (rebuildFields x) := by cases x <;> rfl

theorem rebuildFields_width (x : Option RebuildRecord) : ((rebuildFields x).map Prod.fst).sum = 24 := by
  cases x <;> rfl

/-- Table 11-9: the flags at offset 70. -/
def CursorReport.flags (r : CursorReport) : Nat :=
  bitAt 0 r.overtaken.isSome + bitAt 1 r.chain + bitAt 2 r.trailFrozen + 8 * pendingHoldCode r.pendingHold

/-- Table 11-9: the fields of READ_CURSOR up to the rebuild record. -/
def CursorReport.fields (k : Slot) (r : CursorReport) : List (Nat × Nat) :=
  [(1, k.val), (1, r.state.code), (1, r.owner.val), (1, armedFromCode r.armedFrom)] ++ r.options.fields ++
    positionFields r.position ++
    [(2, r.stepsLeft), (8, r.instant.getD (2 ^ 64 - 1)),
      (8, (r.overtaken.map Overtake.earliest).getD (2 ^ 64 - 1)), (2, (r.overtaken.map Overtake.count).getD 0),
      (1, r.flags), (1, r.activity.code), (1, halfCode r.buffer.half), (1, r.buffer.writing),
      (1, r.buffer.completed.length), (1, r.buffer.outgoing), (2, r.buffer.nextNumber), (1, r.watchesFilled),
      (1, r.probes)]

theorem cursorReport_bytes (k : Slot) (r : CursorReport) :
    r.bytes k = laid (r.fields k ++ rebuildFields r.rebuildRecord) ++ r.buffer.completed.flatMap batchSummaryBytes := by
  unfold CursorReport.bytes CursorReport.fields
  simp only [options_bytes, position_bytes, rebuild_bytes, laid_append, laid_cons, laid_nil, leTime, CursorReport.flags,
    List.append_assoc, List.nil_append]

theorem batchSummary_length (b : Option Half × Nat × Nat) : (batchSummaryBytes b).length = 4 := rfl

theorem batchSummary_bytes (b : Option Half × Nat × Nat) :
    batchSummaryBytes b = laid [(1, halfCode b.1), (1, b.2.1), (2, b.2.2)] := rfl

theorem cursorFields_width (k : Slot) (r : CursorReport) : ((r.fields k).map Prod.fst).sum = 80 := by
  simp [CursorReport.fields, Options.fields, positionFields]

theorem cursorReport_width (k : Slot) (r : CursorReport) :
    ((r.fields k ++ rebuildFields r.rebuildRecord).map Prod.fst).sum = 104 := by
  rw [List.map_append, List.sum_append, cursorFields_width, rebuildFields_width]

theorem cursorReport_length (k : Slot) (r : CursorReport) :
    (r.bytes k).length = 104 + 4 * r.buffer.completed.length := by
  rw [cursorReport_bytes, laid_parts_length batchSummary_length, cursorReport_width]

/-! ### READ_RECORDER (Table 11-10) -/

/-- Table 11-10: a pending entry. -/
def PendingEntry.fields (x : PendingEntry) : List (Nat × Nat) :=
  [(2, x.seq), (2, x.idx), (2, x.point.val), (1, swStateCode x.state), (1, x.cause.getD 0), (8, x.ticks)]

theorem pendingEntry_bytes (x : PendingEntry) : x.bytes = laid x.fields := rfl

theorem pendingEntry_length (x : PendingEntry) : x.bytes.length = 16 := rfl

/-- Table 11-10: the fields of READ_RECORDER before the pending list; `flags` is the byte at offset 12. -/
def recorderFields (r : RecId) (c : Context) (flags queued : Nat) : List (Nat × Nat) :=
  let t := c.timing
  [(1, r.val), (1, t.state.code), (1, (t.baseQuality.map AnchorQuality.code).getD 0), (1, t.pendingList.length),
    (2, t.openGap.getD 65535), (2, t.lastSeq.getD 0), (2, c.flags.toNat), (2, c.mask.toNat), (1, flags), (1, queued),
    (2, 0), (8, t.running.getD (2 ^ 64 - 1)), (8, t.driftBase.getD (2 ^ 64 - 1)), (8, t.lastKnown.getD (2 ^ 64 - 1)),
    (8, t.lastRecord.getD (2 ^ 64 - 1)), (8, t.lastAnchor.getD (2 ^ 64 - 1)), (8, t.tickCount)]

theorem recorder_bytes (r : RecId) (c : Context) (attention inProgress : Bool) (queued : Nat) :
    recorderBody r c attention queued inProgress =
      laid (recorderFields r c
        (bitAt 0 attention + bitAt 1 c.noted + bitAt 2 inProgress + bitAt 3 c.timing.lastSeq.isSome) queued) ++
        c.timing.pendingList.flatMap PendingEntry.bytes := by
  unfold recorderBody recorderFields
  simp only [laid_cons, laid_nil, leTime, List.append_assoc, List.nil_append]

theorem recorderFields_width (r : RecId) (c : Context) (flags queued : Nat) :
    ((recorderFields r c flags queued).map Prod.fst).sum = 64 := by simp [recorderFields]

theorem recorder_length (r : RecId) (c : Context) (attention inProgress : Bool) (queued : Nat) :
    (recorderBody r c attention queued inProgress).length = 64 + 16 * c.timing.pendingList.length := by
  rw [recorder_bytes, laid_parts_length pendingEntry_length, recorderFields_width]

end Sys2Proof.Machine
end

section
/-!
PROOF. What the part sends and receives, byte for byte (R175, R184 to R187, R189, R190): O8.
-/

namespace Sys2Proof.Machine

open Sys2Proof

/-! ### Value codes (Table 11-2) -/

theorem ptStateOf_reads {n : Nat} {x : PtState} : ptStateOf n = some x ↔ ptStateCode x = n := by
  unfold ptStateOf
  cases x with
  | unknown => split_ifs with h <;> simp [ptStateCode, h, eq_comm]
  | known st =>
    have hcode : swStateCode st ≠ 5 := by cases st <;> decide
    split_ifs with h
    · simp [ptStateCode, h, hcode]
    · rw [ptStateCode, eq_comm (b := n), ← swStateOf_eq_some]
      simp

/-- Table 3-4: the set of one cause is its bit. -/
theorem causeSet_toNat (x : Cause) : x.set.toNat = 2 ^ x.bit := by cases x <;> rfl

/-! ### The flags of READ_CURSOR and READ_RECORDER -/

/-- Table 11-9: the flags and the pending hold at offset 70. -/
theorem cursorReport_flags (r : CursorReport) :
    r.flags < 256 ∧ r.flags.testBit 0 = r.overtaken.isSome ∧ r.flags.testBit 1 = r.chain ∧
      r.flags.testBit 2 = r.trailFrozen ∧ r.flags / 8 = pendingHoldCode r.pendingHold :=
  cursorFlags_bits r.overtaken.isSome r.chain r.trailFrozen ⟨_, pendingHoldCode_lt _⟩

/-- Table 11-9: the activity flags at offset 71. -/
theorem activity_flags (a : Activity) :
    a.code < 256 ∧ a.code.testBit 0 = a.stalled ∧ a.code.testBit 1 = a.lagging ∧ a.code.testBit 2 = a.atHead ∧
      a.code.testBit 3 = a.waiting ∧ a.code.testBit 4 = a.probing ∧ a.code.testBit 5 = a.rebasing ∧
      a.code.testBit 6 = a.snapshot ∧ a.code.testBit 7 = false :=
  activityFlags_bits a.stalled a.lagging a.atHead a.waiting a.probing a.rebasing a.snapshot

/-! ### The parts of one length -/

/-- Table 11-6: a FULL item and its sources. -/
theorem recordItem_length_full (n : Nat) {r : RecordItem} {f : FullPart} (h : r.full = some f) :
    (RecordItem.bytes n r).length = 24 + 16 * f.sources.length := by
  rw [recordItem_bytes_full n h, laid_parts_length source_length]
  rfl

/-- Table 11-6: every source of a FULL item is laid out behind those before it. -/
theorem recordItem_sources (n : Nat) {r : RecordItem} {f : FullPart} (h : r.full = some f) {i : Nat} {x : Source}
    (hx : f.sources[i]? = some x) :
    let bs := RecordItem.bytes n r
    FieldIs bs (24 + 16 * i) 1 x.recorder.val ∧ FieldIs bs (25 + 16 * i) 1 0 ∧ FieldIs bs (26 + 16 * i) 2 x.seq ∧
      FieldIs bs (28 + 16 * i) 2 x.idx ∧ FieldIs bs (30 + 16 * i) 2 0 ∧ FieldIs bs (32 + 16 * i) 8 x.recorderTime := by
  have behind {off w v place : Nat} : FieldIs x.bytes off w v → place = 24 + (16 * i + off) →
      FieldIs (RecordItem.bytes n r) place w v := FieldIs.inPart source_length (recordItem_bytes_full n h) rfl hx
  obtain ⟨h0, h1, h2, h4, h6, h8, -⟩ := holds_all (source_bytes x)
  exact ⟨behind h0 (by omega), behind h1 (by omega), behind h2 (by omega), behind h4 (by omega), behind h6 (by omega),
    behind h8 (by omega)⟩

/-- Table 11-8: every entry of READ_GAPS is laid out behind those before it. -/
theorem gaps_entries {gs : List (Nat × Gap)} (more : Bool) (held : Nat) {i n : Nat} {g : Gap}
    (hg : gs[i]? = some (n, g)) :
    let bs := gapsBody gs more held
    FieldIs bs (8 + 24 * i) 2 n ∧ FieldIs bs (10 + 24 * i) 1 g.recorder.val ∧
      FieldIs bs (11 + 24 * i) 1 ((if g.stop = none then 0 else 1) + if g.lost = none then 0 else 2) ∧
      FieldIs bs (12 + 24 * i) 4 (g.lost.getD 0) ∧ FieldIs bs (16 + 24 * i) 8 g.start ∧
      FieldIs bs (24 + 24 * i) 8 (g.stop.getD (2 ^ 64 - 1)) := by
  have behind {off w v place : Nat} : FieldIs (gapEntryBytes (n, g)) off w v → place = 8 + (24 * i + off) →
      FieldIs (gapsBody gs more held) place w v := FieldIs.inPart gapEntry_length (gaps_bytes gs more held) rfl hg
  obtain ⟨h0, h2, h3, h4, h8, h16, -⟩ := holds_all (gapEntry_bytes (n, g))
  rw [presence_code] at h3
  exact ⟨behind h0 (by omega), behind h2 (by omega), behind h3 (by omega), behind h4 (by omega), behind h8 (by omega),
    behind h16 (by omega)⟩

/-- Table 11-9: every completed batch of READ_CURSOR is laid out behind those before it. -/
theorem cursorReport_batches (k : Slot) {r : CursorReport} {i : Nat} {h : Option Half} {count first : Nat}
    (hb : r.buffer.completed[i]? = some (h, count, first)) :
    FieldIs (r.bytes k) (104 + 4 * i) 1 (halfCode h) ∧ FieldIs (r.bytes k) (105 + 4 * i) 1 count ∧
      FieldIs (r.bytes k) (106 + 4 * i) 2 first := by
  have behind {off w v place : Nat} : FieldIs (batchSummaryBytes (h, count, first)) off w v →
      place = 104 + (4 * i + off) → FieldIs (r.bytes k) place w v :=
    FieldIs.inPart batchSummary_length (cursorReport_bytes k r) (cursorReport_width k r) hb
  obtain ⟨h0, h1, h2, -⟩ := holds_all (batchSummary_bytes (h, count, first))
  exact ⟨behind h0 (by omega), behind h1 (by omega), behind h2 (by omega)⟩

/-- Table 11-10: every pending entry of READ_RECORDER is laid out behind those before it. -/
theorem recorder_pending (r : RecId) {c : Context} (attention inProgress : Bool) (queued : Nat) {i : Nat}
    {x : PendingEntry} (hx : c.timing.pendingList[i]? = some x) :
    let bs := recorderBody r c attention queued inProgress
    FieldIs bs (64 + 16 * i) 2 x.seq ∧ FieldIs bs (66 + 16 * i) 2 x.idx ∧ FieldIs bs (68 + 16 * i) 2 x.point.val ∧
      FieldIs bs (70 + 16 * i) 1 (swStateCode x.state) ∧ FieldIs bs (71 + 16 * i) 1 (x.cause.getD 0) ∧
      FieldIs bs (72 + 16 * i) 8 x.ticks := by
  have behind {off w v place : Nat} : FieldIs x.bytes off w v → place = 64 + (16 * i + off) →
      FieldIs (recorderBody r c attention queued inProgress) place w v :=
    FieldIs.inPart pendingEntry_length (recorder_bytes r c attention inProgress queued)
      (recorderFields_width r c _ queued) hx
  obtain ⟨h0, h2, h4, h6, h7, h8, -⟩ := holds_all (pendingEntry_bytes x)
  exact ⟨behind h0 (by omega), behind h2 (by omega), behind h4 (by omega), behind h6 (by omega), behind h7 (by omega),
    behind h8 (by omega)⟩

/-! ### The obligation -/

/-- Settles O8: each body is a list of fields, each behind those before it; the flags of a byte are bits below the code
above them; the codes are the tables'. -/
theorem frameRoundTrip : Obligations.FrameRoundTrip := by
  unfold Obligations.FrameRoundTrip
  refine ⟨fun code tag body => receiveFrame_frameBytes, fun n r => ?record, fun n p st t commit => ?snap,
    fun n m => ?marker, fun rs more phase n => ?records, fun gs more held => ?gaps, fun k => rfl, fun k r => ?cursor,
    fun r c attention inProgress queued => ?recorder, fun b => ?batch, fun k tag point instant a => ?probe, ?codes, rfl,
    rfl, ⟨fun n st => swStateOf_eq_some.trans eq_comm, fun n st => ptStateOf_reads, fun n k => deviceKindOf_reads, rfl,
      rfl, rfl, rfl, rfl, rfl, rfl⟩, fun f x => ⟨rfl, causeSet_toNat x⟩, rfl⟩
  case record =>
    obtain ⟨h0, -, h2, h4, h12, h14, h15, -⟩ := holds_laid (recordItem_bytes n r)
    refine ⟨h0, h2, h4, h12, h14, h15, recordItem_flags n r, fun hfull => ?_, fun f hfull => ?_⟩
    · show (RecordItem.bytes n r).length = 16
      rw [recordItem_bytes, hfull]
      rfl
    · obtain ⟨-, -, -, -, -, -, -, h16, h17, h18, h20, -⟩ := holds_laid (recordItem_bytes_full n hfull)
      exact ⟨recordItem_length_full n hfull, h16, h17, h18, h20, fun i x => recordItem_sources n hfull⟩
  case snap =>
    obtain ⟨h0, h1, h2, h4, h6, h8, h16, h20, -⟩ := holds_all (snap_bytes n p st t commit)
    exact ⟨rfl, h0, h1, h2, h4, h6, h8, h16, h20⟩
  case marker =>
    obtain ⟨h0, h1, h2, h4, hword⟩ := holds_all (marker_bytes n m)
    refine ⟨marker_length n m, h0, h2, ?_⟩
    cases m with
    | seekDone | wrap | endPass | head => exact ⟨⟨h1, h4⟩, hword.1⟩
    | rebase | watch =>
      obtain ⟨h12, hrest, -⟩ := hword
      exact ⟨⟨h1, h4⟩, h12, hrest⟩
    | gapOpen | gapClose =>
      obtain ⟨h12, h13, h14, -⟩ := hword
      exact ⟨⟨h1, h4⟩, h12, h13, h14⟩
  case records =>
    obtain ⟨h0, h1, h2, h3, h4, -⟩ := holds_laid (records_bytes rs more phase n)
    exact ⟨_, rfl, h0, h1, h2, h3, h4, rfl⟩
  case gaps =>
    obtain ⟨h0, h1, h2, h4, -⟩ := holds_laid (gaps_bytes gs more held)
    exact ⟨_, rfl, gaps_length gs more held, h0, h1, h2, h4, fun i n g => gaps_entries more held⟩
  case cursor =>
    obtain ⟨hfields, hrebuild⟩ := holds_append.1 (holds_laid (cursorReport_bytes k r))
    rw [cursorFields_width] at hrebuild
    obtain ⟨h0, h1, h2, h3, h4, h5, h6, h7, h8, h9, h10, h11, h12, h13, h20, h28, h36, h44, h45, h46, h48, h50, h52, h60,
      h68, h70, h71, h72, h73, h74, h75, h76, h78, h79, -⟩ := hfields
    obtain ⟨hflags, hbits⟩ := cursorReport_flags r
    obtain ⟨hactivity, habits⟩ := activity_flags r.activity
    refine ⟨_, rfl, cursorReport_length k r, ⟨h0, h1, h2, h3⟩,
      ⟨h4, h5, h6, h7, h8, h9, h10, h11, h12, h13, h20, h28⟩, ⟨h36, h44, h45, h46, h48⟩, ⟨h50, h52, h60, h68⟩, ?_, ?_,
      ⟨h72, h73, h74, h75, h76, h78, h79⟩, fun hnone => ?_, fun x hx => ?_, fun i h count first => cursorReport_batches k⟩
    · rwa [h70.byteAt hflags]
    · rwa [h71.byteAt hactivity]
    · rw [hnone] at hrebuild
      obtain ⟨h80, h88, h96, -⟩ := hrebuild
      exact ⟨h80, h88, h96⟩
    · rw [hx] at hrebuild
      obtain ⟨h80, h81, h82, h84, h88, h96, -⟩ := hrebuild
      exact ⟨h80, h81, h82, h84, h88, h96⟩
  case recorder =>
    obtain ⟨h0, h1, h2, h3, h4, h6, h8, h10, h12, h13, h14, h16, h24, h32, h40, h48, h56, -⟩ :=
      holds_laid (recorder_bytes r c attention inProgress queued)
    obtain ⟨hlt, hbits⟩ := recorderFlags_bits attention c.noted inProgress c.timing.lastSeq.isSome
    have hflags := h12.byteAt (hlt.trans (by decide))
    refine ⟨_, rfl, recorder_length r c attention inProgress queued, h0, h1, h2, h3, h4, fun x hx => ?_, h8, h10, ?_, h13,
      h14, h16, h24, h32, h40, h48, h56, fun i x => recorder_pending r attention inProgress queued⟩
    · rwa [hx] at h6
    · rw [hflags]
      obtain ⟨b0, b1, b2, b3⟩ := hbits
      exact ⟨b0, b1, b2, b3, hlt⟩
  case batch =>
    obtain ⟨h0, h1, h2, -⟩ := holds_laid (batch_bytes b)
    exact ⟨_, rfl, h0, h1, h2, rfl⟩
  case probe =>
    obtain ⟨h0, h1, h2, h4, h6, h7, h8, h16, h24, h28, -⟩ := holds_all (probeResult_bytes k tag point instant a)
    exact ⟨_, rfl, rfl, h0, h1, h2, h4, h6, h7, h8, h16, h24, h28⟩
  case codes =>
    exact ⟨rfl, fun _ => rfl, rfl, rfl, rfl, rfl, rfl, rfl, rfl, rfl, rfl, rfl, rfl, rfl, fun _ => rfl, rfl, rfl, rfl, rfl,
      rfl⟩

end Sys2Proof.Machine
end
